-- ==== Sys2Proof/Word.lean ====
section
/-! DEFINITION. The word types of the HZ-5120 (spec/00_scope.md R5, R6): plain names for bit vectors. -/

namespace Sys2Proof

/-- 8 bits (R6). -/
abbrev Byte := BitVec 8

/-- The 32-bit word of R6, also one lane of a vector register (R117). -/
abbrev W32 := BitVec 32

/-- The 64-bit double of R6, also a scalar register (R117). -/
abbrev W64 := BitVec 64

/-- One bit for each of the 32 lanes of a group (R94): bit i stands for lane i. -/
abbrev Mask := BitVec 32

/-- A scalar register number, s0 to s63 (R117). -/
abbrev SReg := BitVec 6

/-- A vector register number, v0 to v127 (R117). -/
abbrev VNum := BitVec 7

/-- The four rounding modes of R45 and R75. -/
inductive Rnd where
  /-- To nearest, ties to even. -/
  | rne
  /-- Toward zero. -/
  | rtz
  /-- Toward minus infinity. -/
  | rdn
  /-- Toward plus infinity. -/
  | rup
  deriving DecidableEq, Repr

/-- One value for each lane of a group (R94). -/
abbrev Lanes (α : Type) := Vector α 32

end Sys2Proof
end

