-- ==== Sys2Proof/Syntax.lean ====
section
/-! DEFINITION. The whole instruction set of the HZ-5120 as syntax: operand forms (spec/02_streams_and_encoding.md R33 to R46)
and one constructor of Instr for each row of spec/opcode_table.json, the scalar stream, the lane stream and the
part's own steps (spec/95_what_each_step_holds.md). -/

namespace Sys2Proof

/-- A memory scope (R61). -/
inductive Scope where
  | group | team | cluster | device | domain
  deriving DecidableEq, Repr

/-- The type codes of a lane instruction (R44). -/
inductive LTy where
  | i32 | i8 | i16 | i64 | n32 | n8 | n16 | n64 | f32 | h16 | b16 | t8 | t6 | x32
  deriving DecidableEq, Repr

/-- What a lane source field names (R38, R46, R144, R148). -/
inductive Src where
  /-- A field the instruction does not use. -/
  | none
  /-- A vector register. -/
  | v (r : VNum)
  /-- A scalar register, read from the run's snapshot (R29). -/
  | s (r : SReg)
  /-- Entry 192 + c of the constant table (R40). -/
  | const (c : BitVec 6)
  /-- The execution mask. -/
  | em
  /-- The lane index. -/
  | lane
  /-- A latch. -/
  | latch (n : BitVec 3)
  /-- The 32-bit immediate of an immediate form, or a branch target (R46, R148). -/
  | imm (x : W32)
  /-- A mask operand of R144: k0 to k6, or the all-ones mask for 7. -/
  | mask (k : BitVec 3)
  /-- SELC used as a number: the source type of R66, or log2 S of R327 and R328. -/
  | raw (x : BitVec 9)
  deriving DecidableEq, Repr

/-- The permutation of a source modifier (R42). -/
inductive Perm where
  | none
  | rot (seg : BitVec 3) (dist : BitVec 5)
  | bfly (seg : BitVec 3) (dist : BitVec 5)
  | bcast (seg : BitVec 3) (dist : BitVec 5)
  deriving DecidableEq, Repr

/-- The value modifier of a source (R42). -/
inductive VMod where
  | none | neg | abs | nabs
  deriving DecidableEq, Repr

/-- One source of a lane instruction with its last-use mark and its modifier (R36). -/
structure Opnd where
  src : Src
  last : Bool
  perm : Perm
  vmod : VMod
  deriving DecidableEq, Repr

/-- A source field that the instruction does not use (R38). -/
def Opnd.unused : Opnd := ⟨.none, false, .none, .none⟩

/-- The destination of a lane instruction (R39). -/
inductive Dest where
  /-- No register result: DEST 0 and W 0. -/
  | none
  /-- A vector register. -/
  | v (r : VNum)
  /-- A mask register k0 to k6. -/
  | k (r : BitVec 3)
  /-- EM. -/
  | em
  /-- W = 1: latch L0 only (R47). -/
  | l0
  deriving DecidableEq, Repr

/-- The predicate of a lane instruction (R37). -/
inductive Pred where
  /-- PSEL 7, PNEG 0. -/
  | always
  /-- A mask register, negated when neg. -/
  | on (k : BitVec 3) (neg : Bool)
  deriving DecidableEq, Repr

/-- The operand form of a lane instruction (R36): everything but its opcode. -/
structure LForm where
  ty : LTy
  dest : Dest
  pred : Pred
  var : BitVec 3
  a : Opnd
  b : Opnd
  c : Opnd
  deriving DecidableEq, Repr

/-- The operand types of MMQ (R205). -/
inductive MTy where
  | b16 | h16 | t8 | t6
  deriving DecidableEq, Repr

/-- The types of HAD (R214). -/
inductive HTy where
  | f32 | h16 | b16
  deriving DecidableEq, Repr

/-- The conversions of ACCST (R217). -/
inductive AccConv where
  | f32 | b16 | h16 | t8 | t6
  deriving DecidableEq, Repr

/-- The operations of COLL (R389). -/
inductive CollOp where
  | add | min | max
  deriving DecidableEq, Repr

/-- The common header of a Viaduct packet (R378). -/
structure Hdr where
  ord : Bool
  src : BitVec 16
  dst : BitVec 16
  asid : BitVec 16
  seq : W32
  tag : W32
  /-- A reserved field is nonzero. -/
  bad : Bool
  deriving DecidableEq, Repr

/-- What an access asks of its translation (R284). -/
inductive AccKind where
  | read | write | exec
  deriving DecidableEq, Repr

/-- Where firmware places one group of a team: core 0 to 511 of the part, quadrant, slot, spill area index (R110, R123). -/
structure SlotPlace where
  core : Nat
  quad : BitVec 2
  slot : Nat
  area : Nat
  deriving DecidableEq, Repr

/-- Firmware's choices for a team commit (R94, R110, R170): the bank mask on each of the team's cores, and a slot for each
group, consumers first in ascending index, then producers. -/
structure Placement where
  banks : List (Nat × W32)
  slots : List SlotPlace
  deriving DecidableEq, Repr

/-- How a collective ends for reasons outside the part (R390, R393). -/
inductive CollEnd where
  /-- Nothing from outside: the data received decides. -/
  | data
  /-- The same, but the engine writes at most so many words of its result in this step. -/
  | part (most : Nat)
  /-- A cause arose at another member. -/
  | peer (cause : Nat)
  /-- Another member aborted it. -/
  | abort
  deriving DecidableEq, Repr

/-- The pattern of a burst with its die mask (R225). -/
inductive BurstPattern where
  | linear (mask : BitVec 16) (bank row col : Nat)
  | stride (mask : BitVec 16) (bank row col : Nat) (step : Int)
  | list (mask : BitVec 16) (bank row : Nat) (cols : Vector Nat 16)
  | rowlist (mask : BitVec 16) (banks rows cols : Vector Nat 16)
  deriving DecidableEq, Repr

/-- A vacate request (R364): microseconds to its deadline, its priority, and its neighbour, NEIGH when none is named. -/
structure VacateReq where
  remain : W32
  prio : BitVec 3
  neigh : Option (BitVec 16)
  deriving DecidableEq, Repr

/-- A communicator registration (R388). -/
structure CommReg where
  idx : Nat
  members : List (BitVec 16)
  rank : Nat
  area : W64
  cap : Nat
  grant : Bool
  deriving DecidableEq, Repr

/-- A tenant record (R353). Quadrants by number, 4 × core + quadrant; ways as a set of way numbers. -/
structure TenantRec where
  quads : List Nat
  banks : Nat
  ways : BitVec 16
  bws : Nat
  vrate : Nat
  mindl : Nat
  neigh : BitVec 16
  slice : Nat
  whole : Bool
  deriving DecidableEq, Repr

/-- The host's answer to a fault record (R287). -/
inductive FaultAnswer where
  | resolve (leaf : W64)
  | deliver
  deriving DecidableEq, Repr

/-- A peer range (R384). -/
structure PeerReg where
  base : W64
  size : W64
  pid : BitVec 16
  asid : BitVec 16
  pbase : W64
  deriving DecidableEq, Repr

/-- The arguments of CONTEXT OP 0x01 (R383). -/
structure CtxCreate where
  priv : Bool
  tenant : Nat
  root : W64
  regions : W64
  calla : W64
  spillBase : W64
  spillCount : W32
  deriving DecidableEq, Repr

/-- The arguments of CONTEXT OP 0x05 (R383), with the tile frames that firmware takes for the pool. -/
structure RegionSet where
  dflt : W32
  flags : W32
  poola : W64
  cap : W32
  place : W32
  refill : W32
  frames : List (BitVec 27)
  deriving DecidableEq, Repr

/-- The kind of a request that has no other form (R380, R383): of a CONTEXT, its OP, and whether an argument byte that the OP does not use is
not 0. -/
structure BadKind where
  kind : BitVec 8
  op : BitVec 8
  unused : Bool
  deriving DecidableEq, Repr

/-- What a reply carries (R379): its status word, its 64-bit mask and its words. -/
structure ReplyData where
  status : W32
  mask : W64
  words : List W32
  deriving DecidableEq, Repr

/-- What a COLLD packet carries (R379, R390, R391): the communicator, which of its collectives, the sender's parameters of it, and
a run of the sender's words from an element on. -/
structure CollData where
  comm : Nat
  c : Nat
  kind : BitVec 3
  op : BitVec 2
  swa : Bool
  wire : BitVec 2
  fxs : BitVec 8
  root : Nat
  n : Nat
  off : Nat
  data : List W32
  deriving DecidableEq, Repr

/-- What the fabric manager tells the part at link bring-up (R376). -/
structure FabricIds where
  pid : BitVec 16
  manager : BitVec 16
  hosts : List (BitVec 16)
  deriving DecidableEq, Repr

/-- What a soft error hits (R118, R173), and the bits it flips. -/
inductive SoftTarget where
  | row (g : Nat) (v : VNum) (lane : Nat) (x : W32)
  | latch (g : Nat) (n : BitVec 3) (lane : Nat) (x : W64)
  | scratch (core bank off : Nat) (x : Byte)
  | scale (core bank granule : Nat) (x : Byte)
  deriving DecidableEq, Repr

/-- A section of a checkpoint (R372). -/
structure CkptSection where
  hdr : BitVec 128
  body : List Byte
  deriving DecidableEq, Repr

/-- Every instruction and step of spec/opcode_table.json, one constructor a row. The names are the table's mnemonics. -/
inductive Instr where
  /-- ADD (R128): Scalar 64-bit wrapping addition of two registers. -/
  | add (d a b : SReg)
  /-- SUB (R128): Scalar 64-bit wrapping subtraction. -/
  | sub (d a b : SReg)
  /-- MUL (R128): Scalar low 64 bits of a product. -/
  | mul (d a b : SReg)
  /-- MULH (R128): Scalar high 64 bits of a signed product. -/
  | mulh (d a b : SReg)
  /-- MULHN (R128): Scalar high 64 bits of a natural product. -/
  | mulhn (d a b : SReg)
  /-- DIV (R129): Scalar signed division truncated toward zero; DIVZ on zero divisor. -/
  | div (d a b : SReg)
  /-- DIVN (R129): Scalar natural division; DIVZ on zero divisor. -/
  | divn (d a b : SReg)
  /-- REM (R129): Scalar signed remainder; DIVZ on zero divisor. -/
  | rem (d a b : SReg)
  /-- REMN (R129): Scalar natural remainder; DIVZ on zero divisor. -/
  | remn (d a b : SReg)
  /-- AND (R128): Scalar bitwise AND. -/
  | and (d a b : SReg)
  /-- OR (R128): Scalar bitwise OR. -/
  | or (d a b : SReg)
  /-- XOR (R128): Scalar bitwise XOR. -/
  | xor (d a b : SReg)
  /-- SHL (R128): Scalar shift left by a register amount. -/
  | shl (d a b : SReg)
  /-- SHR (R128): Scalar logical shift right by a register amount. -/
  | shr (d a b : SReg)
  /-- SRA (R128): Scalar arithmetic shift right by a register amount. -/
  | sra (d a b : SReg)
  /-- MIN (R128): Scalar signed minimum. -/
  | min (d a b : SReg)
  /-- MAX (R128): Scalar signed maximum. -/
  | max (d a b : SReg)
  /-- MINN (R128): Scalar natural minimum. -/
  | minn (d a b : SReg)
  /-- MAXN (R128): Scalar natural maximum. -/
  | maxn (d a b : SReg)
  /-- SLT (R128): Scalar signed set-less-than. -/
  | slt (d a b : SReg)
  /-- SLTN (R128): Scalar natural set-less-than. -/
  | sltn (d a b : SReg)
  /-- CLZ (R128): Scalar count of leading zero bits. -/
  | clz (d a : SReg)
  /-- POPC (R128): Scalar count of set bits. -/
  | popc (d a : SReg)
  /-- SEL (R128): Scalar select of sa or sb by the condition in sd. -/
  | sel (d a b : SReg)
  /-- ADDI (R128): Scalar add of a sign-extended 13-bit immediate. -/
  | addi (d a : SReg) (imm : BitVec 13)
  /-- ANDI (R128): Scalar AND with a zero-extended immediate. -/
  | andi (d a : SReg) (imm : BitVec 13)
  /-- SLTI (R128): Scalar signed set-less-than against an immediate. -/
  | slti (d a : SReg) (imm : BitVec 13)
  /-- ORI (R128): Scalar OR with a zero-extended immediate. -/
  | ori (d a : SReg) (imm : BitVec 13)
  /-- XORI (R128): Scalar XOR with a zero-extended immediate. -/
  | xori (d a : SReg) (imm : BitVec 13)
  /-- SHLI (R128): Scalar shift left by an immediate amount. -/
  | shli (d a : SReg) (n : BitVec 6)
  /-- SHRI (R128): Scalar logical shift right by an immediate amount. -/
  | shri (d a : SReg) (n : BitVec 6)
  /-- SRAI (R128): Scalar arithmetic shift right by an immediate amount. -/
  | srai (d a : SReg) (n : BitVec 6)
  /-- SETHI (R34): Loads a sign-extended 19-bit immediate shifted left by 13. -/
  | sethi (d : SReg) (imm : BitVec 19)
  /-- LDS (R130): Scalar load of a double. -/
  | lds (d a : SReg) (off : BitVec 13)
  /-- LDS32 (R130): Scalar load of a word, zero-extended. -/
  | lds32 (d a : SReg) (off : BitVec 13)
  /-- STS (R130): Scalar store of a double. -/
  | sts (x a : SReg) (off : BitVec 13)
  /-- STS32 (R130): Scalar store of a word. -/
  | sts32 (x a : SReg) (off : BitVec 13)
  /-- AMOS_ADD (R254): Scalar atomic add on a word at the scope named. -/
  | amosAdd (d a b : SReg) (sc : Scope)
  /-- AMOS_MIN (R254): Scalar atomic signed minimum. -/
  | amosMin (d a b : SReg) (sc : Scope)
  /-- AMOS_MAX (R254): Scalar atomic signed maximum. -/
  | amosMax (d a b : SReg) (sc : Scope)
  /-- AMOS_MINN (R254): Scalar atomic natural minimum. -/
  | amosMinn (d a b : SReg) (sc : Scope)
  /-- AMOS_MAXN (R254): Scalar atomic natural maximum. -/
  | amosMaxn (d a b : SReg) (sc : Scope)
  /-- AMOS_AND (R254): Scalar atomic AND. -/
  | amosAnd (d a b : SReg) (sc : Scope)
  /-- AMOS_OR (R254): Scalar atomic OR. -/
  | amosOr (d a b : SReg) (sc : Scope)
  /-- AMOS_XOR (R254): Scalar atomic XOR. -/
  | amosXor (d a b : SReg) (sc : Scope)
  /-- AMOS_SWAP (R254): Scalar atomic swap. -/
  | amosSwap (d a b : SReg) (sc : Scope)
  /-- AMOS_CAS (R254): Scalar atomic compare-and-swap against sd. -/
  | amosCas (d a b : SReg) (sc : Scope)
  /-- B (R146): Unconditional scalar branch. -/
  | b (off : BitVec 19)
  /-- BEQ (R146): Scalar branch if equal. -/
  | beq (a b : SReg) (off : BitVec 13)
  /-- BNE (R146): Scalar branch if not equal. -/
  | bne (a b : SReg) (off : BitVec 13)
  /-- BLT (R146): Scalar branch if signed less. -/
  | blt (a b : SReg) (off : BitVec 13)
  /-- BGE (R146): Scalar branch if signed greater or equal. -/
  | bge (a b : SReg) (off : BitVec 13)
  /-- BLTN (R146): Scalar branch if natural less. -/
  | bltn (a b : SReg) (off : BitVec 13)
  /-- BGEN (R146): Scalar branch if natural greater or equal. -/
  | bgen (a b : SReg) (off : BitVec 13)
  /-- CALL (R146): Scalar call writing the link register. -/
  | call (l : SReg) (off : BitVec 19)
  /-- JR (R147): Indirect jump writing a link. -/
  | jr (d a : SReg)
  /-- RET (R147): Indirect return to the address in sa. -/
  | ret (a : SReg)
  /-- RUN (R27): Appends a run with a scalar snapshot to the decision queue, stalling when full. -/
  | run (b : SReg) (off : BitVec 19)
  /-- TAKEV (R31): Takes the head entry of the vote port, or ILL if the lane stream is idle. -/
  | takev (d : SReg)
  /-- CPY_LD (R190): Queues a copy of a tensor box from memory to scratchpad in the open batch. -/
  | cpyLd (p r b : SReg)
  /-- CPY_ST (R190): Queues a copy of a tensor box from scratchpad to memory in the open batch. -/
  | cpySt (p r b : SReg)
  /-- CLOSEB (R197): Closes the open batch, returns its number and opens a new one. -/
  | closeb (d : SReg)
  /-- WAITB (R198): Waits for batches up to a number and reports the oldest unreported failure as BATCH. -/
  | waitb (a : SReg)
  /-- RCFENCE (R189): Drops the record-cache entry of one shape record after older stores are visible. -/
  | rcfence (a : SReg)
  /-- GATH (R319): Queues a deduplicated gather of table rows into scratchpad. -/
  | gath (p r b : SReg)
  /-- SCAT (R321): Queues a scatter of rows to a table, last position winning. -/
  | scat (p r b : SReg)
  /-- SCAT_ADD_I32 (R321): Queues a combining scatter-add of 32-bit integers. -/
  | scatAddI32 (p r b : SReg)
  /-- SCAT_ADD_F32 (R321): Queues a combining scatter-add of FP32 values. -/
  | scatAddF32 (p r b : SReg)
  /-- WALK_COO (R325): Queues a walk of a COO mask share into row and column lists. -/
  | walkCoo (d r b : SReg)
  /-- WALK_CSR (R325): Queues a walk of a CSR mask share into row and column lists. -/
  | walkCsr (d r b : SReg)
  /-- MMQ (R205): Queues a group matrix operation, pins its rows and returns a token. -/
  | mmq (d a b : SReg) (ty : MTy) (ck sz hf : Bool)
  /-- MMQ_QUAD (R208): Joins or opens the quad meeting for a four-group matrix operation. -/
  | mmqQuad (d a b : SReg) (ty : MTy) (ck sz hf : Bool)
  /-- MWAIT (R210): Waits for matrix tokens, reports FMT or dissolution, and unpins rows. -/
  | mwait (d a : SReg)
  /-- ACCST (R217): Reads accumulators and queues their converted store through a shape record. -/
  | accst (c r b : SReg) (conv : AccConv) (m : Rnd)
  /-- HAD (R214): Queues an in-place Hadamard transform of scratchpad rows. -/
  | had (d a b : SReg) (ty : HTy)
  /-- COLL_ALLREDUCE (R390): Issues an allreduce collective on a communicator. -/
  | collAllreduce (d a b : SReg) (op : CollOp) (swa : Bool)
  /-- COLL_REDUCE_SCATTER (R390): Issues a reduce-scatter collective. -/
  | collReduceScatter (d a b : SReg) (op : CollOp) (swa : Bool)
  /-- COLL_ALLGATHER (R390): Issues an allgather collective. -/
  | collAllgather (d a b : SReg)
  /-- COLL_BROADCAST (R390): Issues a broadcast collective from the root rank. -/
  | collBroadcast (d a b : SReg)
  /-- WAITC (R392): Waits for collectives and returns the status of the oldest unreported failure. -/
  | waitc (d a : SReg)
  /-- ERASE (R309): Makes a tile absent, discards its cached words and returns its frame to the pool. -/
  | erase (d a : SReg)
  /-- XPROBE (R311): Reads whether a tile exists and its region. -/
  | xprobe (d a : SReg)
  /-- GIVE (R176): Creates or passes a deed, putting it in transit to a target core. -/
  | give (d a b : SReg)
  /-- TAKE (R177): Accepts a deed in transit to this core, or dissolves it at its creator. -/
  | take (d a : SReg)
  /-- DEEDQ (R178): Returns the state of a deed as seen by the calling team. -/
  | deedq (d a : SReg)
  /-- FENCE_ACQ (R274): Acquire fence at a scope. -/
  | fenceAcq (sc : Scope)
  /-- FENCE_REL (R274): Release fence waiting for older writes to be visible at the scope. -/
  | fenceRel (sc : Scope)
  /-- FENCE_ACQREL (R274): Acquire-release fence at a scope. -/
  | fenceAcqrel (sc : Scope)
  /-- FENCE_SC (R274): Sequentially consistent fence at a scope. -/
  | fenceSc (sc : Scope)
  /-- BAR (R165): Arrives at a named barrier and waits for the phase to complete. -/
  | bar (a b : SReg)
  /-- ARRIVE (R165): Arrives at a named barrier and returns the phase token. -/
  | arrive (d a b : SReg)
  /-- WAITBAR (R165): Waits until the barrier phase differs from a token. -/
  | waitbar (a b : SReg)
  /-- LAUNCH (R107): Submits a launch record and returns a sequence number or refusal code. -/
  | launch (d a : SReg)
  /-- LAUNCH_GRAPH (R107): Submits a graph header, creating a graph instance. -/
  | launchGraph (d a : SReg)
  /-- ITEMQ_PUT (R115): Appends an item range to the team's item queue on this core. -/
  | itemqPut (d a b : SReg)
  /-- ITEMQ_COUNT (R115): Returns the items not yet taken from the queue. -/
  | itemqCount (d : SReg)
  /-- GETC (R296): Reads a system register named by a selector. -/
  | getc (d : SReg) (sel : BitVec 13)
  /-- GETC_FPSTAT (R143): Reads FPSTAT after waiting for an idle lane stream. -/
  | getcFpstat (d : SReg)
  /-- GETC_XPOOL (R313): Reads the pool status of the last-named region after waiting for an idle lane stream. -/
  | getcXpool (d : SReg)
  /-- SETC (R296): Writes a system register that has no behaviour of its own. -/
  | setc (a : SReg) (sel : BitVec 13)
  /-- SETC_FPCTL (R143): Writes the FPX trap enables after the lane stream is idle. -/
  | setcFpctl (a : SReg)
  /-- SETC_FPSTAT (R143): Clears sticky FP flags written 1 after the lane stream is idle. -/
  | setcFpstat (a : SReg)
  /-- SETC_XLCTL (R295): Writes translation controls, clearing DERR by W1C, after older accesses commit. -/
  | setcXlctl (a : SReg)
  /-- SETC_DELTA (R292): Sets the delta-map base and size after older accesses commit. -/
  | setcDelta (a : SReg)
  /-- SETC_VACATE (R365): Posts a vacate request for the writer's own tenant. -/
  | setcVacate (a : SReg)
  /-- SETC_CAUSE (R332): Writes the cause bitmap, discarding traps whose bits are written 0. -/
  | setcCause (a : SReg)
  /-- SETC_HBASE (R333): Sets the handler entry and enable for traps raised afterwards. -/
  | setcHbase (a : SReg)
  /-- SETC_STEPM (R347): Sets single-step mode after the lane stream is idle. -/
  | setcStepm (a : SReg)
  /-- SETC_WADDR (R347): Sets the watch address after the lane stream is idle. -/
  | setcWaddr (a : SReg)
  /-- SETC_WCTL (R347): Sets watch control after the lane stream is idle. -/
  | setcWctl (a : SReg)
  /-- SETC_SCOUT (R194): Sets the scout distance, ignoring values above 63. -/
  | setcScout (a : SReg)
  /-- SETC_EPCL (R333): Sets the lane resume address; IDLE 1 ends the set-aside run at SRET. -/
  | setcEpcl (a : SReg)
  /-- TRAP (R341): Deliberate trap with a code, resuming after the instruction. -/
  | trap (code : BitVec 13)
  /-- BRK (R341): Breakpoint trap that re-executes itself. -/
  | brk (code : BitVec 13)
  /-- INJECT_REG (R350): Flips bits of a vector register word in one lane. -/
  | injectReg (d a b : SReg)
  /-- INJECT_MEM (R350): Flips bits of a stored 40-bit memory word without recomputing its check. -/
  | injectMem (d a b : SReg)
  /-- INJECT_TRIP (R350): Arms a one-shot INJ trip on a word. -/
  | injectTrip (d a b : SReg)
  /-- IADD (R132): Lane integer add. -/
  | iadd (f : LForm)
  /-- IADD_IMM (R46): Lane integer add with an immediate. -/
  | iaddImm (f : LForm)
  /-- ISUB (R132): Lane integer subtract. -/
  | isub (f : LForm)
  /-- ISUB_IMM (R46): Lane integer subtract with an immediate. -/
  | isubImm (f : LForm)
  /-- IMUL (R132): Lane integer multiply, low bits. -/
  | imul (f : LForm)
  /-- IMUL_IMM (R46): Lane integer multiply with an immediate. -/
  | imulImm (f : LForm)
  /-- IMULH (R132): Lane integer multiply, high bits. -/
  | imulh (f : LForm)
  /-- IMULH_IMM (R46): Lane high multiply with an immediate. -/
  | imulhImm (f : LForm)
  /-- IMAD (R132): Lane integer multiply-add. -/
  | imad (f : LForm)
  /-- IMAD_IMM (R46): Lane multiply-add with an immediate addend. -/
  | imadImm (f : LForm)
  /-- IMIN (R132): Lane integer minimum. -/
  | imin (f : LForm)
  /-- IMIN_IMM (R46): Lane integer minimum with an immediate. -/
  | iminImm (f : LForm)
  /-- IMAX (R132): Lane integer maximum. -/
  | imax (f : LForm)
  /-- IMAX_IMM (R46): Lane integer maximum with an immediate. -/
  | imaxImm (f : LForm)
  /-- LANE_AND (R132): Lane bitwise AND. -/
  | laneAnd (f : LForm)
  /-- LANE_AND_IMM (R46): Lane bitwise AND with an immediate. -/
  | laneAndImm (f : LForm)
  /-- LANE_OR (R132): Lane bitwise OR. -/
  | laneOr (f : LForm)
  /-- LANE_OR_IMM (R46): Lane bitwise OR with an immediate. -/
  | laneOrImm (f : LForm)
  /-- LANE_XOR (R132): Lane bitwise XOR. -/
  | laneXor (f : LForm)
  /-- LANE_XOR_IMM (R46): Lane bitwise XOR with an immediate. -/
  | laneXorImm (f : LForm)
  /-- LANE_SHL (R132): Lane shift left. -/
  | laneShl (f : LForm)
  /-- LANE_SHL_IMM (R46): Lane shift left by an immediate. -/
  | laneShlImm (f : LForm)
  /-- LANE_SHR (R132): Lane logical shift right. -/
  | laneShr (f : LForm)
  /-- LANE_SHR_IMM (R46): Lane logical shift right by an immediate. -/
  | laneShrImm (f : LForm)
  /-- LANE_SRA (R132): Lane arithmetic shift right. -/
  | laneSra (f : LForm)
  /-- LANE_SRA_IMM (R46): Lane arithmetic shift right by an immediate. -/
  | laneSraImm (f : LForm)
  /-- LANE_CLZ (R132): Lane count of leading zeros. -/
  | laneClz (f : LForm)
  /-- LANE_POPC (R132): Lane count of set bits. -/
  | lanePopc (f : LForm)
  /-- BREV (R132): Lane bit reversal. -/
  | brev (f : LForm)
  /-- BFE (R133): Lane bit-field extract. -/
  | bfe (f : LForm)
  /-- BFE_IMM (R133): Lane bit-field extract with an immediate position and length. -/
  | bfeImm (f : LForm)
  /-- BFI (R133): Lane bit-field insert. -/
  | bfi (f : LForm)
  /-- BFI_IMM (R133): Lane bit-field insert with an immediate base. -/
  | bfiImm (f : LForm)
  /-- BSWZ (R133): Lane byte swizzle. -/
  | bswz (f : LForm)
  /-- BSWZ_IMM (R133): Lane byte swizzle with immediate selectors. -/
  | bswzImm (f : LForm)
  /-- ICMP (R134): Lane integer compare into a mask or vector. -/
  | icmp (f : LForm)
  /-- ICMP_IMM (R134): Lane integer compare against an immediate. -/
  | icmpImm (f : LForm)
  /-- LANE_SEL (R135): Lane select of a or b by a mask. -/
  | laneSel (f : LForm)
  /-- LANE_SEL_IMM (R135): Lane select with an immediate second source. -/
  | laneSelImm (f : LForm)
  /-- MOV (R135): Lane bit-exact move. -/
  | mov (f : LForm)
  /-- MOVI (R135): Lane move of an immediate. -/
  | movi (f : LForm)
  /-- FADD (R136): Lane floating add rounded once. -/
  | fadd (f : LForm)
  /-- FADD_IMM (R136): Lane floating add with an immediate. -/
  | faddImm (f : LForm)
  /-- FSUB (R136): Lane floating subtract. -/
  | fsub (f : LForm)
  /-- FSUB_IMM (R136): Lane floating subtract with an immediate. -/
  | fsubImm (f : LForm)
  /-- FMUL (R136): Lane floating multiply. -/
  | fmul (f : LForm)
  /-- FMUL_IMM (R136): Lane floating multiply with an immediate. -/
  | fmulImm (f : LForm)
  /-- FFMA (R136): Lane fused multiply-add with one rounding. -/
  | ffma (f : LForm)
  /-- FFMA_IMM (R136): Lane fused multiply-add with an immediate addend. -/
  | ffmaImm (f : LForm)
  /-- FMIN (R138): Lane floating minimum. -/
  | fmin (f : LForm)
  /-- FMIN_IMM (R138): Lane floating minimum with an immediate. -/
  | fminImm (f : LForm)
  /-- FMAX (R138): Lane floating maximum. -/
  | fmax (f : LForm)
  /-- FMAX_IMM (R138): Lane floating maximum with an immediate. -/
  | fmaxImm (f : LForm)
  /-- FCMP (R139): Lane floating compare into a mask or vector. -/
  | fcmp (f : LForm)
  /-- FCMP_IMM (R139): Lane floating compare against an immediate. -/
  | fcmpImm (f : LForm)
  /-- FRCP (R136): Lane reciprocal. -/
  | frcp (f : LForm)
  /-- FRSQ (R136): Lane reciprocal square root. -/
  | frsq (f : LForm)
  /-- FSQRT (R136): Lane square root. -/
  | fsqrt (f : LForm)
  /-- FEXP2 (R136): Lane base-2 exponential. -/
  | fexp2 (f : LForm)
  /-- FLOG2 (R136): Lane base-2 logarithm. -/
  | flog2 (f : LForm)
  /-- FSIN (R136): Lane sine of a half-turn argument. -/
  | fsin (f : LForm)
  /-- FCOS (R136): Lane cosine of a half-turn argument. -/
  | fcos (f : LForm)
  /-- FRND (R136): Lane round to integer. -/
  | frnd (f : LForm)
  /-- FCLASS (R140): Lane one-hot floating-point class. -/
  | fclass (f : LForm)
  /-- CVT (R90): Lane conversion between types. -/
  | cvt (f : LForm)
  /-- CVTQ (R91): Lane quantisation to a tapered code with a per-lane scale. -/
  | cvtq (f : LForm)
  /-- PACK (R92): Lane conversion of a value shifted into a packed word. -/
  | pack (f : LForm)
  /-- UNPACK (R93): Lane extraction and widening of one packed field. -/
  | unpack (f : LForm)
  /-- KAND (R145): Mask AND in active lanes. -/
  | kand (f : LForm)
  /-- KOR (R145): Mask OR in active lanes. -/
  | kor (f : LForm)
  /-- KXOR (R145): Mask XOR in active lanes. -/
  | kxor (f : LForm)
  /-- KNOT (R145): Mask NOT in active lanes. -/
  | knot (f : LForm)
  /-- MOVEM (R145): Writes all 32 bits of a mask register or EM. -/
  | movem (f : LForm)
  /-- POPK (R144): Counts set bits of a mask into a vector. -/
  | popk (f : LForm)
  /-- FFSK (R144): Finds the lowest set bit of a mask. -/
  | ffsk (f : LForm)
  /-- BRL (R151): Divergent lane branch that splits EM and pushes or merges a branch entry. -/
  | brl (f : LForm)
  /-- BRC (R159): Compacting branch that offers the group to a meeting. -/
  | brc (f : LForm)
  /-- ITEM (R156): Item-loop head that refills finished lanes from the item queue. -/
  | item (f : LForm)
  /-- VOTE_BALLOT (R157): Appends the ballot of nonzero active lanes to the vote port. -/
  | voteBallot (f : LForm)
  /-- VOTE_ANY (R157): Appends whether any active lane is nonzero. -/
  | voteAny (f : LForm)
  /-- VOTE_ALL (R157): Appends whether all active lanes are nonzero. -/
  | voteAll (f : LForm)
  /-- ELECT (R158): Sets a mask to the lowest active lane. -/
  | elect (f : LForm)
  /-- LDW (R238): Lane word load. -/
  | ldw (f : LForm)
  /-- LDW_IMM (R238): Lane word load with an immediate offset. -/
  | ldwImm (f : LForm)
  /-- LDH (R238): Lane half load. -/
  | ldh (f : LForm)
  /-- LDH_IMM (R238): Lane half load with an immediate offset. -/
  | ldhImm (f : LForm)
  /-- LDB (R238): Lane byte load. -/
  | ldb (f : LForm)
  /-- LDB_IMM (R238): Lane byte load with an immediate offset. -/
  | ldbImm (f : LForm)
  /-- LDD (R238): Lane double load into a register pair. -/
  | ldd (f : LForm)
  /-- LDD_IMM (R238): Lane double load with an immediate offset. -/
  | lddImm (f : LForm)
  /-- STW (R239): Lane word store. -/
  | stw (f : LForm)
  /-- STH (R236): Lane half store as a read-modify-write. -/
  | sth (f : LForm)
  /-- STB (R236): Lane byte store as a read-modify-write. -/
  | stb (f : LForm)
  /-- STD (R239): Lane double store. -/
  | std (f : LForm)
  /-- LDX (R312): Lane load of a word with its tile's existence bit. -/
  | ldx (f : LForm)
  /-- LDX_IMM (R312): LDX with an immediate offset. -/
  | ldxImm (f : LForm)
  /-- LDP (R182): Lane scratchpad word load. -/
  | ldp (f : LForm)
  /-- LDP_IMM (R182): Lane scratchpad load with an immediate offset. -/
  | ldpImm (f : LForm)
  /-- STP (R182): Lane scratchpad word store. -/
  | stp (f : LForm)
  /-- PREF (R242): Faultless prefetch into a cache level. -/
  | pref (f : LForm)
  /-- PREF_IMM (R242): Prefetch with an immediate offset. -/
  | prefImm (f : LForm)
  /-- ATOM_ADD (R255): Lane atomic add. -/
  | atomAdd (f : LForm)
  /-- ATOM_MIN (R255): Lane atomic minimum. -/
  | atomMin (f : LForm)
  /-- ATOM_MAX (R255): Lane atomic maximum. -/
  | atomMax (f : LForm)
  /-- ATOM_AND (R255): Lane atomic AND. -/
  | atomAnd (f : LForm)
  /-- ATOM_OR (R255): Lane atomic OR. -/
  | atomOr (f : LForm)
  /-- ATOM_XOR (R255): Lane atomic XOR. -/
  | atomXor (f : LForm)
  /-- ATOM_SWAP (R255): Lane atomic swap. -/
  | atomSwap (f : LForm)
  /-- ATOM_CAS (R255): Lane atomic compare-and-swap. -/
  | atomCas (f : LForm)
  /-- EOP_ADD (R256): Escrow add update. -/
  | eopAdd (f : LForm)
  /-- EOP_MIN (R256): Escrow minimum update. -/
  | eopMin (f : LForm)
  /-- EOP_MAX (R256): Escrow maximum update. -/
  | eopMax (f : LForm)
  /-- EOP_AND (R256): Escrow AND update. -/
  | eopAnd (f : LForm)
  /-- EOP_OR (R256): Escrow OR update. -/
  | eopOr (f : LForm)
  /-- EOP_XOR (R256): Escrow XOR update. -/
  | eopXor (f : LForm)
  /-- ISECT (R326): Intersects two lane-held coordinate lists and appends advance counts to the vote port. -/
  | isect (f : LForm)
  /-- SCANK_INCL (R328): Inclusive prefix count of mask bits per segment. -/
  | scankIncl (f : LForm)
  /-- SCANK_EXCL (R328): Exclusive prefix count of mask bits per segment. -/
  | scankExcl (f : LForm)
  /-- SEGRED_ADD (R327): Segmented tree add reduction. -/
  | segredAdd (f : LForm)
  /-- SEGRED_MIN (R327): Segmented minimum reduction. -/
  | segredMin (f : LForm)
  /-- SEGRED_MAX (R327): Segmented maximum reduction. -/
  | segredMax (f : LForm)
  /-- SEGRED_AND (R327): Segmented AND reduction. -/
  | segredAnd (f : LForm)
  /-- SEGRED_OR (R327): Segmented OR reduction. -/
  | segredOr (f : LForm)
  /-- SEGRED_XOR (R327): Segmented XOR reduction. -/
  | segredXor (f : LForm)
  /-- CALLV (R346): Posts a call record to firmware or host and waits for the reply. -/
  | callv (f : LForm)
  /-- REPLACE_SUPPLY (R342): Handler supplies values for failing lanes of the resumed instruction. -/
  | replaceSupply (f : LForm)
  /-- REPLACE_STORE (R342): Handler full-word store that clears poison. -/
  | replaceStore (f : LForm)
  /-- SYNCQ (R276): Waits for an idle lane stream and committed writes, ordering the two streams. -/
  | syncq
  /-- RCFENCE_ALL (R189): Drops every record-cache entry of the cluster. -/
  | rcfenceAll
  /-- ORF (R203): Waits until runs queued before it have ended and their STPs are performed. -/
  | orf
  /-- ITEMQ_CLOSE (R115): Marks the item queue closed. -/
  | itemqClose
  /-- YIELD (R108): Pauses the group's issue until other ready groups issue or 32 cycles pass. -/
  | yield
  /-- EXIT (R109): Ends the group, releasing rows, barriers and its slot. -/
  | exit
  /-- SRET (R337): Returns from the handler or delivers the next pending cause. -/
  | sret
  /-- HALT (R350): Halts the group in place and reports to firmware. -/
  | halt
  /-- JOIN (R152): Reconverges on the top stack entry. -/
  | join
  /-- STOP (R155): Ends the current run. -/
  | stop
  /-- QUIESCE_COMPLETE (R394): All transactions have retired and the part enters WITHDRAW. -/
  | quiesceComplete
  /-- WITHDRAW_RETRY (R394): Unconfirmed planes are asked again every 1 s. -/
  | withdrawRetry
  /-- PCMD_COLD_RESET (R400): Writing 1 to PCMD requests a cold reset. -/
  | pcmdColdReset
  /-- PCMD_WARM_RESET (R400): Writing 2 to PCMD requests a warm reset. -/
  | pcmdWarmReset
  /-- WATCHDOG_EXPIRE (R400): The management-core watchdog expires and requests a warm reset. -/
  | watchdogExpire
  /-- POWER_ON (R399): Package power is applied and a cold boot starts. -/
  | powerOn
  /-- LIFETIME_SNAPSHOT (R404): A lifetime snapshot is written every 60 s to the alternate bank. -/
  | lifetimeSnapshot
  /-- UNASSIGNED_INSTRUCTION (R58): A fetched scalar or lane word whose opcode or func is unassigned raises ILL precisely. -/
  | unassignedInstruction
  /-- POWER_FAIL (R404): Package power fails, losing the counts gathered since the last snapshot and leaving the part unpowered. -/
  | powerFail
  /-- ROUTES_RESTORED (R394): In WITHDRAW after DRAIN = 0, the fabric manager has restored the routes and the part returns to RUN. -/
  | routesRestored
  /-- LINKS_RETRAINED (R394): After DRAIN = 0 in DRAINED, the links finish retraining and the part returns to RUN. -/
  | linksRetrained
  /-- RUN_START (R28): Idle lane stream takes the head run of the decision queue and starts it. -/
  | runStart (g : Nat)
  /-- ITEM_RETRY (R156): Waiting ITEM executes again when the queue gets an item or is closed. -/
  | itemRetry (g : Nat)
  /-- YIELD_RESUME (R108): Yield pause ends after other ready groups issue or 32 cycles. -/
  | yieldResume (g : Nat)
  /-- BRC_ADMISSION_CLOSE (R160): Meeting admission closes after 32 cycles or all groups join, and threads are repacked. -/
  | brcAdmissionClose (m : Nat)
  /-- QUEUE_CAUSE (R387): QUEUE is taken at the next scalar instruction boundary of the chosen group. -/
  | queueCause (g : Nat)
  /-- COPY_COMPLETE (R193): The copy engine finishes a copy or ACCST store, completing or failing its batch. -/
  | copyComplete (n : Nat)
  /-- CLEARING_COMPLETE (R323): The clearing engine finishes or fails a gather, scatter or walk; odd names rows of a failing window: before the
  failure not written, after it written all the same. -/
  | clearingComplete (n : Nat) (odd : List Nat)
  /-- MATRIX_OP_COMPLETE (R205): A matrix operation writes C and K and its token completes. -/
  | matrixOpComplete (g : Nat) (token : BitVec 8)
  /-- HAD_COMPLETE (R214): A Hadamard transform of scratchpad rows completes. -/
  | hadComplete (g : Nat) (token : BitVec 8)
  /-- COLLECTIVE_COMPLETE (R391): A collective finishes at every member with its result or failure. -/
  | collectiveComplete (g : Nat) (num : BitVec 8) (end_ : CollEnd)
  /-- RECORD_CACHE_DROP (R189): A record-cache entry is dropped at any time. -/
  | recordCacheDrop (cluster : Nat) (asid : BitVec 16) (addr : W64)
  /-- TEAM_COMMIT (R111): Firmware binds every group of a ready team that fits and sets VALID together. -/
  | teamCommit (launch : Nat) (team : Nat) (p : Placement)
  /-- LAUNCH_COMPLETE (R101): A launch completes and its DONEV store is made. -/
  | launchComplete (launch : Nat)
  /-- GRAPH_COMPLETE (R103): A graph instance completes and stores its DONEV. -/
  | graphComplete (inst : Nat)
  /-- DEPENDENCE_POLL (R99): Firmware re-reads unsatisfied dependence words at least every 10 µs. -/
  | dependencePoll (launch dep : Nat)
  /-- DEPENDENCE_WRITE_REPORT (R99): A shared-cache write report makes firmware re-read a dependence word. -/
  | dependenceWriteReport (launch dep : Nat)
  /-- LAUNCH_QUEUE_WATCH (R386): Firmware reads new records of a launch queue from HEAD to TAIL. -/
  | launchQueueWatch (ctx q : Nat)
  /-- TRANSLATION_MISS (R283): A shared-cache miss is translated by the home unit's TLB or walker. -/
  | translationMiss (asid : BitVec 16) (va : W64) (k : AccKind)
  /-- FAULT_RESOLVE (R289): The fault service maps a frame and replays joined accesses. -/
  | faultResolve (n : Nat) (leaf : W64)
  /-- FAULT_DELIVER (R287): The fault service delivers XLAT, PROT or FRAME to joined accesses. -/
  | faultDeliver (n : Nat) (frame : Bool)
  /-- FAULT_HOST_TIMEOUT (R286): The host has not answered a fault within 100 ms. -/
  | faultHostTimeout (n : Nat)
  /-- PAGE_MIGRATE (R291): Firmware moves a page to another frame of its stack. -/
  | pageMigrate (ctx : Nat) (va : W64) (frame : W64)
  /-- CACHE_EVICT (R248): A block is evicted, writing back dirty words and merging partials. -/
  | cacheEvict (core : Option Nat) (tag : BitVec 16) (block : Nat)
  /-- PCH_BURST (R226): A pseudo-channel controller issues a burst and checks each word. -/
  | pchBurst (pch : Nat) (isWrite : Bool) (pat : BurstPattern)
  /-- SCRUB_WRITE (R233): A corrected word is written back at the next free write beat. -/
  | scrubWrite (pch : Nat)
  /-- REFRESH_DUE (R230): A die's refresh falls due and is issued or postponed against its reserve. -/
  | refreshDue (stack die : Nat)
  /-- REFRESH_AHEAD (R230): An idle die under CB refreshes early and grows its reserve. -/
  | refreshAhead (stack die : Nat)
  /-- CB_EVALUATE (R228): Firmware re-evaluates CB at team commit or end or every 100 µs. -/
  | cbEvaluate (stack : Nat) (below10 : Bool)
  /-- PCCTL_WRITE (R228): A write changing RDSTR starts a pseudo-channel drain. -/
  | pcctlWrite (addr v : W32)
  /-- STRAND_DRAIN_END (R228): After 200 ns bursts resume under the new split. -/
  | strandDrainEnd (pch : Nat)
  /-- RDSTR_DEFERRED (R229): A deferred split change is made when its 100 µs interval ends. -/
  | rdstrDeferred (pch : Nat)
  /-- SLICE_END (R359): A time slice ends and firmware picks the next context. -/
  | sliceEnd (tenant : Nat)
  /-- PREEMPTION (R359): A ready launch of higher priority ends the slice at once. -/
  | preemption (tenant : Nat)
  /-- WAYS_DRAIN_END (R356): Lost shared-cache ways hold no valid word of the tenant. -/
  | waysDrainEnd (tenant : Nat)
  /-- VACATE_REQUEST (R364): A vacate request arrives on the management bus. -/
  | vacateRequest (tenant : Nat) (r : VacateReq)
  /-- VACATE_CONVERT (R369): A non-discardable RUN queue turns into CHECKPOINT when time runs short. -/
  | vacateConvert (tenant q : Nat)
  /-- VACATE_RUN_TIMEOUT (R369): A discardable RUN queue unfinished 10 ms before R is discarded. -/
  | vacateRunTimeout (tenant q : Nat)
  /-- CHECKPOINT_COMMIT (R370): The last MEMORY section of a checkpoint is sent. -/
  | checkpointCommit (tenant q : Nat)
  /-- CHECKPOINT_ACK (R373): The neighbour acknowledges a committed checkpoint. -/
  | checkpointAck (tenant q : Nat)
  /-- TENANT_VACANT (R373): The tenant becomes vacant and outcomes are reported. -/
  | tenantVacant (tenant : Nat)
  /-- LAUNCH_PACKET (R97): A Viaduct LAUNCH packet is checked and accepted or refused. -/
  | launchPacket (h : Hdr) (words : Vector W32 32)
  /-- LAUNCHG (R103): A Viaduct graph launch packet. -/
  | launchg (h : Hdr) (addr : W64)
  /-- READ (R382): A READ packet returns up to 64 words. -/
  | read (h : Hdr) (addr : W64) (count : Nat)
  /-- WRITE (R382): A WRITE packet writes enabled words. -/
  | write (h : Hdr) (addr : W64) (count : Nat) (en : W64) (data : List W32)
  /-- ATOMIC (R382): An ATOMIC packet performs one atomic at the shared cache. -/
  | atomic (h : Hdr) (addr : W64) (op : BitVec 7) (operand compare : W32)
  /-- QREG (R385): Registers or re-registers a guest launch queue. -/
  | qreg (h : Hdr) (base : W64) (size : W32)
  /-- COMM (R388): Registers a communicator. -/
  | comm (h : Hdr) (c : CommReg)
  /-- TENANT (R353): Creates or changes a tenant from its record. -/
  | tenant (h : Hdr) (tid : Nat) (r : TenantRec)
  /-- VACATE_PACKET (R364): A vacate request arrives over Viaduct. -/
  | vacatePacket (h : Hdr) (tenant : Nat) (r : VacateReq)
  /-- FAULTR (R287): The host answers a fault record. -/
  | faultr (h : Hdr) (n : Nat) (ans : FaultAnswer)
  /-- CALLR (R379): The host answers a call record, releasing the waiting CALLV. -/
  | callr (h : Hdr) (n : Nat) (seq : W32) (reps : Lanes W32)
  /-- DRAIN_START (R394): DRAIN = 1 starts a route drain if every tenant is vacant. -/
  | drainStart (h : Hdr)
  /-- DRAIN_CANCEL (R394): DRAIN = 0 returns the part to RUN. -/
  | drainCancel (h : Hdr)
  /-- PEERMAP (R384): Sets a peer range of a context. -/
  | peermap (h : Hdr) (p : PeerReg)
  /-- CONTEXT_CREATE (R383): Creates a context with its tables, call area and spill range. -/
  | contextCreate (h : Hdr) (c : CtxCreate)
  /-- CONTEXT_DESTROY (R383): Destroys a context, discarding its work. -/
  | contextDestroy (h : Hdr)
  /-- CONTEXT_SET_FLAGS (R383): Sets the privileged flag of a context. -/
  | contextSetFlags (h : Hdr) (priv : Bool)
  /-- CONTEXT_CHANGE_PTE (R383): Changes a page-table entry through an invalidation. -/
  | contextChangePte (h : Hdr) (level : BitVec 8) (va entry : W64)
  /-- CONTEXT_SET_REGION (R383): Sets a region descriptor and places pool frames. -/
  | contextSetRegion (h : Hdr) (index : BitVec 8) (d : RegionSet)
  /-- UNASSIGNED_REQUEST (R380): A request of an unassigned kind is answered malformed. -/
  | unassignedRequest (h : Hdr) (kind : BadKind)
  /-- REPLY (R380): A reply is accepted against an outstanding request or dropped. -/
  | reply (h : Hdr) (kind : BitVec 8) (p : ReplyData)
  /-- NOTICE_ACK (R380): The host or fabric manager acknowledges a NOTICE. -/
  | noticeAck (h : Hdr)
  /-- NOTICE_RESEND (R380): An unanswered NOTICE is resent every 1 s. -/
  | noticeResend (n : Nat)
  /-- COLLD (R380): Collective data arrives from a member and is acknowledged. -/
  | colld (h : Hdr) (c : CollData)
  /-- COLLD_ACK (R380): A member acknowledges collective data. -/
  | colldAck (h : Hdr)
  /-- COLLD_RESEND (R380): A COLLD packet unanswered for 10 ms is resent. -/
  | colldResend (n : Nat)
  /-- PACKET_CRC_FAIL (R377): A packet failing its CRC is dropped and answered with code 4. -/
  | packetCrcFail (port : Nat) (h : Hdr) (kind : BitVec 8)
  /-- PEER_TIMEOUT (R384): A peer access unanswered within 100 ms gives XLAT subcode 0x8. -/
  | peerTimeout (n : Nat)
  /-- CALL_SERVICE_SPLIT (R345): Firmware records strand-split requests of a posted call and answers it. -/
  | callServiceSplit (ctx n : Nat)
  /-- CALL_SERVICE_REFILL (R307): Firmware refills a frame pool for a posted call and answers it. -/
  | callServiceRefill (ctx n : Nat) (frames : List (BitVec 27))
  /-- CALL_TIMEOUT (R346): A host call unanswered within 100 ms is timed out. -/
  | callTimeout (ctx n : Nat)
  /-- QUIESCE_TIMEOUT (R394): An outbound transaction times out after 100 ms during QUIESCE. -/
  | quiesceTimeout (n : Nat)
  /-- WITHDRAW_CONFIRM (R394): A plane confirms route withdrawal, leading to DRAINED when all have. -/
  | withdrawConfirm (plane : Nat)
  /-- I3C_READ (R396): An I3C private read of keystone bytes. -/
  | i3cRead (count : Nat)
  /-- I3C_WRITE (R396): An I3C private write setting the offset or writing STAGE. -/
  | i3cWrite (offset : BitVec 24) (data : List Byte)
  /-- BOOT_COMPLETE (R399): The boot ends with READY and a NOTICE, or holds with BOOTERR. -/
  | bootComplete (f : FabricIds)
  /-- CURRENT_LIMIT_EXCEEDED (R402): A block exceeding its current limit steps down within 1 µs. -/
  | currentLimitExceeded (block : Nat)
  /-- CURRENT_RECOVERY (R402): After 100 µs below 90 % of its limit a block rises again. -/
  | currentRecovery (block : Nat)
  /-- THERMAL_THROTTLE (R402): At 105 °C a block halves its clock. -/
  | thermalThrottle (block : Nat)
  /-- THERMAL_TRIP (R402): At 115 °C package power is cut as a cold reset. -/
  | thermalTrip (block : Nat)
  /-- GROUP_RESUME (R330): Firmware resumes a group halted in place by HBASE.EN = 0 or by HALT, possibly enabling HBASE first. -/
  | groupResume (g : Nat) (hbase : Option W64)
  /-- SOFT_ERROR (R118): A soft error changes the value of a physical row, latch, scratchpad word or scale byte without a trap. -/
  | softError (t : SoftTarget)
  /-- REFRESH_END (R230): A die's 280 ns refresh ends and its waiting words may be served again. -/
  | refreshEnd (stack die : Nat)
  /-- ACCESS_PERFORMED (R265): A group's committed store or issued access reaches its core cache or shared-cache slice and becomes visible at
  the matching scopes. -/
  | accessPerformed (g n : Nat)
  /-- FLIT_RETRY (R377): A flit that fails its link check is retried by the link layer and delivered once. -/
  | flitRetry (port lane : Nat)
  /-- VIADUCT_LANE_RETRAIN (R404): A Viaduct lane loses its footing, retrains and is counted in the lifetime records. -/
  | viaductLaneRetrain (lane : Nat)
  /-- STRAND_RETRAIN (R404): A pseudo-channel's strands retrain and the retrain is counted. -/
  | strandRetrain (pch : Nat)
  /-- CHECKPOINT_SECTION (R372): As neighbour, the part receives a checkpoint section, refuses unknown TYPEs and discards images without a
  COMMIT section. -/
  | checkpointSection (src : Nat) (s : CkptSection)
  /-- PRE_COPY_ROUND (R374): Firmware runs a live-migration pre-copy round, sending MEMORY sections from the delta map while the context runs. -/
  | preCopyRound (ctx : Nat)
  deriving DecidableEq, Repr

end Sys2Proof
end

