-- ==== Sys2Proof/Machine/LaneTable.lean ====
section
/-! DEFINITION. What each lane opcode accepts: spec/03_opcode_map.md R64 to R68, with the operand rules of
spec/02_streams_and_encoding.md R37 to R47 and R51, and of the owning chapters. -/

namespace Sys2Proof

/-- The width of a type in bits (R44). -/
def LTy.width : LTy → Nat
  | .i32 | .n32 | .f32 | .x32 => 32
  | .i8 | .n8 | .t8 => 8
  | .i16 | .n16 | .h16 | .b16 => 16
  | .i64 | .n64 => 64
  | .t6 => 6

/-- A type that occupies a register pair (R41). -/
def LTy.isPair (t : LTy) : Bool := t.width == 64

/-- The type code (R44). -/
def LTy.code : LTy → BitVec 4
  | .i32 => 0 | .i8 => 1 | .i16 => 2 | .i64 => 3 | .n32 => 4 | .n8 => 5 | .n16 => 6 | .n64 => 7
  | .f32 => 8 | .h16 => 9 | .b16 => 10 | .t8 => 11 | .t6 => 12 | .x32 => 13

/-- The type of a code; codes 14 and 15 name none (R44). -/
def LTy.ofCode (c : BitVec 4) : Option LTy :=
  match c.toNat with
  | 0 => some .i32 | 1 => some .i8 | 2 => some .i16 | 3 => some .i64 | 4 => some .n32 | 5 => some .n8
  | 6 => some .n16 | 7 => some .n64 | 8 => some .f32 | 9 => some .h16 | 10 => some .b16 | 11 => some .t8
  | 12 => some .t6 | 13 => some .x32 | _ => none

/-- The signed integer types. -/
def LTy.isSigned (t : LTy) : Bool := [LTy.i32, .i8, .i16, .i64].contains t
/-- The natural types. -/
def LTy.isNat (t : LTy) : Bool := [LTy.n32, .n8, .n16, .n64].contains t
/-- The integer types. -/
def LTy.isInt (t : LTy) : Bool := t.isSigned || t.isNat
/-- The IEEE types. -/
def LTy.isIeee (t : LTy) : Bool := [LTy.f32, .h16, .b16].contains t
/-- The tapered types. -/
def LTy.isTaper (t : LTy) : Bool := [LTy.t8, .t6].contains t

/-- The type in which an instruction reads a source (R40, last paragraph). -/
inductive ReadTy where
  /-- The instruction's TYPE. -/
  | own
  /-- A fixed type. -/
  | fix (t : LTy)
  /-- A shift amount: a natural of 32 bits, of 64 under the 64-bit types (R132). -/
  | shift
  /-- A 64-bit pattern (STD, R237). -/
  | wide
  /-- The value of PACK: .i32 for integer types, else .f32 (R92). -/
  | pack
  /-- The source type that SELC names (R66). -/
  | cvt
  deriving DecidableEq, Repr

/-- What an instruction makes of a source field. -/
inductive SrcKind where
  /-- Not used: the field must be zero (R38). -/
  | unused
  /-- An ordinary source. -/
  | data (r : ReadTy)
  /-- An ordinary source that takes no modifier (R326, R342). -/
  | plain (r : ReadTy)
  /-- A base address (R237). -/
  | base
  /-- An offset (R237). -/
  | offset
  /-- A mask operand; snap allows a scalar snapshot (R144). -/
  | mask (snap : Bool)
  /-- The source type code of R66. -/
  | rawTy
  /-- log2 S of R327 and R328. -/
  | rawSeg
  /-- A lane branch target (R148). -/
  | target
  deriving DecidableEq, Repr

/-- The VAR values an instruction accepts (R64, R65). -/
inductive VarRule where
  | exact (n : Nat)
  | upTo (n : Nat)
  /-- A field index, by the width of TYPE (R65, R93). -/
  | part
  /-- A reduction; and, or, xor not under .f32 (R65). -/
  | red
  deriving DecidableEq, Repr

/-- The destinations an instruction accepts (R39). -/
inductive DestKind where
  | none
  /-- A vector register, an even one under a 64-bit TYPE. -/
  | v
  /-- An even vector register. -/
  | pair
  /-- A mask register. -/
  | k
  /-- A vector or a mask register (R134). -/
  | vk
  /-- A mask register or EM (R144). -/
  | ke
  deriving DecidableEq, Repr

/-- The predicates an instruction accepts (R37, R145, R148). -/
inductive PredRule where
  | any | always | masked
  deriving DecidableEq, Repr

/-- One row of the lane opcode map. -/
structure LaneRow where
  types : List LTy
  var : VarRule
  /-- It has an immediate form (column Imm of R64). -/
  imm : Bool
  /-- It is fixed-latency and writes latches (column L of R64). -/
  latch : Bool
  a : SrcKind
  b : SrcKind
  c : SrcKind
  dest : DestKind
  pred : PredRule
  deriving DecidableEq, Repr

/-- Types I of R64. -/
def tyI : List LTy := [.i32, .i8, .i16, .i64, .n32, .n8, .n16, .n64]
/-- Types I, X. -/
def tyIX : List LTy := [.i32, .i8, .i16, .i64, .n32, .n8, .n16, .n64, .x32]
/-- Types W. -/
def tyW : List LTy := [.i32, .n32, .i64, .n64, .x32]
/-- Types F. -/
def tyF : List LTy := [.f32, .h16, .b16]
/-- Types I32, X. -/
def tyB : List LTy := [.i32, .n32, .x32]
/-- Types I, F, X. -/
def tyIFX : List LTy := [.i32, .i8, .i16, .i64, .n32, .n8, .n16, .n64, .f32, .h16, .b16, .x32]
/-- Types I, F, T, X. -/
def tyAll : List LTy := [.i32, .i8, .i16, .i64, .n32, .n8, .n16, .n64, .f32, .h16, .b16, .t8, .t6, .x32]
/-- The types of R66: all but .x32. -/
def tyCvt : List LTy := [.i32, .i8, .i16, .i64, .n32, .n8, .n16, .n64, .f32, .h16, .b16, .t8, .t6]
/-- The types of PACK and UNPACK. -/
def tyPack : List LTy := [.i8, .n8, .i16, .n16, .h16, .b16, .t8, .t6]
/-- Column "—": TYPE 0. -/
def tyNo : List LTy := [.i32]
/-- The types of LDH and STH. -/
def tyH : List LTy := [.i16, .n16, .h16, .b16]
/-- The types of LDB and STB. -/
def tyB8 : List LTy := [.i8, .n8]
/-- The types of add in R67. -/
def tyAdd : List LTy := [.i32, .n32, .f32]
/-- The types of min and max in R67. -/
def tyMM : List LTy := [.i32, .n32]
/-- The types of SEGRED. -/
def tyRed : List LTy := [.i32, .n32, .f32]

/-- The lane opcode map of R64, by the opcode of [94:86]; none for an opcode not listed. -/
def laneRow (op : Nat) : Option LaneRow :=
  match op with
  | 0x001 => some { types := tyI, var := .exact 0, imm := true, latch := true, a := .data .own, b := .data .own, c := .unused, dest := .v, pred := .any }
  | 0x002 => some { types := tyI, var := .exact 0, imm := true, latch := true, a := .data .own, b := .data .own, c := .unused, dest := .v, pred := .any }
  | 0x003 => some { types := tyI, var := .exact 0, imm := true, latch := true, a := .data .own, b := .data .own, c := .unused, dest := .v, pred := .any }
  | 0x004 => some { types := tyI, var := .exact 0, imm := true, latch := true, a := .data .own, b := .data .own, c := .unused, dest := .v, pred := .any }
  | 0x005 => some { types := tyI, var := .exact 0, imm := true, latch := true, a := .data .own, b := .data .own, c := .data .own, dest := .v, pred := .any }
  | 0x006 => some { types := tyI, var := .exact 0, imm := true, latch := true, a := .data .own, b := .data .own, c := .unused, dest := .v, pred := .any }
  | 0x007 => some { types := tyI, var := .exact 0, imm := true, latch := true, a := .data .own, b := .data .own, c := .unused, dest := .v, pred := .any }
  | 0x008 => some { types := tyIX, var := .exact 0, imm := true, latch := true, a := .data .own, b := .data .own, c := .unused, dest := .v, pred := .any }
  | 0x009 => some { types := tyIX, var := .exact 0, imm := true, latch := true, a := .data .own, b := .data .own, c := .unused, dest := .v, pred := .any }
  | 0x00a => some { types := tyIX, var := .exact 0, imm := true, latch := true, a := .data .own, b := .data .own, c := .unused, dest := .v, pred := .any }
  | 0x00b => some { types := tyIX, var := .exact 0, imm := true, latch := true, a := .data .own, b := .data .shift, c := .unused, dest := .v, pred := .any }
  | 0x00c => some { types := tyIX, var := .exact 0, imm := true, latch := true, a := .data .own, b := .data .shift, c := .unused, dest := .v, pred := .any }
  | 0x00d => some { types := tyI, var := .exact 0, imm := true, latch := true, a := .data .own, b := .data .shift, c := .unused, dest := .v, pred := .any }
  | 0x00e => some { types := tyW, var := .exact 0, imm := false, latch := true, a := .data .own, b := .unused, c := .unused, dest := .v, pred := .any }
  | 0x00f => some { types := tyW, var := .exact 0, imm := false, latch := true, a := .data .own, b := .unused, c := .unused, dest := .v, pred := .any }
  | 0x010 => some { types := tyW, var := .exact 0, imm := false, latch := true, a := .data .own, b := .unused, c := .unused, dest := .v, pred := .any }
  | 0x011 => some { types := tyB, var := .exact 0, imm := true, latch := true, a := .data .own, b := .data .own, c := .unused, dest := .v, pred := .any }
  | 0x012 => some { types := tyB, var := .exact 0, imm := true, latch := true, a := .data .own, b := .data .own, c := .data .own, dest := .v, pred := .any }
  | 0x013 => some { types := [.x32], var := .exact 0, imm := true, latch := true, a := .data .own, b := .data .own, c := .data .own, dest := .v, pred := .any }
  | 0x014 => some { types := tyI, var := .upTo 5, imm := true, latch := true, a := .data .own, b := .data .own, c := .unused, dest := .vk, pred := .any }
  | 0x015 => some { types := tyIFX, var := .upTo 6, imm := true, latch := true, a := .data .own, b := .data .own, c := .unused, dest := .v, pred := .any }
  | 0x016 => some { types := tyAll, var := .exact 0, imm := true, latch := true, a := .data .own, b := .unused, c := .unused, dest := .v, pred := .any }
  | 0x040 => some { types := tyF, var := .upTo 3, imm := true, latch := true, a := .data .own, b := .data .own, c := .unused, dest := .v, pred := .any }
  | 0x041 => some { types := tyF, var := .upTo 3, imm := true, latch := true, a := .data .own, b := .data .own, c := .unused, dest := .v, pred := .any }
  | 0x042 => some { types := tyF, var := .upTo 3, imm := true, latch := true, a := .data .own, b := .data .own, c := .unused, dest := .v, pred := .any }
  | 0x043 => some { types := tyF, var := .upTo 3, imm := true, latch := true, a := .data .own, b := .data .own, c := .data .own, dest := .v, pred := .any }
  | 0x044 => some { types := tyF, var := .exact 0, imm := true, latch := true, a := .data .own, b := .data .own, c := .unused, dest := .v, pred := .any }
  | 0x045 => some { types := tyF, var := .exact 0, imm := true, latch := true, a := .data .own, b := .data .own, c := .unused, dest := .v, pred := .any }
  | 0x046 => some { types := tyF, var := .upTo 6, imm := true, latch := true, a := .data .own, b := .data .own, c := .unused, dest := .vk, pred := .any }
  | 0x047 => some { types := [.f32], var := .upTo 3, imm := false, latch := true, a := .data .own, b := .unused, c := .unused, dest := .v, pred := .any }
  | 0x048 => some { types := [.f32], var := .upTo 3, imm := false, latch := true, a := .data .own, b := .unused, c := .unused, dest := .v, pred := .any }
  | 0x049 => some { types := [.f32], var := .upTo 3, imm := false, latch := true, a := .data .own, b := .unused, c := .unused, dest := .v, pred := .any }
  | 0x04a => some { types := [.f32], var := .upTo 3, imm := false, latch := true, a := .data .own, b := .unused, c := .unused, dest := .v, pred := .any }
  | 0x04b => some { types := [.f32], var := .upTo 3, imm := false, latch := true, a := .data .own, b := .unused, c := .unused, dest := .v, pred := .any }
  | 0x04c => some { types := [.f32], var := .upTo 3, imm := false, latch := true, a := .data .own, b := .unused, c := .unused, dest := .v, pred := .any }
  | 0x04d => some { types := [.f32], var := .upTo 3, imm := false, latch := true, a := .data .own, b := .unused, c := .unused, dest := .v, pred := .any }
  | 0x04e => some { types := tyF, var := .upTo 3, imm := false, latch := true, a := .data .own, b := .unused, c := .unused, dest := .v, pred := .any }
  | 0x04f => some { types := tyF, var := .exact 0, imm := false, latch := true, a := .data .own, b := .unused, c := .unused, dest := .v, pred := .any }
  | 0x060 => some { types := tyCvt, var := .upTo 3, imm := false, latch := true, a := .data .cvt, b := .unused, c := .rawTy, dest := .v, pred := .any }
  | 0x061 => some { types := [.t8, .t6], var := .upTo 3, imm := false, latch := true, a := .data .cvt, b := .data (.fix .i32), c := .rawTy, dest := .v, pred := .any }
  | 0x062 => some { types := tyPack, var := .upTo 3, imm := false, latch := true, a := .data .pack, b := .data (.fix .x32), c := .unused, dest := .v, pred := .any }
  | 0x063 => some { types := tyPack, var := .part, imm := false, latch := true, a := .data (.fix .x32), b := .unused, c := .unused, dest := .v, pred := .any }
  | 0x070 => some { types := tyNo, var := .exact 0, imm := false, latch := false, a := .mask false, b := .mask false, c := .unused, dest := .k, pred := .any }
  | 0x071 => some { types := tyNo, var := .exact 0, imm := false, latch := false, a := .mask false, b := .mask false, c := .unused, dest := .k, pred := .any }
  | 0x072 => some { types := tyNo, var := .exact 0, imm := false, latch := false, a := .mask false, b := .mask false, c := .unused, dest := .k, pred := .any }
  | 0x073 => some { types := tyNo, var := .exact 0, imm := false, latch := false, a := .mask false, b := .unused, c := .unused, dest := .k, pred := .any }
  | 0x074 => some { types := tyNo, var := .exact 0, imm := false, latch := false, a := .mask true, b := .unused, c := .unused, dest := .ke, pred := .always }
  | 0x075 => some { types := tyNo, var := .exact 0, imm := false, latch := true, a := .mask false, b := .unused, c := .unused, dest := .v, pred := .any }
  | 0x076 => some { types := tyNo, var := .exact 0, imm := false, latch := true, a := .mask false, b := .unused, c := .unused, dest := .v, pred := .any }
  | 0x080 => some { types := tyNo, var := .exact 0, imm := false, latch := false, a := .unused, b := .unused, c := .target, dest := .none, pred := .any }
  | 0x081 => some { types := tyNo, var := .exact 0, imm := false, latch := false, a := .unused, b := .unused, c := .target, dest := .none, pred := .masked }
  | 0x082 => some { types := tyNo, var := .exact 0, imm := false, latch := false, a := .unused, b := .unused, c := .unused, dest := .none, pred := .always }
  | 0x083 => some { types := tyNo, var := .exact 0, imm := false, latch := false, a := .unused, b := .unused, c := .unused, dest := .none, pred := .always }
  | 0x084 => some { types := tyNo, var := .exact 0, imm := false, latch := false, a := .unused, b := .unused, c := .target, dest := .v, pred := .any }
  | 0x085 => some { types := tyNo, var := .upTo 2, imm := false, latch := false, a := .data (.fix .i32), b := .unused, c := .unused, dest := .none, pred := .any }
  | 0x086 => some { types := tyNo, var := .exact 0, imm := false, latch := false, a := .unused, b := .unused, c := .unused, dest := .k, pred := .any }
  | 0x0a0 => some { types := [.x32], var := .exact 0, imm := true, latch := false, a := .base, b := .offset, c := .unused, dest := .v, pred := .any }
  | 0x0a1 => some { types := tyH, var := .exact 0, imm := true, latch := false, a := .base, b := .offset, c := .unused, dest := .v, pred := .any }
  | 0x0a2 => some { types := tyB8, var := .exact 0, imm := true, latch := false, a := .base, b := .offset, c := .unused, dest := .v, pred := .any }
  | 0x0a3 => some { types := [.x32], var := .exact 0, imm := true, latch := false, a := .base, b := .offset, c := .unused, dest := .pair, pred := .any }
  | 0x0a4 => some { types := [.x32], var := .exact 0, imm := false, latch := false, a := .base, b := .offset, c := .data .own, dest := .none, pred := .any }
  | 0x0a5 => some { types := tyH, var := .exact 0, imm := false, latch := false, a := .base, b := .offset, c := .data .own, dest := .none, pred := .any }
  | 0x0a6 => some { types := tyB8, var := .exact 0, imm := false, latch := false, a := .base, b := .offset, c := .data .own, dest := .none, pred := .any }
  | 0x0a7 => some { types := [.x32], var := .exact 0, imm := false, latch := false, a := .base, b := .offset, c := .data .wide, dest := .none, pred := .any }
  | 0x0a8 => some { types := [.x32], var := .exact 0, imm := true, latch := false, a := .base, b := .offset, c := .unused, dest := .pair, pred := .any }
  | 0x0a9 => some { types := [.x32], var := .exact 0, imm := true, latch := false, a := .data .own, b := .data .own, c := .unused, dest := .v, pred := .any }
  | 0x0aa => some { types := [.x32], var := .exact 0, imm := false, latch := false, a := .data .own, b := .data .own, c := .unused, dest := .none, pred := .any }
  | 0x0ab => some { types := tyNo, var := .upTo 1, imm := true, latch := false, a := .base, b := .offset, c := .unused, dest := .none, pred := .any }
  | 0x0b0 => some { types := tyAdd, var := .upTo 4, imm := false, latch := false, a := .base, b := .offset, c := .data .own, dest := .v, pred := .any }
  | 0x0b1 => some { types := tyMM, var := .upTo 4, imm := false, latch := false, a := .base, b := .offset, c := .data .own, dest := .v, pred := .any }
  | 0x0b2 => some { types := tyMM, var := .upTo 4, imm := false, latch := false, a := .base, b := .offset, c := .data .own, dest := .v, pred := .any }
  | 0x0b3 => some { types := [.x32], var := .upTo 4, imm := false, latch := false, a := .base, b := .offset, c := .data .own, dest := .v, pred := .any }
  | 0x0b4 => some { types := [.x32], var := .upTo 4, imm := false, latch := false, a := .base, b := .offset, c := .data .own, dest := .v, pred := .any }
  | 0x0b5 => some { types := [.x32], var := .upTo 4, imm := false, latch := false, a := .base, b := .offset, c := .data .own, dest := .v, pred := .any }
  | 0x0b6 => some { types := [.x32], var := .upTo 4, imm := false, latch := false, a := .base, b := .offset, c := .data .own, dest := .v, pred := .any }
  | 0x0b7 => some { types := [.x32], var := .upTo 4, imm := false, latch := false, a := .base, b := .data (.fix .x32), c := .data .own, dest := .v, pred := .any }
  | 0x0b8 => some { types := tyAdd, var := .exact 0, imm := false, latch := false, a := .base, b := .offset, c := .data .own, dest := .none, pred := .any }
  | 0x0b9 => some { types := tyMM, var := .exact 0, imm := false, latch := false, a := .base, b := .offset, c := .data .own, dest := .none, pred := .any }
  | 0x0ba => some { types := tyMM, var := .exact 0, imm := false, latch := false, a := .base, b := .offset, c := .data .own, dest := .none, pred := .any }
  | 0x0bb => some { types := [.x32], var := .exact 0, imm := false, latch := false, a := .base, b := .offset, c := .data .own, dest := .none, pred := .any }
  | 0x0bc => some { types := [.x32], var := .exact 0, imm := false, latch := false, a := .base, b := .offset, c := .data .own, dest := .none, pred := .any }
  | 0x0bd => some { types := [.x32], var := .exact 0, imm := false, latch := false, a := .base, b := .offset, c := .data .own, dest := .none, pred := .any }
  | 0x0c0 => some { types := [.n32], var := .exact 0, imm := false, latch := false, a := .plain .own, b := .plain .own, c := .unused, dest := .pair, pred := .any }
  | 0x0c1 => some { types := tyNo, var := .upTo 1, imm := false, latch := true, a := .mask false, b := .unused, c := .rawSeg, dest := .v, pred := .any }
  | 0x0c2 => some { types := tyRed, var := .red, imm := false, latch := true, a := .data .own, b := .unused, c := .rawSeg, dest := .v, pred := .any }
  | 0x0e0 => some { types := tyNo, var := .exact 0, imm := false, latch := false, a := .data (.fix .x32), b := .unused, c := .unused, dest := .v, pred := .any }
  | 0x0e1 => some { types := [.x32], var := .exact 0, imm := false, latch := false, a := .base, b := .plain .own, c := .unused, dest := .none, pred := .any }
  | _ => none

/-- The low bits of an immediate are its value and the rest must be zero in the narrow types (R46). -/
def immOk (t : LTy) (x : W32) : Bool := decide (x.toNat < 2 ^ t.width)

/-- A permutation that R43 allows. -/
def permOk : Perm → Bool
  | .none => true
  | .rot g d => decide (1 ≤ g.toNat ∧ g.toNat ≤ 5 ∧ 1 ≤ d.toNat ∧ d.toNat < 2 ^ g.toNat)
  | .bfly g d => decide (1 ≤ g.toNat ∧ g.toNat ≤ 5 ∧ d.toNat < 2 ^ g.toNat) && [1, 2, 4, 8, 16].contains d.toNat
  | .bcast g d => decide (1 ≤ g.toNat ∧ g.toNat ≤ 5 ∧ d.toNat < 2 ^ g.toNat)

/-- An even vector register. -/
def evenReg (r : VNum) : Bool := r.toNat % 2 == 0

/-- The type in which a source is read. -/
def readTy (r : ReadTy) (f : LForm) : LTy :=
  match r with
  | .own => f.ty
  | .fix t => t
  | .shift => if f.ty.isPair then .n64 else .n32
  | .wide => .n64
  | .pack => if f.ty.isInt then .i32 else .f32
  | .cvt => match f.c.src with
    | .raw x => (LTy.ofCode (x.setWidth 4)).getD .x32
    | _ => .x32

/-- A source without modifier and mark. -/
def Opnd.bare (o : Opnd) : Bool := !o.last && decide (o.perm = .none) && decide (o.vmod = .none)

/-- An ordinary source read in type t (R38, R40 to R43). A constant stands wherever an operand is read in another type than .t8 or .t6
(R40): so also as the data of STD, of which R237 names only the other sources (DESIGN CHOICE, log 115). -/
def srcOk (t : LTy) (o : Opnd) : Bool :=
  permOk o.perm &&
  (decide (o.vmod = .none) || !(t.isNat || t == .x32)) &&
  match o.src with
  | .v r => !t.isPair || evenReg r
  | .s _ => decide (o.perm = .none)
  | .const c => decide (c.toNat < 48) && decide (o.perm = .none) && !t.isTaper
  | .em => decide (o.perm = .none) && decide (o.vmod = .none) && [LTy.x32, .i32, .n32].contains t
  | .lane => !t.isPair
  | .latch _ => true
  | _ => false

/-- A last-use mark stands on a vector source only (R51). -/
def markOk (o : Opnd) : Bool := !o.last || match o.src with
  | .v _ => true
  | _ => false

/-- The base address is no constant (R237). -/
def baseOk (o : Opnd) : Bool := match o.src with
  | .const _ => false
  | _ => true

/-- A source field under its kind. What R51 and R237 refuse beyond R35 to R46 is tested here, but where late says that it comes after the
privilege (R58). -/
def opndOk (late : Bool) (k : SrcKind) (f : LForm) (o : Opnd) : Bool :=
  match k with
  | .unused => decide (o = Opnd.unused)
  | .data r => srcOk (readTy r f) o && (late || markOk o)
  | .plain r => srcOk (readTy r f) o && decide (o.perm = .none) && decide (o.vmod = .none) && (late || markOk o)
  | .base => srcOk .n64 o && (late || (markOk o && baseOk o))
  | .offset => srcOk .i32 o && (late || markOk o) && decide (o.vmod = .none) && decide (o.src ≠ .em)
  | .mask snap => o.bare && match o.src with
    | .mask _ => true
    | .em => true
    | .s _ => snap
    | _ => false
  | .rawTy => o.bare && match o.src with
    | .raw x => decide (x.toNat ≤ 12)
    | _ => false
  | .rawSeg => o.bare && match o.src with
    | .raw x => decide (1 ≤ x.toNat ∧ x.toNat ≤ 5)
    | _ => false
  | .target => o.bare && match o.src with
    | .imm x => decide (x.toNat < 2 ^ 19)
    | _ => false

/-- The immediate of an immediate form: an offset in every type, else read in TYPE (R46, R237). -/
def immOpndOk (k : SrcKind) (f : LForm) (o : Opnd) : Bool :=
  o.bare && match o.src with
  | .imm x => k == .offset || immOk f.ty x
  | _ => false

/-- A source of an immediate form that takes no modifier (R46: source b). -/
def unmodified (o : Opnd) : Bool := decide (o.perm = .none) && decide (o.vmod = .none)

/-- The sources of a form; in an immediate form the last source is the immediate (R46). -/
def sourcesOk (late : Bool) (row : LaneRow) (isImm : Bool) (f : LForm) : Bool :=
  if isImm then
    if row.c ≠ .unused then
      opndOk late row.a f f.a && opndOk late row.b f f.b && unmodified f.b && immOpndOk row.c f f.c
    else if row.b ≠ .unused then
      opndOk late row.a f f.a && immOpndOk row.b f f.b && decide (f.c = Opnd.unused)
    else immOpndOk row.a f f.a && decide (f.b = Opnd.unused) && decide (f.c = Opnd.unused)
  else opndOk late row.a f f.a && opndOk late row.b f f.b && opndOk late row.c f f.c

/-- A destination under its kind (R39, R41, R47). -/
def destOk (row : LaneRow) (f : LForm) : Bool :=
  match f.dest with
  | .none => row.dest == .none
  | .l0 => row.latch && (row.dest == .v || row.dest == .vk)
  | .v r => match row.dest with
    | .v => !f.ty.isPair || evenReg r
    | .pair => evenReg r
    | .vk => true
    | _ => false
  | .k r => decide (r.toNat ≤ 6) && (row.dest == .k || row.dest == .vk || row.dest == .ke)
  | .em => row.dest == .ke

/-- A predicate under its rule (R37). -/
def predOk (row : LaneRow) (f : LForm) : Bool :=
  match f.pred with
  | .always => row.pred != .masked
  | .on k _ => decide (k.toNat ≤ 6) && row.pred != .always

/-- VAR under its rule (R65). -/
def varOk (row : LaneRow) (f : LForm) : Bool :=
  match row.var with
  | .exact n => f.var.toNat == n
  | .upTo n => decide (f.var.toNat ≤ n)
  | .part => decide (f.var.toNat ≤ (if f.ty.width = 8 then 3 else if f.ty.width = 16 then 1 else 4))
  | .red => decide (f.var.toNat ≤ (if f.ty = .f32 then 2 else 5))

/-- The opcode of REPLACE, the one lane instruction that needs a privilege. -/
def isReplace (op : Nat) : Bool := op == 0x0E1

/-- What R51 and R237 refuse of the sources of REPLACE: it comes after its privilege (R58). -/
def lateOk (f : LForm) : Bool := markOk f.a && baseOk f.a && markOk f.b

/-- Every check of R58 on a lane form that does not depend on the state. op is the 10-bit OPCODE. -/
def laneFormOk (op : Nat) (f : LForm) : Bool :=
  match laneRow (op % 512) with
  | none => false
  | some row =>
    let isImm := decide (512 ≤ op)
    (!isImm || row.imm) && row.types.contains f.ty && varOk row f && predOk row f && destOk row f &&
      sourcesOk (isReplace op) row isImm f

/-- The form with every field zero but the predicate, which is always (R148: JOIN and STOP). -/
def LForm.plain : LForm := ⟨.i32, .none, .always, 0#3, .unused, .unused, .unused⟩

/-- The 10-bit OPCODE and the form of a lane instruction; none for the other instructions. -/
def laneParts (i : Instr) : Option (Nat × LForm) :=
  match i with
  | .iadd f => some (0x001, f)
  | .iaddImm f => some (0x201, f)
  | .isub f => some (0x002, f)
  | .isubImm f => some (0x202, f)
  | .imul f => some (0x003, f)
  | .imulImm f => some (0x203, f)
  | .imulh f => some (0x004, f)
  | .imulhImm f => some (0x204, f)
  | .imad f => some (0x005, f)
  | .imadImm f => some (0x205, f)
  | .imin f => some (0x006, f)
  | .iminImm f => some (0x206, f)
  | .imax f => some (0x007, f)
  | .imaxImm f => some (0x207, f)
  | .laneAnd f => some (0x008, f)
  | .laneAndImm f => some (0x208, f)
  | .laneOr f => some (0x009, f)
  | .laneOrImm f => some (0x209, f)
  | .laneXor f => some (0x00a, f)
  | .laneXorImm f => some (0x20a, f)
  | .laneShl f => some (0x00b, f)
  | .laneShlImm f => some (0x20b, f)
  | .laneShr f => some (0x00c, f)
  | .laneShrImm f => some (0x20c, f)
  | .laneSra f => some (0x00d, f)
  | .laneSraImm f => some (0x20d, f)
  | .laneClz f => some (0x00e, f)
  | .lanePopc f => some (0x00f, f)
  | .brev f => some (0x010, f)
  | .bfe f => some (0x011, f)
  | .bfeImm f => some (0x211, f)
  | .bfi f => some (0x012, f)
  | .bfiImm f => some (0x212, f)
  | .bswz f => some (0x013, f)
  | .bswzImm f => some (0x213, f)
  | .icmp f => some (0x014, f)
  | .icmpImm f => some (0x214, f)
  | .laneSel f => some (0x015, f)
  | .laneSelImm f => some (0x215, f)
  | .mov f => some (0x016, f)
  | .movi f => some (0x216, f)
  | .fadd f => some (0x040, f)
  | .faddImm f => some (0x240, f)
  | .fsub f => some (0x041, f)
  | .fsubImm f => some (0x241, f)
  | .fmul f => some (0x042, f)
  | .fmulImm f => some (0x242, f)
  | .ffma f => some (0x043, f)
  | .ffmaImm f => some (0x243, f)
  | .fmin f => some (0x044, f)
  | .fminImm f => some (0x244, f)
  | .fmax f => some (0x045, f)
  | .fmaxImm f => some (0x245, f)
  | .fcmp f => some (0x046, f)
  | .fcmpImm f => some (0x246, f)
  | .frcp f => some (0x047, f)
  | .frsq f => some (0x048, f)
  | .fsqrt f => some (0x049, f)
  | .fexp2 f => some (0x04a, f)
  | .flog2 f => some (0x04b, f)
  | .fsin f => some (0x04c, f)
  | .fcos f => some (0x04d, f)
  | .frnd f => some (0x04e, f)
  | .fclass f => some (0x04f, f)
  | .cvt f => some (0x060, f)
  | .cvtq f => some (0x061, f)
  | .pack f => some (0x062, f)
  | .unpack f => some (0x063, f)
  | .kand f => some (0x070, f)
  | .kor f => some (0x071, f)
  | .kxor f => some (0x072, f)
  | .knot f => some (0x073, f)
  | .movem f => some (0x074, f)
  | .popk f => some (0x075, f)
  | .ffsk f => some (0x076, f)
  | .brl f => some (0x080, f)
  | .brc f => some (0x081, f)
  | .join => some (0x082, LForm.plain)
  | .stop => some (0x083, LForm.plain)
  | .item f => some (0x084, f)
  | .voteBallot f => some (0x085, f)
  | .voteAny f => some (0x085, f)
  | .voteAll f => some (0x085, f)
  | .elect f => some (0x086, f)
  | .ldw f => some (0x0a0, f)
  | .ldwImm f => some (0x2a0, f)
  | .ldh f => some (0x0a1, f)
  | .ldhImm f => some (0x2a1, f)
  | .ldb f => some (0x0a2, f)
  | .ldbImm f => some (0x2a2, f)
  | .ldd f => some (0x0a3, f)
  | .lddImm f => some (0x2a3, f)
  | .stw f => some (0x0a4, f)
  | .sth f => some (0x0a5, f)
  | .stb f => some (0x0a6, f)
  | .std f => some (0x0a7, f)
  | .ldx f => some (0x0a8, f)
  | .ldxImm f => some (0x2a8, f)
  | .ldp f => some (0x0a9, f)
  | .ldpImm f => some (0x2a9, f)
  | .stp f => some (0x0aa, f)
  | .pref f => some (0x0ab, f)
  | .prefImm f => some (0x2ab, f)
  | .atomAdd f => some (0x0b0, f)
  | .atomMin f => some (0x0b1, f)
  | .atomMax f => some (0x0b2, f)
  | .atomAnd f => some (0x0b3, f)
  | .atomOr f => some (0x0b4, f)
  | .atomXor f => some (0x0b5, f)
  | .atomSwap f => some (0x0b6, f)
  | .atomCas f => some (0x0b7, f)
  | .eopAdd f => some (0x0b8, f)
  | .eopMin f => some (0x0b9, f)
  | .eopMax f => some (0x0ba, f)
  | .eopAnd f => some (0x0bb, f)
  | .eopOr f => some (0x0bc, f)
  | .eopXor f => some (0x0bd, f)
  | .isect f => some (0x0c0, f)
  | .scankIncl f => some (0x0c1, f)
  | .scankExcl f => some (0x0c1, f)
  | .segredAdd f => some (0x0c2, f)
  | .segredMin f => some (0x0c2, f)
  | .segredMax f => some (0x0c2, f)
  | .segredAnd f => some (0x0c2, f)
  | .segredOr f => some (0x0c2, f)
  | .segredXor f => some (0x0c2, f)
  | .callv f => some (0x0e0, f)
  | .replaceSupply f => some (0x0e1, f)
  | .replaceStore f => some (0x0e1, f)
  | _ => none

/-- The instruction of a lane opcode and form; VAR separates the rows that R65 splits, and source a the two forms of
REPLACE (R342). None for an opcode that R64 does not assign. -/
def laneBuild (op : Nat) (f : LForm) : Option Instr :=
  match op with
  | 0x001 => some (.iadd f)
  | 0x201 => some (.iaddImm f)
  | 0x002 => some (.isub f)
  | 0x202 => some (.isubImm f)
  | 0x003 => some (.imul f)
  | 0x203 => some (.imulImm f)
  | 0x004 => some (.imulh f)
  | 0x204 => some (.imulhImm f)
  | 0x005 => some (.imad f)
  | 0x205 => some (.imadImm f)
  | 0x006 => some (.imin f)
  | 0x206 => some (.iminImm f)
  | 0x007 => some (.imax f)
  | 0x207 => some (.imaxImm f)
  | 0x008 => some (.laneAnd f)
  | 0x208 => some (.laneAndImm f)
  | 0x009 => some (.laneOr f)
  | 0x209 => some (.laneOrImm f)
  | 0x00a => some (.laneXor f)
  | 0x20a => some (.laneXorImm f)
  | 0x00b => some (.laneShl f)
  | 0x20b => some (.laneShlImm f)
  | 0x00c => some (.laneShr f)
  | 0x20c => some (.laneShrImm f)
  | 0x00d => some (.laneSra f)
  | 0x20d => some (.laneSraImm f)
  | 0x00e => some (.laneClz f)
  | 0x00f => some (.lanePopc f)
  | 0x010 => some (.brev f)
  | 0x011 => some (.bfe f)
  | 0x211 => some (.bfeImm f)
  | 0x012 => some (.bfi f)
  | 0x212 => some (.bfiImm f)
  | 0x013 => some (.bswz f)
  | 0x213 => some (.bswzImm f)
  | 0x014 => some (.icmp f)
  | 0x214 => some (.icmpImm f)
  | 0x015 => some (.laneSel f)
  | 0x215 => some (.laneSelImm f)
  | 0x016 => some (.mov f)
  | 0x216 => some (.movi f)
  | 0x040 => some (.fadd f)
  | 0x240 => some (.faddImm f)
  | 0x041 => some (.fsub f)
  | 0x241 => some (.fsubImm f)
  | 0x042 => some (.fmul f)
  | 0x242 => some (.fmulImm f)
  | 0x043 => some (.ffma f)
  | 0x243 => some (.ffmaImm f)
  | 0x044 => some (.fmin f)
  | 0x244 => some (.fminImm f)
  | 0x045 => some (.fmax f)
  | 0x245 => some (.fmaxImm f)
  | 0x046 => some (.fcmp f)
  | 0x246 => some (.fcmpImm f)
  | 0x047 => some (.frcp f)
  | 0x048 => some (.frsq f)
  | 0x049 => some (.fsqrt f)
  | 0x04a => some (.fexp2 f)
  | 0x04b => some (.flog2 f)
  | 0x04c => some (.fsin f)
  | 0x04d => some (.fcos f)
  | 0x04e => some (.frnd f)
  | 0x04f => some (.fclass f)
  | 0x060 => some (.cvt f)
  | 0x061 => some (.cvtq f)
  | 0x062 => some (.pack f)
  | 0x063 => some (.unpack f)
  | 0x070 => some (.kand f)
  | 0x071 => some (.kor f)
  | 0x072 => some (.kxor f)
  | 0x073 => some (.knot f)
  | 0x074 => some (.movem f)
  | 0x075 => some (.popk f)
  | 0x076 => some (.ffsk f)
  | 0x080 => some (.brl f)
  | 0x081 => some (.brc f)
  | 0x082 => some .join
  | 0x083 => some .stop
  | 0x084 => some (.item f)
  | 0x085 =>
      if f.var = 0#3 then some (.voteBallot f)
      else if f.var = 1#3 then some (.voteAny f)
      else if f.var = 2#3 then some (.voteAll f)
      else none
  | 0x086 => some (.elect f)
  | 0x0a0 => some (.ldw f)
  | 0x2a0 => some (.ldwImm f)
  | 0x0a1 => some (.ldh f)
  | 0x2a1 => some (.ldhImm f)
  | 0x0a2 => some (.ldb f)
  | 0x2a2 => some (.ldbImm f)
  | 0x0a3 => some (.ldd f)
  | 0x2a3 => some (.lddImm f)
  | 0x0a4 => some (.stw f)
  | 0x0a5 => some (.sth f)
  | 0x0a6 => some (.stb f)
  | 0x0a7 => some (.std f)
  | 0x0a8 => some (.ldx f)
  | 0x2a8 => some (.ldxImm f)
  | 0x0a9 => some (.ldp f)
  | 0x2a9 => some (.ldpImm f)
  | 0x0aa => some (.stp f)
  | 0x0ab => some (.pref f)
  | 0x2ab => some (.prefImm f)
  | 0x0b0 => some (.atomAdd f)
  | 0x0b1 => some (.atomMin f)
  | 0x0b2 => some (.atomMax f)
  | 0x0b3 => some (.atomAnd f)
  | 0x0b4 => some (.atomOr f)
  | 0x0b5 => some (.atomXor f)
  | 0x0b6 => some (.atomSwap f)
  | 0x0b7 => some (.atomCas f)
  | 0x0b8 => some (.eopAdd f)
  | 0x0b9 => some (.eopMin f)
  | 0x0ba => some (.eopMax f)
  | 0x0bb => some (.eopAnd f)
  | 0x0bc => some (.eopOr f)
  | 0x0bd => some (.eopXor f)
  | 0x0c0 => some (.isect f)
  | 0x0c1 =>
      if f.var = 0#3 then some (.scankIncl f)
      else if f.var = 1#3 then some (.scankExcl f)
      else none
  | 0x0c2 =>
      if f.var = 0#3 then some (.segredAdd f)
      else if f.var = 1#3 then some (.segredMin f)
      else if f.var = 2#3 then some (.segredMax f)
      else if f.var = 3#3 then some (.segredAnd f)
      else if f.var = 4#3 then some (.segredOr f)
      else if f.var = 5#3 then some (.segredXor f)
      else none
  | 0x0e0 => some (.callv f)
  | 0x0e1 => some (if f.a.src = .s 0#6 then .replaceSupply f else .replaceStore f)
  | _ => none

end Sys2Proof
end

