-- ==== Sys2Proof/WellFormed.lean ====
section
/-! DEFINITION. Which terms of Instr are instructions of the part: the static checks of spec/02_streams_and_encoding.md R33 to R46
and spec/03_opcode_map.md R58 to R70, without those that depend on operand values. -/

namespace Sys2Proof

/-- The static checks of the scalar words beyond their field widths: MMQ uses sb only for tapered types (R205); switch
accumulation only with add (R390); a selector with a row of its own is not written as the general row (R70). -/
def scalarOk (i : Instr) : Bool :=
  match i with
  | .mmq _ _ b ty _ _ _ => ty == .t8 || ty == .t6 || b == 0#6
  | .mmqQuad _ _ b ty _ _ _ => ty == .t8 || ty == .t6 || b == 0#6
  | .collAllreduce _ _ _ op swa => op == .add || !swa
  | .collReduceScatter _ _ _ op swa => op == .add || !swa
  | .getc _ sel => !([0x21#13, 0x40#13].contains sel)
  | .setc _ sel =>
    !([0x20#13, 0x21#13, 0x31#13, 0x32#13, 0x51#13, 0x10#13, 0x15#13, 0x16#13, 0x17#13, 0x18#13, 0x34#13,
      0x12#13].contains sel)
  | _ => true

/-- A well-formed instruction. The steps of the part that are no instruction words carry no encoding to check. -/
def Instr.wf (i : Instr) : Bool :=
  match laneParts i with
  | some (op, f) => laneFormOk op f && decide (laneBuild op f = some i)
  | none => scalarOk i

end Sys2Proof
end

