-- ==== Sys2Proof/Decode.lean ====
section
/-! DEFINITION. Decoding of the two instruction streams, total on any word, and the encoder:
spec/02_streams_and_encoding.md R23, R27, R31, R33 to R46 and spec/03_opcode_map.md R58 to R70. -/

namespace Sys2Proof

/-- Why a word is no instruction. Every one raises ILL at the instruction (R35, R58). -/
inductive DecErr where
  /-- The opcode is not assigned, or has no immediate form (R59, R64, R68). -/
  | unassignedOpcode
  /-- The func value is not assigned (R59, R60). -/
  | unassignedFunc
  /-- A field that the instruction does not use is not zero (R35, R38). -/
  | reservedField
  /-- A scope code of 5 to 7 (R61). -/
  | badScope
  /-- A type code the instruction does not accept (R44). -/
  | badType
  /-- A source field that names nothing (R38, R144). -/
  | badSource
  /-- A destination that names nothing (R39). -/
  | badDest
  /-- A modifier with CLASS 0 and a nonzero SEG or DIST (R43). -/
  | badModifier
  /-- PSEL 7 with PNEG 1 (R37). -/
  | badPredicate
  /-- The fields are readable but not a legal form of the instruction (R37 to R47, R65 to R67, R148). -/
  | illegalForm
  deriving DecidableEq, Repr

/-! ### Fields of a scalar word (R33) -/

/-- [31:25]. -/
def fOp (w : W32) : BitVec 7 := w.extractLsb' 25 7
/-- [24:19]. -/
def fD (w : W32) : SReg := w.extractLsb' 19 6
/-- [18:13]. -/
def fA (w : W32) : SReg := w.extractLsb' 13 6
/-- [12:7]. -/
def fB (w : W32) : SReg := w.extractLsb' 7 6
/-- [6:0]. -/
def fFunc (w : W32) : BitVec 7 := w.extractLsb' 0 7
/-- [12:0]. -/
def fImm13 (w : W32) : BitVec 13 := w.extractLsb' 0 13
/-- [18:0]. -/
def fImm19 (w : W32) : BitVec 19 := w.extractLsb' 0 19

/-- A word of format S-R. -/
def encR (op : BitVec 7) (d a b : SReg) (func : BitVec 7) : W32 := op ++ d ++ a ++ b ++ func
/-- A word of format S-I. -/
def encI (op : BitVec 7) (d a : SReg) (imm : BitVec 13) : W32 := op ++ d ++ a ++ imm
/-- A word of format S-B, S-U or S-L. -/
def encU (op : BitVec 7) (d : SReg) (imm : BitVec 19) : W32 := op ++ d ++ imm

/-- Scope codes (R61). -/
def Scope.code : Scope → BitVec 3
  | .group => 0 | .team => 1 | .cluster => 2 | .device => 3 | .domain => 4
/-- The scope of a code. -/
def Scope.ofCode (c : BitVec 3) : Option Scope :=
  match c.toNat with
  | 0 => some .group | 1 => some .team | 2 => some .cluster | 3 => some .device | 4 => some .domain | _ => none
/-- Rounding mode codes (R45). -/
def Rnd.code : Rnd → BitVec 2
  | .rne => 0 | .rtz => 1 | .rdn => 2 | .rup => 3
/-- The rounding mode of a code. -/
def Rnd.ofCode (c : BitVec 2) : Rnd :=
  match c.toNat with
  | 0 => .rne | 1 => .rtz | 2 => .rdn | _ => .rup
/-- MMQ type codes (R205). -/
def MTy.code : MTy → BitVec 3
  | .b16 => 0 | .h16 => 1 | .t8 => 2 | .t6 => 3
/-- The MMQ type of a code. -/
def MTy.ofCode (c : BitVec 3) : Option MTy :=
  match c.toNat with
  | 0 => some .b16 | 1 => some .h16 | 2 => some .t8 | 3 => some .t6 | _ => none
/-- HAD type codes (R214). -/
def HTy.code : HTy → BitVec 7
  | .f32 => 0 | .h16 => 1 | .b16 => 2
/-- ACCST conversion codes (R217). -/
def AccConv.code : AccConv → BitVec 3
  | .f32 => 0 | .b16 => 1 | .h16 => 2 | .t8 => 3 | .t6 => 4
/-- The ACCST conversion of a code. -/
def AccConv.ofCode (c : BitVec 3) : Option AccConv :=
  match c.toNat with
  | 0 => some .f32 | 1 => some .b16 | 2 => some .h16 | 3 => some .t8 | 4 => some .t6 | _ => none
/-- COLL operation codes (R389). -/
def CollOp.code : CollOp → BitVec 2
  | .add => 0 | .min => 1 | .max => 2
/-- The COLL operation of a code. -/
def CollOp.ofCode (c : BitVec 2) : Option CollOp :=
  match c.toNat with
  | 0 => some .add | 1 => some .min | 2 => some .max | _ => none

/-- An instruction if its unused fields are zero (R35). -/
def zeroed (ok : Bool) (i : Instr) : Except DecErr Instr := if ok then .ok i else .error .reservedField

/-- An instruction of a scope. -/
def withScope (c : BitVec 3) (k : Scope → Instr) : Except DecErr Instr :=
  match Scope.ofCode c with
  | some sc => .ok (k sc)
  | none => .error .badScope

/-- The ALU group, opcode 0x01 (R60). -/
def decodeAlu (d a b : SReg) (func : BitVec 7) : Except DecErr Instr :=
  match func.toNat with
  | 0 => .ok (.add d a b)
  | 1 => .ok (.sub d a b)
  | 2 => .ok (.mul d a b)
  | 3 => .ok (.mulh d a b)
  | 4 => .ok (.mulhn d a b)
  | 5 => .ok (.div d a b)
  | 6 => .ok (.divn d a b)
  | 7 => .ok (.rem d a b)
  | 8 => .ok (.remn d a b)
  | 9 => .ok (.and d a b)
  | 10 => .ok (.or d a b)
  | 11 => .ok (.xor d a b)
  | 12 => .ok (.shl d a b)
  | 13 => .ok (.shr d a b)
  | 14 => .ok (.sra d a b)
  | 15 => .ok (.min d a b)
  | 16 => .ok (.max d a b)
  | 17 => .ok (.minn d a b)
  | 18 => .ok (.maxn d a b)
  | 19 => .ok (.slt d a b)
  | 20 => .ok (.sltn d a b)
  | 21 => zeroed (b == 0) (.clz d a)
  | 22 => zeroed (b == 0) (.popc d a)
  | 23 => .ok (.sel d a b)
  | _ => .error .unassignedFunc

/-- AMOS, opcode 0x24 (R63): the operation in func [6:3], the scope in [2:0]. -/
def decodeAmos (d a b : SReg) (func : BitVec 7) : Except DecErr Instr :=
  let sc := func.extractLsb' 0 3
  match (func.extractLsb' 3 4).toNat with
  | 0 => withScope sc (.amosAdd d a b)
  | 1 => withScope sc (.amosMin d a b)
  | 2 => withScope sc (.amosMax d a b)
  | 3 => withScope sc (.amosMinn d a b)
  | 4 => withScope sc (.amosMaxn d a b)
  | 5 => withScope sc (.amosAnd d a b)
  | 6 => withScope sc (.amosOr d a b)
  | 7 => withScope sc (.amosXor d a b)
  | 8 => withScope sc (.amosSwap d a b)
  | 9 => withScope sc (.amosCas d a b)
  | _ => .error .unassignedFunc

/-- MMQ, opcode 0x47 (R205): TYPE in func [6:4], QUAD, CK, SZ, HF in [3:0]. -/
def decodeMmq (d a b : SReg) (func : BitVec 7) : Except DecErr Instr :=
  match MTy.ofCode (func.extractLsb' 4 3) with
  | none => .error .unassignedFunc
  | some ty =>
    let ok := ty == .t8 || ty == .t6 || b == 0
    if func.getLsbD 3 then zeroed ok (.mmqQuad d a b ty (func.getLsbD 2) (func.getLsbD 1) (func.getLsbD 0))
    else zeroed ok (.mmq d a b ty (func.getLsbD 2) (func.getLsbD 1) (func.getLsbD 0))

/-- The func of an MMQ. -/
def mmqFunc (ty : MTy) (quad ck sz hf : Bool) : BitVec 7 :=
  ty.code ++ BitVec.ofBool quad ++ BitVec.ofBool ck ++ BitVec.ofBool sz ++ BitVec.ofBool hf

/-- COLL, opcode 0x4C (R389, R390): KIND in func [6:4], OP in [3:2], SWA in [1], [0] zero. -/
def decodeColl (d a b : SReg) (func : BitVec 7) : Except DecErr Instr :=
  match CollOp.ofCode (func.extractLsb' 2 2) with
  | none => .error .unassignedFunc
  | some op =>
    let swa := func.getLsbD 1
    let z := !func.getLsbD 0
    match (func.extractLsb' 4 3).toNat with
    | 0 => zeroed (z && (op == .add || !swa)) (.collAllreduce d a b op swa)
    | 1 => zeroed (z && (op == .add || !swa)) (.collReduceScatter d a b op swa)
    | 2 => zeroed (z && op == .add && !swa) (.collAllgather d a b)
    | 3 => zeroed (z && op == .add && !swa) (.collBroadcast d a b)
    | _ => .error .unassignedFunc

/-- The func of a COLL. -/
def collFunc (kind : BitVec 3) (op : CollOp) (swa : Bool) : BitVec 7 :=
  kind ++ op.code ++ BitVec.ofBool swa ++ 0#1

/-- ACCST, opcode 0x4A (R217): CONV in func [6:4], the rounding mode in [3:2], [1:0] zero. -/
def decodeAccst (d a b : SReg) (func : BitVec 7) : Except DecErr Instr :=
  match AccConv.ofCode (func.extractLsb' 4 3) with
  | none => .error .unassignedFunc
  | some c => zeroed (func.extractLsb' 0 2 == 0) (.accst d a b c (Rnd.ofCode (func.extractLsb' 2 2)))

/-- FENCE, opcode 0x58 (R62): the kind in imm13 [4:3], the scope in [2:0]. -/
def decodeFence (d a : SReg) (imm : BitVec 13) : Except DecErr Instr :=
  if d == 0 && a == 0 && imm.extractLsb' 5 8 == 0 then
    let sc := imm.extractLsb' 0 3
    match (imm.extractLsb' 3 2).toNat with
    | 0 => withScope sc .fenceAcq
    | 1 => withScope sc .fenceRel
    | 2 => withScope sc .fenceAcqrel
    | _ => withScope sc .fenceSc
  else .error .reservedField

/-- The imm13 of a FENCE. -/
def fenceImm (kind : BitVec 2) (sc : Scope) : BitVec 13 := (0#8 ++ kind) ++ sc.code

/-- GETC, opcode 0x68 (R69): the selectors with a row of their own, and the general row. -/
def decodeGetc (d : SReg) (sel : BitVec 13) : Instr :=
  if sel = 0x21#13 then .getcFpstat d
  else if sel = 0x40#13 then .getcXpool d
  else .getc d sel

/-- SETC, opcode 0x69 (R69). -/
def decodeSetc (a : SReg) (sel : BitVec 13) : Instr :=
  if sel = 0x20#13 then .setcFpctl a
  else if sel = 0x21#13 then .setcFpstat a
  else if sel = 0x31#13 then .setcXlctl a
  else if sel = 0x32#13 then .setcDelta a
  else if sel = 0x51#13 then .setcVacate a
  else if sel = 0x10#13 then .setcCause a
  else if sel = 0x15#13 then .setcHbase a
  else if sel = 0x16#13 then .setcStepm a
  else if sel = 0x17#13 then .setcWaddr a
  else if sel = 0x18#13 then .setcWctl a
  else if sel = 0x34#13 then .setcScout a
  else if sel = 0x12#13 then .setcEpcl a
  else .setc a sel

/-- A func-selected S-R instruction (R59): the listed func values, each with the check of its unused fields. -/
def byFunc (func : BitVec 7) (l : List (Nat × Bool × Instr)) : Except DecErr Instr :=
  match l with
  | [] => .error .unassignedFunc
  | (n, ok, i) :: t => if func.toNat = n then zeroed ok i else byFunc func t

/-- Decoding of a scalar word, total on any word (R33 to R35, R59 to R63, R69). An opcode or func that the map does not
assign is the table's UNASSIGNED_INSTRUCTION. -/
def decodeScalarFields (w : W32) : Except DecErr Instr :=
  let d := fD w
  let a := fA w
  let b := fB w
  let func := fFunc w
  let i13 := fImm13 w
  let i19 := fImm19 w
  match (fOp w).toNat with
  | 0x01 => decodeAlu d a b func
  | 0x10 => .ok (.addi d a i13)
  | 0x11 => .ok (.andi d a i13)
  | 0x12 => .ok (.slti d a i13)
  | 0x13 => .ok (.ori d a i13)
  | 0x14 => .ok (.xori d a i13)
  | 0x15 => zeroed (i13.extractLsb' 6 7 == 0) (.shli d a (i13.extractLsb' 0 6))
  | 0x16 => zeroed (i13.extractLsb' 6 7 == 0) (.shri d a (i13.extractLsb' 0 6))
  | 0x17 => zeroed (i13.extractLsb' 6 7 == 0) (.srai d a (i13.extractLsb' 0 6))
  | 0x18 => .ok (.sethi d i19)
  | 0x20 => .ok (.lds d a i13)
  | 0x21 => .ok (.lds32 d a i13)
  | 0x22 => .ok (.sts d a i13)
  | 0x23 => .ok (.sts32 d a i13)
  | 0x24 => decodeAmos d a b func
  | 0x28 => zeroed (d == 0) (.b i19)
  | 0x29 => .ok (.beq d a i13)
  | 0x2a => .ok (.bne d a i13)
  | 0x2b => .ok (.blt d a i13)
  | 0x2c => .ok (.bge d a i13)
  | 0x2d => .ok (.bltn d a i13)
  | 0x2e => .ok (.bgen d a i13)
  | 0x2f => .ok (.call d i19)
  | 0x30 => byFunc func [(0, b == 0, .jr d a), (1, b == 0 && d == 0, .ret a)]
  | 0x38 => .ok (.run d i19)
  | 0x39 => byFunc func [(0, d == 0 && a == 0 && b == 0, .syncq)]
  | 0x3a => byFunc func [(0, a == 0 && b == 0, .takev d)]
  | 0x40 => byFunc func [(0, true, .cpyLd d a b), (1, true, .cpySt d a b)]
  | 0x41 => byFunc func [(0, a == 0 && b == 0, .closeb d)]
  | 0x42 => byFunc func [(0, d == 0 && b == 0, .waitb a)]
  | 0x43 => byFunc func [(0, d == 0 && b == 0, .rcfence a), (1, d == 0 && a == 0 && b == 0, .rcfenceAll)]
  | 0x44 => byFunc func [(0, true, .gath d a b)]
  | 0x45 => byFunc func [(0, true, .scat d a b), (1, true, .scatAddI32 d a b), (2, true, .scatAddF32 d a b)]
  | 0x46 => byFunc func [(0, true, .walkCoo d a b), (1, true, .walkCsr d a b)]
  | 0x47 => decodeMmq d a b func
  | 0x48 => byFunc func [(0, d == 0 && a == 0 && b == 0, .orf)]
  | 0x49 => byFunc func [(0, b == 0, .mwait d a)]
  | 0x4a => decodeAccst d a b func
  | 0x4b => byFunc func [(0, true, .had d a b .f32), (1, true, .had d a b .h16), (2, true, .had d a b .b16)]
  | 0x4c => decodeColl d a b func
  | 0x4d => byFunc func [(0, b == 0, .waitc d a)]
  | 0x50 => byFunc func [(0, b == 0, .erase d a)]
  | 0x51 => byFunc func [(0, b == 0, .xprobe d a)]
  | 0x52 => byFunc func [(0, true, .give d a b)]
  | 0x53 => byFunc func [(0, b == 0, .take d a)]
  | 0x54 => byFunc func [(0, b == 0, .deedq d a)]
  | 0x58 => decodeFence d a i13
  | 0x59 => byFunc func [(0, d == 0, .bar a b)]
  | 0x5a => byFunc func [(0, true, .arrive d a b)]
  | 0x5b => byFunc func [(0, d == 0, .waitbar a b)]
  | 0x60 => byFunc func [(0, b == 0, .launch d a), (1, b == 0, .launchGraph d a)]
  | 0x61 => byFunc func [(0, true, .itemqPut d a b), (1, a == 0 && b == 0, .itemqCount d), (2, d == 0 && a == 0 && b == 0, .itemqClose)]
  | 0x62 => byFunc func [(0, d == 0 && a == 0 && b == 0, .yield)]
  | 0x63 => byFunc func [(0, d == 0 && a == 0 && b == 0, .exit)]
  | 0x68 => zeroed (a == 0) (decodeGetc d i13)
  | 0x69 => zeroed (d == 0) (decodeSetc a i13)
  | 0x6a => zeroed (d == 0 && a == 0) (.trap i13)
  | 0x6b => byFunc func [(0, d == 0 && a == 0 && b == 0, .sret)]
  | 0x6c => zeroed (d == 0 && a == 0) (.brk i13)
  | 0x6d => byFunc func [(0, true, .injectReg d a b), (1, true, .injectMem d a b), (2, true, .injectTrip d a b)]
  | 0x6e => byFunc func [(0, d == 0 && a == 0 && b == 0, .halt)]
  | _ => .error .unassignedOpcode

/-- An unassigned opcode or func is the table's UNASSIGNED_INSTRUCTION (R58 check 1); the other errors keep their name. -/
def orUnassigned (r : Except DecErr Instr) : Except DecErr Instr :=
  match r with
  | .error .unassignedOpcode => .ok .unassignedInstruction
  | .error .unassignedFunc => .ok .unassignedInstruction
  | r => r

/-- Decoding of a scalar word. -/
def decodeScalar (w : W32) : Except DecErr Instr := orUnassigned (decodeScalarFields w)

/-- The word of a scalar instruction (R33, R59 to R63, R69). -/
def encodeScalar (i : Instr) : Option W32 :=
  match i with
  | .add d a b => some (encR 0x01 d a b 0)
  | .sub d a b => some (encR 0x01 d a b 1)
  | .mul d a b => some (encR 0x01 d a b 2)
  | .mulh d a b => some (encR 0x01 d a b 3)
  | .mulhn d a b => some (encR 0x01 d a b 4)
  | .div d a b => some (encR 0x01 d a b 5)
  | .divn d a b => some (encR 0x01 d a b 6)
  | .rem d a b => some (encR 0x01 d a b 7)
  | .remn d a b => some (encR 0x01 d a b 8)
  | .and d a b => some (encR 0x01 d a b 9)
  | .or d a b => some (encR 0x01 d a b 10)
  | .xor d a b => some (encR 0x01 d a b 11)
  | .shl d a b => some (encR 0x01 d a b 12)
  | .shr d a b => some (encR 0x01 d a b 13)
  | .sra d a b => some (encR 0x01 d a b 14)
  | .min d a b => some (encR 0x01 d a b 15)
  | .max d a b => some (encR 0x01 d a b 16)
  | .minn d a b => some (encR 0x01 d a b 17)
  | .maxn d a b => some (encR 0x01 d a b 18)
  | .slt d a b => some (encR 0x01 d a b 19)
  | .sltn d a b => some (encR 0x01 d a b 20)
  | .clz d a => some (encR 0x01 d a 0 21)
  | .popc d a => some (encR 0x01 d a 0 22)
  | .sel d a b => some (encR 0x01 d a b 23)
  | .addi d a i => some (encI 0x10 d a i)
  | .andi d a i => some (encI 0x11 d a i)
  | .slti d a i => some (encI 0x12 d a i)
  | .ori d a i => some (encI 0x13 d a i)
  | .xori d a i => some (encI 0x14 d a i)
  | .lds d a i => some (encI 0x20 d a i)
  | .lds32 d a i => some (encI 0x21 d a i)
  | .sts d a i => some (encI 0x22 d a i)
  | .sts32 d a i => some (encI 0x23 d a i)
  | .beq d a i => some (encI 0x29 d a i)
  | .bne d a i => some (encI 0x2a d a i)
  | .blt d a i => some (encI 0x2b d a i)
  | .bge d a i => some (encI 0x2c d a i)
  | .bltn d a i => some (encI 0x2d d a i)
  | .bgen d a i => some (encI 0x2e d a i)
  | .shli d a n => some (encI 0x15 d a (0#7 ++ n))
  | .shri d a n => some (encI 0x16 d a (0#7 ++ n))
  | .srai d a n => some (encI 0x17 d a (0#7 ++ n))
  | .amosAdd d a b sc => some (encR 0x24 d a b (0#4 ++ sc.code))
  | .amosMin d a b sc => some (encR 0x24 d a b (1#4 ++ sc.code))
  | .amosMax d a b sc => some (encR 0x24 d a b (2#4 ++ sc.code))
  | .amosMinn d a b sc => some (encR 0x24 d a b (3#4 ++ sc.code))
  | .amosMaxn d a b sc => some (encR 0x24 d a b (4#4 ++ sc.code))
  | .amosAnd d a b sc => some (encR 0x24 d a b (5#4 ++ sc.code))
  | .amosOr d a b sc => some (encR 0x24 d a b (6#4 ++ sc.code))
  | .amosXor d a b sc => some (encR 0x24 d a b (7#4 ++ sc.code))
  | .amosSwap d a b sc => some (encR 0x24 d a b (8#4 ++ sc.code))
  | .amosCas d a b sc => some (encR 0x24 d a b (9#4 ++ sc.code))
  | .sethi d i => some (encU 0x18 d i)
  | .b i => some (encU 0x28 0 i)
  | .call d i => some (encU 0x2f d i)
  | .jr d a => some (encR 0x30 d a 0 0)
  | .ret a => some (encR 0x30 0 a 0 1)
  | .run d i => some (encU 0x38 d i)
  | .syncq => some (encR 0x39 0 0 0 0)
  | .takev d => some (encR 0x3a d 0 0 0)
  | .cpyLd d a b => some (encR 0x40 d a b 0)
  | .cpySt d a b => some (encR 0x40 d a b 1)
  | .closeb d => some (encR 0x41 d 0 0 0)
  | .waitb a => some (encR 0x42 0 a 0 0)
  | .rcfence a => some (encR 0x43 0 a 0 0)
  | .rcfenceAll => some (encR 0x43 0 0 0 1)
  | .gath d a b => some (encR 0x44 d a b 0)
  | .scat d a b => some (encR 0x45 d a b 0)
  | .scatAddI32 d a b => some (encR 0x45 d a b 1)
  | .scatAddF32 d a b => some (encR 0x45 d a b 2)
  | .walkCoo d a b => some (encR 0x46 d a b 0)
  | .walkCsr d a b => some (encR 0x46 d a b 1)
  | .mmq d a b ty ck sz hf => some (encR 0x47 d a b (mmqFunc ty false ck sz hf))
  | .mmqQuad d a b ty ck sz hf => some (encR 0x47 d a b (mmqFunc ty true ck sz hf))
  | .orf => some (encR 0x48 0 0 0 0)
  | .mwait d a => some (encR 0x49 d a 0 0)
  | .accst d a b c m => some (encR 0x4a d a b (c.code ++ m.code ++ 0#2))
  | .had d a b ty => some (encR 0x4b d a b ty.code)
  | .collAllreduce d a b op swa => some (encR 0x4c d a b (collFunc 0 op swa))
  | .collReduceScatter d a b op swa => some (encR 0x4c d a b (collFunc 1 op swa))
  | .collAllgather d a b => some (encR 0x4c d a b (collFunc 2 .add false))
  | .collBroadcast d a b => some (encR 0x4c d a b (collFunc 3 .add false))
  | .waitc d a => some (encR 0x4d d a 0 0)
  | .erase d a => some (encR 0x50 d a 0 0)
  | .xprobe d a => some (encR 0x51 d a 0 0)
  | .give d a b => some (encR 0x52 d a b 0)
  | .take d a => some (encR 0x53 d a 0 0)
  | .deedq d a => some (encR 0x54 d a 0 0)
  | .fenceAcq sc => some (encI 0x58 0 0 (fenceImm 0 sc))
  | .fenceRel sc => some (encI 0x58 0 0 (fenceImm 1 sc))
  | .fenceAcqrel sc => some (encI 0x58 0 0 (fenceImm 2 sc))
  | .fenceSc sc => some (encI 0x58 0 0 (fenceImm 3 sc))
  | .bar a b => some (encR 0x59 0 a b 0)
  | .arrive d a b => some (encR 0x5a d a b 0)
  | .waitbar a b => some (encR 0x5b 0 a b 0)
  | .launch d a => some (encR 0x60 d a 0 0)
  | .launchGraph d a => some (encR 0x60 d a 0 1)
  | .itemqPut d a b => some (encR 0x61 d a b 0)
  | .itemqCount d => some (encR 0x61 d 0 0 1)
  | .itemqClose => some (encR 0x61 0 0 0 2)
  | .yield => some (encR 0x62 0 0 0 0)
  | .exit => some (encR 0x63 0 0 0 0)
  | .getc d sel => some (encI 0x68 d 0 sel)
  | .getcFpstat d => some (encI 0x68 d 0 0x21)
  | .getcXpool d => some (encI 0x68 d 0 0x40)
  | .setc a sel => some (encI 0x69 0 a sel)
  | .setcFpctl a => some (encI 0x69 0 a 0x20)
  | .setcFpstat a => some (encI 0x69 0 a 0x21)
  | .setcXlctl a => some (encI 0x69 0 a 0x31)
  | .setcDelta a => some (encI 0x69 0 a 0x32)
  | .setcVacate a => some (encI 0x69 0 a 0x51)
  | .setcCause a => some (encI 0x69 0 a 0x10)
  | .setcHbase a => some (encI 0x69 0 a 0x15)
  | .setcStepm a => some (encI 0x69 0 a 0x16)
  | .setcWaddr a => some (encI 0x69 0 a 0x17)
  | .setcWctl a => some (encI 0x69 0 a 0x18)
  | .setcScout a => some (encI 0x69 0 a 0x34)
  | .setcEpcl a => some (encI 0x69 0 a 0x12)
  | .trap c => some (encI 0x6a 0 0 c)
  | .sret => some (encR 0x6b 0 0 0 0)
  | .brk c => some (encI 0x6c 0 0 c)
  | .injectReg d a b => some (encR 0x6d d a b 0)
  | .injectMem d a b => some (encR 0x6d d a b 1)
  | .injectTrip d a b => some (encR 0x6d d a b 2)
  | .halt => some (encR 0x6e 0 0 0 0)
  | _ => none

/-! ### The lane word (R36, R46) -/

/-- The fields of a lane word above its sources: OPCODE, TYPE, DEST, W, PSEL, PNEG, VAR, LASTA, LASTB, LASTC. -/
structure LaneHi where
  op : BitVec 10
  ty : BitVec 4
  dest : BitVec 8
  w : BitVec 1
  psel : BitVec 3
  pneg : BitVec 1
  var : BitVec 3
  la : BitVec 1
  lb : BitVec 1
  lc : BitVec 1
  deriving DecidableEq, Repr

/-- The source fields of the register form: SELA, SELB, SELC, MODA, MODB, MODC. -/
structure LaneRegs where
  sa : BitVec 9
  sb : BitVec 9
  sc : BitVec 9
  ma : BitVec 12
  mb : BitVec 12
  mc : BitVec 12
  deriving DecidableEq, Repr

/-- The source fields of the immediate form: SELA, SELB, bit 44, the immediate, the modifier of source a (R46). -/
structure LaneImms where
  sa : BitVec 9
  sb : BitVec 9
  z : BitVec 1
  imm : W32
  ma : BitVec 12
  deriving DecidableEq, Repr

/-- Bits [95:63] as fields. -/
def laneHi (w : BitVec 96) : LaneHi :=
  ⟨w.extractLsb' 86 10, w.extractLsb' 82 4, w.extractLsb' 74 8, w.extractLsb' 73 1, w.extractLsb' 70 3,
   w.extractLsb' 69 1, w.extractLsb' 66 3, w.extractLsb' 65 1, w.extractLsb' 64 1, w.extractLsb' 63 1⟩

/-- Bits [62:0] of a register form. -/
def laneRegs (w : BitVec 96) : LaneRegs :=
  ⟨w.extractLsb' 54 9, w.extractLsb' 45 9, w.extractLsb' 36 9, w.extractLsb' 24 12, w.extractLsb' 12 12,
   w.extractLsb' 0 12⟩

/-- Bits [62:0] of an immediate form. -/
def laneImms (w : BitVec 96) : LaneImms :=
  ⟨w.extractLsb' 54 9, w.extractLsb' 45 9, w.extractLsb' 44 1, w.extractLsb' 12 32, w.extractLsb' 0 12⟩

/-- Bits [95:63] of a word. -/
def LaneHi.bits (h : LaneHi) : BitVec 33 :=
  h.op ++ h.ty ++ h.dest ++ h.w ++ h.psel ++ h.pneg ++ h.var ++ h.la ++ h.lb ++ h.lc

/-- Bits [62:0] of a register form. -/
def LaneRegs.bits (r : LaneRegs) : BitVec 63 := r.sa ++ r.sb ++ r.sc ++ r.ma ++ r.mb ++ r.mc

/-- Bits [62:0] of an immediate form. -/
def LaneImms.bits (r : LaneImms) : BitVec 63 := r.sa ++ r.sb ++ r.z ++ r.imm ++ r.ma

/-- A modifier field (R42); CLASS 0 with a nonzero SEG or DIST is no modifier (R43). -/
def decodeMod (m : BitVec 12) : Option (Perm × VMod) :=
  let seg := m.extractLsb' 7 3
  let dist := m.extractLsb' 2 5
  let v := match (m.extractLsb' 0 2).toNat with
    | 0 => VMod.none | 1 => .neg | 2 => .abs | _ => .nabs
  match (m.extractLsb' 10 2).toNat with
  | 0 => if seg == 0 && dist == 0 then some (.none, v) else none
  | 1 => some (.rot seg dist, v)
  | 2 => some (.bfly seg dist, v)
  | _ => some (.bcast seg dist, v)

/-- VMOD codes (R42). -/
def VMod.code : VMod → BitVec 2
  | .none => 0 | .neg => 1 | .abs => 2 | .nabs => 3

/-- The modifier field of a permutation and value modifier. -/
def encodeMod (p : Perm) (v : VMod) : BitVec 12 :=
  match p with
  | .none => 0#2 ++ 0#3 ++ 0#5 ++ v.code
  | .rot g d => 1#2 ++ g ++ d ++ v.code
  | .bfly g d => 2#2 ++ g ++ d ++ v.code
  | .bcast g d => 3#2 ++ g ++ d ++ v.code

/-- An ordinary source field (R38). -/
def decodeSel (x : BitVec 9) : Option Src :=
  let n := x.toNat
  if n < 0x80 then some (.v (x.setWidth 7))
  else if n < 0xC0 then some (.s (x.setWidth 6))
  else if n < 0xF0 then some (.const (x.setWidth 6))
  else if n = 0xF0 then some .em
  else if n = 0xF1 then some .lane
  else if 0x100 ≤ n ∧ n < 0x108 then some (.latch (x.setWidth 3))
  else none

/-- A mask operand field (R144). -/
def decodeMaskSel (x : BitVec 9) : Option Src :=
  let n := x.toNat
  if n < 8 then some (.mask (x.setWidth 3))
  else if 0x80 ≤ n ∧ n < 0xC0 then some (.s (x.setWidth 6))
  else if n = 0xF0 then some .em
  else none

/-- The field of a source (R38, R144); an immediate has no source field. -/
def encodeSel (s : Src) : BitVec 9 :=
  match s with
  | .none => 0
  | .v r => r.setWidth 9
  | .s r => 0x080#9 + r.setWidth 9
  | .const c => 0x0C0#9 + c.setWidth 9
  | .em => 0x0F0
  | .lane => 0x0F1
  | .latch n => 0x100#9 + n.setWidth 9
  | .imm _ => 0
  | .mask k => k.setWidth 9
  | .raw x => x

/-- A source field of a register form under its kind. -/
def decodeOpnd (k : SrcKind) (sel : BitVec 9) (last : BitVec 1) (m : BitVec 12) : Except DecErr Opnd :=
  match decodeMod m with
  | none => .error .badModifier
  | some (p, v) =>
    let mk (s : Option Src) : Except DecErr Opnd :=
      match s with
      | some s => .ok ⟨s, last == 1#1, p, v⟩
      | none => .error .badSource
    match k with
    | .unused => if sel == 0 && last == 0#1 && m == 0 then .ok Opnd.unused else .error .reservedField
    | .mask _ => mk (decodeMaskSel sel)
    | .rawTy => mk (some (.raw sel))
    | .rawSeg => mk (some (.raw sel))
    | .target => .error .reservedField
    | _ => mk (decodeSel sel)

/-- The destination (R39); W = 1 requires DEST 0, and DEST 0 names v0 where the instruction has a vector result. -/
def decodeDest (kind : DestKind) (d : BitVec 8) (w : BitVec 1) : Except DecErr Dest :=
  if w == 1#1 then (if d == 0 then .ok .l0 else .error .badDest)
  else if kind = .none then (if d == 0 then .ok .none else .error .badDest)
  else if d.toNat < 0x80 then .ok (.v (d.setWidth 7))
  else if d.toNat < 0x88 then .ok (.k (d.setWidth 3))
  else if d.toNat = 0xF0 then .ok .em
  else .error .badDest

/-- DEST and W of a destination. -/
def encodeDest (d : Dest) : BitVec 8 × BitVec 1 :=
  match d with
  | .none => (0, 0)
  | .v r => (r.setWidth 8, 0)
  | .k r => (0x80#8 + r.setWidth 8, 0)
  | .em => (0xF0, 0)
  | .l0 => (0, 1)

/-- The predicate (R37). -/
def decodePred (psel : BitVec 3) (pneg : BitVec 1) : Except DecErr Pred :=
  if psel == 7#3 then (if pneg == 0#1 then .ok .always else .error .badPredicate)
  else .ok (.on psel (pneg == 1#1))

/-- PSEL and PNEG of a predicate. -/
def encodePred (p : Pred) : BitVec 3 × BitVec 1 :=
  match p with
  | .always => (7, 0)
  | .on k n => (k, BitVec.ofBool n)

/-- An immediate operand. -/
def immOpnd (x : W32) : Opnd := ⟨.imm x, false, .none, .none⟩

/-- The three sources of a word that carries an immediate or a branch target: the last used source is the immediate
(R46, R148). -/
def decodeImmSources (row : LaneRow) (h : LaneHi) (r : LaneImms) : Except DecErr (Opnd × Opnd × Opnd) :=
  if r.z ≠ 0#1 || h.lc ≠ 0#1 then .error .reservedField
  else if row.c ≠ .unused then
    match decodeOpnd row.a r.sa h.la r.ma with
    | .error e => .error e
    | .ok a => match decodeOpnd row.b r.sb h.lb 0 with
      | .error e => .error e
      | .ok b => .ok (a, b, immOpnd r.imm)
  else if row.b ≠ .unused then
    if r.sb ≠ 0#9 || h.lb ≠ 0#1 then .error .reservedField
    else match decodeOpnd row.a r.sa h.la r.ma with
      | .error e => .error e
      | .ok a => .ok (a, immOpnd r.imm, Opnd.unused)
  else if r.sa ≠ 0#9 || h.la ≠ 0#1 || r.sb ≠ 0#9 || h.lb ≠ 0#1 || r.ma ≠ 0#12 then .error .reservedField
  else .ok (immOpnd r.imm, Opnd.unused, Opnd.unused)

/-- The three sources of a register form. -/
def decodeRegSources (row : LaneRow) (h : LaneHi) (r : LaneRegs) : Except DecErr (Opnd × Opnd × Opnd) :=
  match decodeOpnd row.a r.sa h.la r.ma with
  | .error e => .error e
  | .ok a => match decodeOpnd row.b r.sb h.lb r.mb with
    | .error e => .error e
    | .ok b => match decodeOpnd row.c r.sc h.lc r.mc with
      | .error e => .error e
      | .ok c => .ok (a, b, c)

/-- Whether the word of an opcode carries an immediate or a target in place of its last source. -/
def hasImmLayout (row : LaneRow) (op : Nat) : Bool := decide (512 ≤ op) || row.c == .target

/-- The form that a lane word spells under its row. -/
def decodeForm (row : LaneRow) (w : BitVec 96) : Except DecErr LForm :=
  let h := laneHi w
  match LTy.ofCode h.ty with
  | none => .error .badType
  | some ty =>
    match decodeDest row.dest h.dest h.w with
    | .error e => .error e
    | .ok d =>
      match decodePred h.psel h.pneg with
      | .error e => .error e
      | .ok p =>
        match (if hasImmLayout row h.op.toNat then decodeImmSources row h (laneImms w)
               else decodeRegSources row h (laneRegs w)) with
        | .error e => .error e
        | .ok (a, b, c) => .ok ⟨ty, d, p, h.var, a, b, c⟩

/-- Decoding of a lane word, total on any word (R36 to R47, R58, R64 to R68). -/
def decodeLane (w : BitVec 96) : Except DecErr Instr :=
  let op := (laneHi w).op.toNat
  match laneRow (op % 512) with
  | none => .ok .unassignedInstruction
  | some row =>
    if 512 ≤ op ∧ row.imm = false then .ok .unassignedInstruction
    else match decodeForm row w with
      | .error e => .error e
      | .ok f =>
        if laneFormOk op f then
          match laneBuild op f with
          | some i => .ok i
          | none => .error .illegalForm
        else .error .illegalForm

/-- The immediate of a form: the 32 bits of its last immediate source. -/
def immOf (f : LForm) : W32 :=
  match f.c.src, f.b.src, f.a.src with
  | .imm x, _, _ => x
  | _, .imm x, _ => x
  | _, _, .imm x => x
  | _, _, _ => 0

/-- The word of a lane opcode and form. -/
def encodeForm (op : Nat) (row : LaneRow) (f : LForm) : BitVec 96 :=
  let d := encodeDest f.dest
  let p := encodePred f.pred
  let h : LaneHi := ⟨BitVec.ofNat 10 op, f.ty.code, d.1, d.2, p.1, p.2, f.var, BitVec.ofBool f.a.last,
    BitVec.ofBool f.b.last, BitVec.ofBool f.c.last⟩
  if hasImmLayout row op then
    h.bits ++ (LaneImms.bits ⟨encodeSel f.a.src, encodeSel f.b.src, 0, immOf f, encodeMod f.a.perm f.a.vmod⟩)
  else
    h.bits ++ (LaneRegs.bits ⟨encodeSel f.a.src, encodeSel f.b.src, encodeSel f.c.src,
      encodeMod f.a.perm f.a.vmod, encodeMod f.b.perm f.b.vmod, encodeMod f.c.perm f.c.vmod⟩)

/-- The word of a lane instruction. -/
def encodeLane (i : Instr) : Option (BitVec 96) :=
  match laneParts i with
  | none => none
  | some (op, f) => match laneRow (op % 512) with
    | none => none
    | some row => some (encodeForm op row f)

/-! ### Words in memory order (R5, R23) -/

/-- n bytes of a value, least significant first (R5). -/
def leBytes (n w : Nat) : List Byte :=
  match n with
  | 0 => []
  | n + 1 => BitVec.ofNat 8 w :: leBytes n (w / 256)

/-- The value of bytes in memory order (R5). -/
def ofLe (l : List Byte) : Nat :=
  match l with
  | [] => 0
  | b :: t => b.toNat + 256 * ofLe t

/-- Decoding of the four bytes of a scalar instruction. -/
def decodeScalarBytes (l : List Byte) : Except DecErr Instr := decodeScalar (BitVec.ofNat 32 (ofLe l))

/-- Decoding of the twelve bytes of a lane instruction (R23). -/
def decodeLaneBytes (l : List Byte) : Except DecErr Instr := decodeLane (BitVec.ofNat 96 (ofLe l))

/-- The words of an instruction in memory order, none for the steps that have no encoding. -/
def encode (i : Instr) : Option (List Byte) :=
  match encodeScalar i with
  | some w => some (leBytes 4 w.toNat)
  | none => match encodeLane i with
    | some w => some (leBytes 12 w.toNat)
    | none => none

/-- What the decoder reads from an instruction word given as spec/opcode_table.json numbers its bits. -/
def decodeTableWord (nbits w : Nat) : Option Instr :=
  if nbits = 32 then (decodeScalarBytes (leBytes 4 w)).toOption
  else if nbits = 96 then (decodeLaneBytes (leBytes 12 w)).toOption
  else none

end Sys2Proof
end

