-- ==== Sys2Proof/Machine/Numbers.lean ====
section
/-! DEFINITION. Number formats, exact values and single rounding: spec/04_number_formats.md R71 to R81 and R90,
and the exact mathematical functions of spec/06_registers_and_lane_arithmetic.md R136, R137. -/

namespace Sys2Proof

namespace Machine

/-- A real value as the wide form of R81 holds it: a class, a sign, and a magnitude m times 2 to the e.
A zero keeps its sign. -/
inductive FVal where
  /-- NaN or NaR; the flag says whether it is a signalling NaN (R74). -/
  | nan (signalling : Bool)
  /-- An infinity. -/
  | inf (neg : Bool)
  /-- The value (−1)^neg × m × 2^e. -/
  | fin (neg : Bool) (m : Nat) (e : Int)
  deriving DecidableEq, Repr

/-- The sticky flags as FPSTAT orders them (R141): bit 3 invalid, 2 overflow, 1 underflow, 0 inexact. -/
abbrev FFlags := BitVec 4

/-- Invalid. -/
def flagNV : FFlags := 8#4
/-- Overflow. -/
def flagOF : FFlags := 4#4
/-- Underflow. -/
def flagUF : FFlags := 2#4
/-- Inexact. -/
def flagNX : FFlags := 1#4

/-- The sizes of an IEEE format (R73): exponent bits and fraction bits. -/
structure FFmt where
  /-- Exponent field width. -/
  eb : Nat
  /-- Fraction field width. -/
  fb : Nat
  deriving DecidableEq, Repr

/-- binary32 (R73). -/
def fmtF32 : FFmt := ⟨8, 23⟩
/-- binary16 (R73). -/
def fmtH16 : FFmt := ⟨5, 10⟩
/-- bfloat16 (R73). -/
def fmtB16 : FFmt := ⟨8, 7⟩

/-- Total width of a format. -/
def FFmt.width (f : FFmt) : Nat := 1 + f.eb + f.fb
/-- The exponent bias (R73). -/
def FFmt.bias (f : FFmt) : Int := (2 ^ (f.eb - 1) : Nat) - 1
/-- The exponent of the last significand bit of a subnormal. -/
def FFmt.qmin (f : FFmt) : Int := 1 - f.bias - f.fb
/-- The magnitude pattern of infinity. -/
def FFmt.infBits (f : FFmt) : Nat := (2 ^ f.eb - 1) * 2 ^ f.fb
/-- The canonical NaN (R73). -/
def FFmt.nanBits (f : FFmt) : Nat := f.infBits + 2 ^ (f.fb - 1)
/-- The sign bit's value. -/
def FFmt.signBit (f : FFmt) : Nat := 2 ^ (f.eb + f.fb)

/-- Whether the low bits of a pattern are a NaN of the format. -/
def FFmt.isNaN (f : FFmt) (x : Nat) : Bool := decide (f.infBits < x % f.signBit)

/-- Exact decoding of an IEEE pattern (R73, R74, R81). -/
def decodeIeee (f : FFmt) (x : Nat) : FVal :=
  let neg := (x / f.signBit) % 2 == 1
  let ex := (x / 2 ^ f.fb) % 2 ^ f.eb
  let fr := x % 2 ^ f.fb
  if ex = 2 ^ f.eb - 1 then
    if fr = 0 then .inf neg else .nan (decide (fr < 2 ^ (f.fb - 1)))
  else if ex = 0 then .fin neg fr f.qmin
  else .fin neg (2 ^ f.fb + fr) (f.qmin + ex - 1)

/-- The number of leading bits of the q-bit code m, from bit position i down, that equal b (R77). -/
def leadRun (m : Nat) (b : Bool) : Nat → Nat
  | 0 => 0
  | i + 1 => if Nat.testBit m i == b then 1 + leadRun m b i else 0

/-- The magnitude of a nonzero tapered magnitude code m of q bits, as significand and exponent (R77). -/
def taperMag (q m : Nat) : Nat × Int :=
  let b := Nat.testBit m (q - 1)
  let run := leadRun m b q
  let k : Int := if b then (run : Int) - 1 else - (run : Int)
  let used := min (run + 1) q
  let rem := q - used
  let e : Int := if rem ≥ 1 then (if Nat.testBit m (rem - 1) then 1 else 0) else 0
  let fb := rem - 1
  (2 ^ fb + m % 2 ^ fb, 2 * k + e - fb)

/-- Decoding of a tapered code of n bits (R77); NaR decodes to NaN (R81). -/
def decodeTaper (n x : Nat) : FVal :=
  let s := Nat.testBit x (n - 1)
  let m := x % 2 ^ (n - 1)
  if m = 0 then (if s then .nan false else .fin false 0 0)
  else let v := taperMag (n - 1) m; .fin s v.1 v.2

/-- The value of an integer. -/
def ofInt (i : Int) : FVal := .fin (decide (i < 0)) i.natAbs 0

/-- Order of two magnitudes m × 2^e. -/
def magLt (a b : Nat × Int) : Bool :=
  let q := min a.2 b.2
  decide (a.1 * 2 ^ (a.2 - q).toNat < b.1 * 2 ^ (b.2 - q).toNat)

/-- Whether two magnitudes are the same number. -/
def magEq (a b : Nat × Int) : Bool :=
  let q := min a.2 b.2
  decide (a.1 * 2 ^ (a.2 - q).toNat = b.1 * 2 ^ (b.2 - q).toNat)

/-- Sum of two magnitudes. -/
def magAdd (a b : Nat × Int) : Nat × Int :=
  let q := min a.2 b.2
  (a.1 * 2 ^ (a.2 - q).toNat + b.1 * 2 ^ (b.2 - q).toNat, q)

/-- Whether a magnitude with truncated part n, remainder r of d, goes up to n + 1 under a mode (R75). -/
def roundsUp (m : Rnd) (neg : Bool) (n r d : Nat) : Bool :=
  match m with
  | .rne => decide (d < 2 * r) || (decide (2 * r = d) && n % 2 == 1)
  | .rtz => false
  | .rdn => neg && decide (r ≠ 0)
  | .rup => !neg && decide (r ≠ 0)

/-- A magnitude m × 2^e rounded to a multiple of 2^q: the multiple, and whether it is inexact. -/
def roundAt (md : Rnd) (neg : Bool) (m : Nat) (e q : Int) : Nat × Bool :=
  if q ≤ e then (m * 2 ^ (e - q).toNat, false)
  else
    let d := 2 ^ (q - e).toNat
    let n := m / d
    let r := m % d
    ((if roundsUp md neg n r d then n + 1 else n), decide (r ≠ 0))

/-- A finite nonzero value m × 2^e rounded into an IEEE format: pattern and flags (R75, R76). -/
def roundIeee (f : FFmt) (md : Rnd) (neg : Bool) (m : Nat) (e : Int) : Nat × FFlags :=
  let top : Int := m.log2 + e
  let s := if neg then f.signBit else 0
  let q := max f.qmin (top - f.fb)
  let (n, nx) := roundAt md neg m e q
  let pat := (q - f.qmin).toNat * 2 ^ f.fb + n
  if f.infBits ≤ pat then
    let toInf := match md with
      | .rne => true | .rtz => false | .rdn => neg | .rup => !neg
    (s + (if toInf then f.infBits else f.infBits - 1), flagOF ||| flagNX)
  else if nx then
    let qu := top - f.fb
    let (nu, _) := roundAt md neg m e qu
    let tiny := magLt (nu, qu) (1, 1 - f.bias)
    (s + pat, if tiny then flagUF ||| flagNX else flagNX)
  else (s + pat, 0#4)

/-- Rounding a value into an IEEE format, NaNs canonical (R74, R75, R76). -/
def toIeee (f : FFmt) (md : Rnd) : FVal → Nat × FFlags
  | .nan sg => (f.nanBits, if sg then flagNV else 0#4)
  | .inf neg => ((if neg then f.signBit else 0) + f.infBits, 0#4)
  | .fin neg m e =>
    if m = 0 then ((if neg then f.signBit else 0), 0#4) else roundIeee f md neg m e

/-- The largest magnitude code c of the q-bit tapered format whose value is at most x, choosing bits from
position i down; code 0 stands for zero. -/
def taperFloor (q : Nat) (x : Nat × Int) : Nat → Nat → Nat
  | 0, c => c
  | i + 1, c =>
    let c' := c + 2 ^ i
    taperFloor q x i (if magLt x (taperMag q c') then c else c')

/-- The magnitude of a code, zero for code 0 (R78). -/
def taperVal (q c : Nat) : Nat × Int := if c = 0 then (0, 0) else taperMag q c

/-- Conversion of a value into the tapered format of n bits (R79). -/
def toTaper (n : Nat) (md : Rnd) : FVal → Nat × FFlags
  | .nan _ => (2 ^ (n - 1), flagNV)
  | .inf neg => ((if neg then 2 ^ (n - 1) else 0) + (2 ^ (n - 1) - 1), flagOF ||| flagNX)
  | .fin neg m e =>
    let q := n - 1
    let top := 2 ^ q - 1
    let s := if neg then 2 ^ q else 0
    if m = 0 then (0, 0#4)
    else if magLt (taperVal q top) (m, e) then (s + top, flagOF ||| flagNX)
    else
      let lo := taperFloor q (m, e) q 0
      if magEq (taperVal q lo) (m, e) then (s + lo, 0#4)
      else
        let sum := magAdd (taperVal q lo) (taperVal q (lo + 1))
        let up := match md with
          | .rne => magLt sum (m, e + 1) || (magEq sum (m, e + 1) && lo % 2 == 1)
          | .rtz => false
          | .rdn => neg
          | .rup => !neg
        let c := if up then lo + 1 else lo
        if c = 0 then (0, flagUF ||| flagNX) else (s + c, flagNX)

/-- A value rounded to an integer under a mode: the integer, and whether rounding changed it (R90). -/
def toIntRound (md : Rnd) (neg : Bool) (m : Nat) (e : Int) : Int × Bool :=
  let (n, nx) := roundAt md neg m e 0
  ((if neg then - (n : Int) else n), nx)

/-- Conversion to an integer range with saturation (R90); fromInt says that the source type is an integer type,
which sets no flag. -/
def toIntSat (md : Rnd) (lo hi : Int) (fromInt : Bool) : FVal → Int × FFlags
  | .nan _ => (0, flagNV)
  | .inf neg => ((if neg then lo else hi), flagNV)
  | .fin neg m e =>
    let (y, nx) := toIntRound md neg m e
    let r := if y < lo then lo else if hi < y then hi else y
    (r, if fromInt then 0#4 else if r ≠ y then flagNV else if nx then flagNX else 0#4)

/-! ### Exact arithmetic on values (R136, R137) -/

/-- Whether a value is a NaN. -/
def FVal.isNaN : FVal → Bool
  | .nan _ => true
  | _ => false

/-- Whether a value is a signalling NaN. -/
def FVal.isSNaN : FVal → Bool
  | .nan s => s
  | _ => false

/-- The sign of a value. -/
def FVal.neg? : FVal → Bool
  | .nan _ => false
  | .inf n => n
  | .fin n _ _ => n

/-- The value with its sign flipped; a NaN stays a NaN. -/
def FVal.negate : FVal → FVal
  | .nan s => .nan s
  | .inf n => .inf (!n)
  | .fin n m e => .fin (!n) m e

/-- An exact result: a value, and the flags it raises before rounding (invalid). -/
structure Exact where
  /-- The value, which is rounded once. -/
  val : FVal
  /-- Flags raised by the operation itself. -/
  fl : FFlags
  deriving DecidableEq, Repr

/-- The invalid operation: canonical NaN and the invalid flag (R137). -/
def Exact.invalid : Exact := ⟨.nan false, flagNV⟩
/-- A value with no flag. -/
def Exact.of (v : FVal) : Exact := ⟨v, 0#4⟩
/-- A NaN result; sg says whether a signalling operand raised invalid (R74). -/
def Exact.nan (sg : Bool) : Exact := ⟨.nan false, if sg then flagNV else 0#4⟩

/-- The value of a signed magnitude. -/
def signedMag (i : Int) (e : Int) (zeroNeg : Bool) : FVal :=
  if i = 0 then .fin zeroNeg 0 e else .fin (decide (i < 0)) i.natAbs e

/-- A signed significand. -/
def sgn (neg : Bool) (m : Nat) : Int := if neg then - (m : Int) else m

/-- Exact sum; the sign of an exact zero sum follows R75. -/
def exactAdd (md : Rnd) (a b : FVal) : Exact :=
  match a, b with
  | .nan s, .nan t => Exact.nan (s || t)
  | .nan s, _ => Exact.nan s
  | _, .nan t => Exact.nan t
  | .inf x, .inf y => if x = y then Exact.of (.inf x) else Exact.invalid
  | .inf x, _ => Exact.of (.inf x)
  | _, .inf y => Exact.of (.inf y)
  | .fin x m e, .fin y n g =>
    let q := min e g
    let i := sgn x (m * 2 ^ (e - q).toNat) + sgn y (n * 2 ^ (g - q).toNat)
    Exact.of (signedMag i q (if x = y then x else md = .rdn))

/-- Exact product. -/
def exactMul (a b : FVal) : Exact :=
  match a, b with
  | .nan s, .nan t => Exact.nan (s || t)
  | .nan s, _ => Exact.nan s
  | _, .nan t => Exact.nan t
  | .inf x, .inf y => Exact.of (.inf (x != y))
  | .inf x, .fin y n _ => if n = 0 then Exact.invalid else Exact.of (.inf (x != y))
  | .fin x m _, .inf y => if m = 0 then Exact.invalid else Exact.of (.inf (x != y))
  | .fin x m e, .fin y n g => Exact.of (.fin (x != y) (m * n) (e + g))

/-- Whether a product is ∞ × 0. -/
def infTimesZero (a b : FVal) : Bool :=
  match a, b with
  | .inf _, .fin _ n _ => n == 0
  | .fin _ m _, .inf _ => m == 0
  | _, _ => false

/-- Exact a × b + c (R136, R137): ∞ × 0 is invalid even when c is a quiet NaN. -/
def exactFma (md : Rnd) (a b c : FVal) : Exact :=
  if infTimesZero a b then Exact.invalid
  else if a.isNaN || b.isNaN || c.isNaN then Exact.nan (a.isSNaN || b.isSNaN || c.isSNaN)
  else exactAdd md (exactMul a b).val c

/-- Bits of precision kept by the quotients and roots below; any bit lost is marked in the last place. -/
def workBits : Nat := 80

/-- The magnitude q with a mark in an extra last place when something was lost. -/
def sticky (q : Nat) (lost : Bool) (e : Int) : Nat × Int := (2 * q + (if lost then 1 else 0), e - 1)

/-- The integer square root of n below 2^(2·i), by choosing bits from the top. -/
def isqrt (n : Nat) : Nat → Nat → Nat
  | 0, r => r
  | i + 1, r =>
    let r' := r + 2 ^ i
    isqrt n i (if r' * r' ≤ n then r' else r)

/-- 1 / a (R136, R137). -/
def exactRcp : FVal → Exact
  | .nan s => Exact.nan s
  | .inf n => Exact.of (.fin n 0 0)
  | .fin neg m e =>
    if m = 0 then Exact.of (.inf neg)
    else
      let k := m.log2 + workBits
      let q := sticky (2 ^ k / m) (decide (2 ^ k % m ≠ 0)) (- (k : Int) - e)
      Exact.of (.fin neg q.1 q.2)

/-- √a (R136, R137). -/
def exactSqrt : FVal → Exact
  | .nan s => Exact.nan s
  | .inf n => if n then Exact.invalid else Exact.of (.inf false)
  | .fin neg m e =>
    if m = 0 then Exact.of (.fin neg 0 0)
    else if neg then Exact.invalid
    else
      let n := if e % 2 = 0 then m * 2 ^ (2 * workBits) else 2 * m * 2 ^ (2 * workBits)
      let g : Int := (if e % 2 = 0 then e else e - 1) / 2 - workBits
      let r := isqrt n (n.log2 / 2 + 1) 0
      let q := sticky r (decide (r * r ≠ n)) g
      Exact.of (.fin false q.1 q.2)

/-- 1 / √a (R136, R137). -/
def exactRsq : FVal → Exact
  | .nan s => Exact.nan s
  | .inf n => if n then Exact.invalid else Exact.of (.fin false 0 0)
  | .fin neg m e =>
    if m = 0 then Exact.of (.inf neg)
    else if neg then Exact.invalid
    else
      let n := if e % 2 = 0 then m else 2 * m
      let g : Int := (if e % 2 = 0 then e else e - 1) / 2
      let k := n.log2 + workBits
      let r := isqrt (2 ^ (2 * k) / n) (k + 1) 0
      let q := sticky r (decide (r * r * n ≠ 2 ^ (2 * k))) (- (k : Int) - g)
      Exact.of (.fin false q.1 q.2)

/-- Fraction bits of the fixed-point working values of the transcendental functions. DEDUCED: the exact result of
R136 is irrational wherever these series are used, and 320 bits place it on its side of every rounding boundary. -/
def fixBits : Nat := 320
/-- π at fixBits fraction bits. -/
def fixPi : Nat := 0x3243f6a8885a308d313198a2e03707344a4093822299f31d0082efa98ec4e6c89452821e638d01377
/-- ln 2 at fixBits fraction bits. -/
def fixLn2 : Nat := 0xb17217f7d1cf79abc9e3b39803f2f6af40f343267298b62d8a0d175b8baafa2be7b876206debac98
/-- One at fixBits fraction bits. -/
def fixOne : Nat := 2 ^ fixBits

/-- Product of two fixed-point values, truncated. -/
def fixMul (a b : Nat) : Nat := a * b / 2 ^ fixBits

/-- m × 2^e as a fixed-point value, truncated. -/
def fixOf (m : Nat) (e : Int) : Nat :=
  let s := e + fixBits
  if 0 ≤ s then m * 2 ^ s.toNat else m / 2 ^ (-s).toNat

/-- Sum of x^k / k! from a term t with index k on, for the given number of terms. -/
def expSeries (x : Nat) : Nat → Nat → Nat → Nat → Nat
  | 0, _, _, acc => acc
  | n + 1, k, t, acc => expSeries x n (k + 1) (fixMul t x / k) (acc + t)

/-- e^x for a fixed-point x in [0, 1). -/
def fixExp (x : Nat) : Nat := expSeries x 90 1 fixOne 0

/-- The alternating series of sine and cosine: terms t, t·x²/((k+1)(k+2)), … summed with alternating sign. -/
def trigSeries (x2 : Nat) : Nat → Nat → Nat → Nat → Nat → Nat × Nat
  | 0, _, _, p, q => (p, q)
  | n + 1, k, t, p, q => trigSeries x2 n (k + 2) (fixMul t x2 / ((k + 1) * (k + 2))) q (p + t)

/-- sin x for a fixed-point x in [0, π/2]. -/
def fixSin (x : Nat) : Nat :=
  let s := trigSeries (fixMul x x) 60 1 x 0 0
  s.1 - s.2

/-- cos x for a fixed-point x in [0, π/2]. -/
def fixCos (x : Nat) : Nat :=
  let s := trigSeries (fixMul x x) 60 0 fixOne 0 0
  s.1 - s.2

/-- Σ z^(2j+1)/(2j+1), half of ln((1+z)/(1−z)), for a fixed-point z in [0, 1/3]. -/
def atanhSeries (z2 : Nat) : Nat → Nat → Nat → Nat → Nat
  | 0, _, _, acc => acc
  | n + 1, k, t, acc => atanhSeries z2 n (k + 2) (fixMul t z2) (acc + t / k)

/-- ln(y) for a fixed-point y in [1, 2). -/
def fixLn (y : Nat) : Nat :=
  let z := (y - fixOne) * 2 ^ fixBits / (y + fixOne)
  2 * atanhSeries (fixMul z z) 110 1 z 0

/-- An irrational fixed-point result: never equal to a representable value, so its last place carries a mark. -/
def irrational (neg : Bool) (v : Nat) : Exact :=
  let q := sticky v true (- (fixBits : Int))
  Exact.of (.fin neg q.1 q.2)

/-- 2^a (R136, R137). Beyond the range of every format the value stands for any value as large or as small. DESIGN CHOICE (log 125): an integer
whose power of two lies outside the format sets the flags of R76. -/
def exactExp2 : FVal → Exact
  | .nan s => Exact.nan s
  | .inf n => if n then Exact.of (.fin false 0 0) else Exact.of (.inf false)
  | .fin neg m e =>
    if m = 0 then Exact.of (.fin false 1 0)
    else if magLt (1024, 0) (m, e) then Exact.of (.fin false 1 (if neg then -1024 else 1024))
    else
      let i : Int := sgn neg (fixOf m e)
      let n := i / fixOne
      let r := (i % fixOne).toNat
      if r = 0 then Exact.of (.fin false 1 n)
      else
        let q := sticky (fixExp (fixMul r fixLn2)) true (n - fixBits)
        Exact.of (.fin false q.1 q.2)

/-- log2 a (R136, R137). -/
def exactLog2 : FVal → Exact
  | .nan s => Exact.nan s
  | .inf n => if n then Exact.invalid else Exact.of (.inf false)
  | .fin neg m e =>
    if m = 0 then Exact.of (.inf true)
    else if neg then Exact.invalid
    else
      let t := m.log2
      let n : Int := e + t
      if m = 2 ^ t then Exact.of (signedMag n 0 false)
      else
        let y := m * 2 ^ fixBits / 2 ^ t
        let l := fixLn y * 2 ^ fixBits / fixLn2
        let i : Int := n * fixOne + l
        irrational (decide (i < 0)) i.natAbs

/-- The position of a in its period of 2 half-turns, in units of 2^−fixBits half-turns; exact for every binary32. -/
def halfTurns (m : Nat) (e : Int) : Nat := fixOf m e % (2 * fixOne)

/-- sin(π·t) for t half-turns in [0, 1/2], with the mark of an irrational result. -/
def quarterSin (neg : Bool) (t : Nat) : Exact :=
  if t = 0 then Exact.of (.fin neg 0 0)
  else if 2 * t = fixOne then Exact.of (.fin neg 1 0)
  else if 4 * t ≤ fixOne then irrational neg (fixSin (fixMul fixPi t))
  else irrational neg (min (fixCos (fixMul fixPi (fixOne / 2 - t))) (fixOne - 1))

/-- sin(π·a) (R136, R137): a zero result for an integer a has the sign of a. -/
def exactSin : FVal → Exact
  | .nan s => Exact.nan s
  | .inf _ => Exact.invalid
  | .fin neg m e =>
    let t := halfTurns m e
    let flip := decide (fixOne ≤ t)
    let u := t % fixOne
    let v := if fixOne < 2 * u then fixOne - u else u
    if v = 0 then Exact.of (.fin neg 0 0) else quarterSin (neg != flip) v

/-- cos(π·a) (R136, R137): a zero result is +0. -/
def exactCos : FVal → Exact
  | .nan s => Exact.nan s
  | .inf _ => Exact.invalid
  | .fin _ m e =>
    let t := halfTurns m e
    let u := if fixOne < t then 2 * fixOne - t else t
    if 2 * u = fixOne then Exact.of (.fin false 0 0)
    else if 2 * u < fixOne then
      (if u = 0 then Exact.of (.fin false 1 0) else quarterSin false (fixOne / 2 - u))
    else (if u = fixOne then Exact.of (.fin true 1 0) else quarterSin true (u - fixOne / 2))

/-- Rounding to an integral value, keeping the sign (R137, FRND). -/
def exactRnd (md : Rnd) : FVal → Exact
  | .nan s => Exact.nan s
  | .inf n => Exact.of (.inf n)
  | .fin neg m e => Exact.of (.fin neg (roundAt md neg m e 0).1 0)

/-- One rounding of an exact result into a format, with the flags of both (R75, R76). -/
def Exact.round (f : FFmt) (md : Rnd) (x : Exact) : Nat × FFlags :=
  let r := toIeee f md x.val
  (r.1, r.2 ||| x.fl)

/-- Numeric order of two values that are no NaNs, −0 equal to +0. -/
def fvalLt (a b : FVal) : Bool :=
  match a, b with
  | .inf x, .inf y => x && !y
  | .inf x, .fin _ _ _ => x
  | .fin _ _ _, .inf y => !y
  | .fin x m e, .fin y n g =>
    let q := min e g
    decide (sgn x (m * 2 ^ (e - q).toNat) < sgn y (n * 2 ^ (g - q).toNat))
  | _, _ => false

/-- Numeric equality, −0 equal to +0; false with a NaN. -/
def fvalEq (a b : FVal) : Bool :=
  !a.isNaN && !b.isNaN && !fvalLt a b && !fvalLt b a

end Machine
end Sys2Proof
end

