-- ==== Sys2Proof/Config.lean ====
section
/-! DEFINITION. What the spec leaves open and what one part fixes: constants without a body, so that no proof can see their
values (spec/00_scope.md R3). -/

namespace Sys2Proof

/-- The n-th undefined value of R3: any bit pattern. State.freeCtr counts the values taken. -/
opaque Config.freeValue : Nat → BitVec 64

/-- The clock periods that the n-th step of the model takes (R7, R403): the spec fixes no such number. -/
opaque Config.elapsed : Nat → Nat

/-- Whether the n-th look-up of the record cache that could hit does hit (R189: an entry may be dropped at any time). -/
opaque Config.recHit : Nat → Bool

/-- The order in which an FP32 settlement merges partials, as a choice for the n-th merge (R89, R258). -/
opaque Config.mergeChoice : Nat → Nat

/-- The hash by which a configuration record spreads blocks over its enabled slices (R245): not published. The block is named by its
identifier and VA[55:7]. -/
opaque Config.sliceHash : List Byte → Nat → Nat

/-- The set of a block within its slice, modulo 512 (R245): the spec does not say which bits choose it. -/
opaque Config.sliceSet : Nat → Nat

/-- The digest of a byte string under the keystone's signature scheme (R397, R398): the spec does not give the function. -/
opaque Config.signatureOk : List Byte → Bool

/-- Whether the signatures of the firmware images in the boot flash hold (R398, R399): the images are no part of the state. -/
opaque Config.imageOk : Bool

/-- The 64 KiB frames of a stack that firmware holds free when a boot ends (R289): the spec does not say which they are. -/
opaque Config.freeFrames : Nat → List Nat

/-- The seconds that a block has spent in a bin of its temperature (false) or voltage (true) histogram since the last snapshot, at
the n-th step (R404): measured by the part, not a function of its state. -/
opaque Config.histogram : Nat → Bool → Nat → Nat → Nat

/-- Byte i, from byte 8 on, of the lifetime snapshot of a SEQ and its counts (R404): the counts in a layout that the spec does not give, and the
digest of both. -/
opaque Config.snapshotByte : BitVec 64 → List Nat → Nat → BitVec 8

end Sys2Proof
end

