-- ==== Sys2Proof/Machine/State.lean ====
section
/-! DEFINITION. The state of the HZ-5120, all of it plain data, and the state after reset. Each field's docstring names the rule
that gives it; INVENTORY.md lists them with their reset values. -/

namespace Sys2Proof.Machine

/-- The causes of R335 by number. -/
abbrev Cause := Nat

/-- ILL (R335). -/
def cILL : Cause := 0
/-- PRIV. -/
def cPRIV : Cause := 1
/-- ALIGN. -/
def cALIGN : Cause := 2
/-- XLAT. -/
def cXLAT : Cause := 3
/-- PROT. -/
def cPROT : Cause := 4
/-- UE. -/
def cUE : Cause := 5
/-- DEED. -/
def cDEED : Cause := 6
/-- XALLOC. -/
def cXALLOC : Cause := 7
/-- FMT. -/
def cFMT : Cause := 8
/-- FPX. -/
def cFPX : Cause := 9
/-- DIVZ. -/
def cDIVZ : Cause := 10
/-- TRAP. -/
def cTRAP : Cause := 11
/-- BRK. -/
def cBRK : Cause := 12
/-- STEP. -/
def cSTEP : Cause := 13
/-- WATCH. -/
def cWATCH : Cause := 14
/-- FRAME. -/
def cFRAME : Cause := 15
/-- STACK. -/
def cSTACK : Cause := 16
/-- RECORD. -/
def cRECORD : Cause := 17
/-- QUEUE. -/
def cQUEUE : Cause := 18
/-- BATCH. -/
def cBATCH : Cause := 19
/-- INJ. -/
def cINJ : Cause := 20

/-- The faults of the model: a step that cannot be made. -/
inductive Fault where
  /-- An instruction is executed on a group that does not exist, or the group named by the schedule cannot issue: raised by
  exec and step. Safe: the part issues nothing for such a group. -/
  | noGroup
  /-- A step of the part that is not enabled in this state was scheduled: raised by the meanings of the events. Safe: the part
  does not make the step. -/
  | notEnabled
  deriving DecidableEq, Repr

/-- The refusals of the model. -/
inductive Refusal where
  /-- An instruction without a meaning in this model, by its mnemonic: raised by exec. Safe. -/
  | notModelled (mnemonic : String)
  deriving DecidableEq, Repr

/-- The same value in every lane. -/
def splat {α : Type} (x : α) : Lanes α := Vector.replicate 32 x

/-! ### Memory as cells -/

/-- Bytes by address in one canonical form: addresses rising, no byte equal to 0, which is what an unlisted address reads
as (R400: the boot writes every word 0). -/
abbrev Memory := List Host.Cell

/-- Addresses strictly rise from a lower bound on, and no listed byte is 0. -/
def Memory.wfFrom (lo : Nat) (m : Memory) : Bool :=
  match m with
  | [] => true
  | c :: t => decide (lo ≤ c.1) && decide (c.2 ≠ 0#8) && Memory.wfFrom (c.1 + 1) t

/-- The canonical form. -/
def Memory.wf (m : Memory) : Bool := Memory.wfFrom 0 m

/-! ### Vector registers and latches -/

/-- Where the value of a vector register lies (R119). -/
inductive RowState where
  | unmapped | mapped | spilled
  deriving DecidableEq, Repr

/-- One entry of the rename map with the value it names (R119). -/
structure VReg where
  st : RowState
  val : Lanes W32
  /-- Lanes that hold an undefined value (R3, R204, R207). -/
  undef : Mask
  /-- Last written by a lane instruction that no ORF orders yet (R204). -/
  loose : Bool
  /-- When the row was last read or written, for the coldest-row rule (R120). -/
  stamp : Nat
  deriving DecidableEq, Repr

/-- One lane of a bypass latch (R41, R47): each half may be undefined. -/
structure LatchLane where
  lo : Option W32
  hi : Option W32
  deriving DecidableEq, Repr

/-- A run: a lane code address with its snapshot (R27). -/
structure Run where
  addr : W64
  base : SReg
  snap : Vector W64 4
  deriving DecidableEq, Repr

/-- An open latch chain (R48): its head and the position of the next follower. -/
structure Chain where
  head : W64
  pos : Nat
  deriving DecidableEq, Repr

/-- The kinds of a reconvergence stack entry (R150). -/
inductive StackKind where
  | branch | item | compaction
  deriving DecidableEq, Repr

/-- An entry of the team reconvergence stack (R150). -/
structure StackEntry where
  kind : StackKind
  ppc : BitVec 19
  hpc : BitVec 19
  mslot : Bool
  pend : Mask
  orig : Mask
  deriving DecidableEq, Repr

/-- Why the lane stream of a group is held (R30, R122, R156, R159, R162). -/
inductive LaneStall where
  | none
  /-- An append to a full vote port. -/
  | port
  /-- A write or refetch for which its quadrant has no row to give (R122). -/
  | rows
  /-- An ITEM on an open, empty queue. -/
  | item
  /-- A BRC waiting for its meeting's admission to close. -/
  | admission (meet : Nat)
  /-- Parked at a compaction-closing JOIN, or left with no threads. -/
  | parked (meet : Nat)
  deriving DecidableEq, Repr

/-- The scalar part of a group (R23, R117, R141, R194, R331). -/
structure ScalarSt where
  spc : W64
  sregs : Vector W64 64
  /-- The handler's s56 to s63 (R331). -/
  hregs : Vector W64 8
  fpctl : BitVec 4
  fpstat : BitVec 4
  scout : BitVec 6
  deriving DecidableEq, Repr

/-- The vector and mask registers of a group (R117). -/
structure VectorSt where
  vregs : Vector VReg 128
  kregs : Vector Mask 7
  deriving DecidableEq, Repr

/-- The lane stream of a group (R23, R26, R28, R30, R47 to R51, R117, R149, R156). -/
structure LaneSt where
  lpc : W64
  run : Option Run
  em : Mask
  ih : Mask
  latches : Vector (Lanes LatchLane) 8
  chain : Option Chain
  /-- Registers that last-use marks of the open chain release at its end (R51). -/
  rel : List VNum
  dq : List Run
  vp : List W64
  /-- Top entry first. -/
  stack : List StackEntry
  stall : LaneStall
  /-- Source rows that a waiting instruction keeps: no victim is taken from them (R120, R122, R127). -/
  keeps : List VNum
  /-- Rows that a waiting instruction holds for its results (R120, R121). -/
  flight : Nat
  /-- Younger instructions issued past one whose fault is being served, the rows of their results, and their entries of the store queue
  (R126). -/
  ahead : Nat
  aheadRows : Nat
  aheadStores : Nat
  deriving DecidableEq, Repr

/-- A fault record (R334). -/
structure FaultRec where
  info : W64
  pc : W64
  head : W64
  aux0 : W64
  aux1 : W64
  addr : Lanes W64
  deriving DecidableEq, Repr

/-- A BAR that has arrived: its PC, its barrier and its hidden token (R165, R363). -/
structure BarWait where
  pc : W64
  bar : BitVec 4
  tok : BitVec 16
  deriving DecidableEq, Repr

/-- The lane state that handler entry sets aside (R330, R331). -/
structure Aside where
  run : Option Run
  lpc : W64
  em : Mask
  dq : List Run
  vp : List W64
  depth : Nat
  stall : LaneStall
  barTok : Option BarWait
  call : Option (W64 × Nat)
  /-- Where the run resumes when EPCL is unchanged: the chain head (R49, R338). -/
  headPc : W64
  deriving DecidableEq, Repr

/-- The trap state of a group (R330 to R340). -/
structure TrapSt where
  cause : W64
  cur : Cause
  hmode : Bool
  epcs : W64
  epcl : W64
  /-- The handler has written EPCL (R338). -/
  epclSet : Bool
  /-- none until the part writes the record: its bytes are undefined (R123). -/
  recs : Vector (Option FaultRec) 21
  aside : Option Aside
  supplied : Lanes (Option W32)
  /-- For each supplied lane, the address of the word that its value stands for (R339, R342). -/
  supAt : Lanes W64
  /-- The lanes whose value was supplied under INJ. -/
  supInj : Mask
  /-- The next scalar instruction, or the next lane instruction, is the first after SRET (R338). -/
  firstS : Bool
  firstL : Bool
  deriving DecidableEq, Repr

/-- The debug state of a group (R347, R350). -/
structure DebugSt where
  stepm : BitVec 2
  waddr : W64
  wctl : BitVec 8
  /-- The armed trip: a word address. -/
  trip : Option W64
  /-- The word of the last trip that raised INJ. -/
  tripped : Option W64
  deriving DecidableEq, Repr

/-- Where a group sits (R95). -/
structure SlotId where
  die : BitVec 2
  cluster : BitVec 1
  core : BitVec 6
  quad : BitVec 2
  slot : BitVec 4
  deriving DecidableEq, Repr

/-- What a group's bind record and launch record give it (R95, R110, R123). -/
structure BindRec where
  ctx : Nat
  launch : Nat
  /-- Position of the team in State.teams. -/
  team : Nat
  teamNo : BitVec 24
  role : Bool
  group : BitVec 9
  budget : Nat
  banks : W32
  /-- SPC: the scalar starting address (R110). -/
  spc : W64
  lbase : W64
  dbase : W64
  /-- The spill area's address (R123). -/
  area : W64
  deriving DecidableEq, Repr

/-- Whether a group runs (R111, R330, R350). -/
inductive GroupStatus where
  | running
  /-- Halted because a cause was raised with HBASE.EN = 0 (R330). -/
  | trapped (c : Cause)
  /-- Halted by HALT (R350). -/
  | stopped
  /-- Its EXIT has completed. -/
  | exited
  /-- Removed when its context was discarded (R112) or checkpointed away (R369). -/
  | removed
  deriving DecidableEq, Repr

/-- What a group's scalar stream is in the middle of (R108, R165, R346). -/
structure WaitSt where
  /-- The BAR at this PC has arrived and waits on this token (R165, R363). -/
  barTok : Option BarWait
  /-- The CALLV at this lane PC waits for this call record (R346). -/
  call : Option (W64 × Nat)
  /-- YIELD pauses the group (R108). -/
  paused : Bool
  /-- The region that XPOOL reports (R313). -/
  region : Option (BitVec 8)
  deriving DecidableEq, Repr

/-- What an operation on a matrix unit does (R205, R214). -/
inductive MOpKind where
  | mmq (ty : MTy) (ck hf : Bool) (desc addrs : W64) (meet : Option Nat)
  | had (ty : HTy) (addr : W32) (rows : Nat) (npts : Nat)
  deriving DecidableEq, Repr

/-- How an operation stands (R205, R209, R210). -/
inductive MOpSt where
  | flight
  | done
  /-- Its meeting was dissolved. -/
  | dissolved
  /-- It failed with FMT at a scratchpad address with a scale byte. -/
  | failed (addr : W64) (scale : Byte)
  deriving DecidableEq, Repr

/-- What an operation was issued with: the two source registers' values and the instruction's func (R363). -/
structure MSrc where
  a : W64
  b : W64
  func : BitVec 7
  deriving DecidableEq, Repr

/-- An operation of a group that no MWAIT has covered yet (R205 to R210). -/
structure MOp where
  /-- Its place in the group's sequence; the token is this modulo 256. -/
  num : Nat
  /-- When it was issued: the operations of a quadrant are taken in this order (R216). -/
  ord : Nat
  kind : MOpKind
  st : MOpSt
  /-- The registers it pins: A, B, C and K. -/
  ra : List VNum
  rb : List VNum
  rc : List VNum
  rk : List VNum
  /-- Something touched its registers or rows, so that what it writes is undefined (R206, R207, R214). -/
  spoiled : Bool
  reported : Bool
  src : MSrc
  deriving DecidableEq, Repr

/-- A collective that has retired and is not yet reported (R390, R392). -/
structure Coll where
  num : Nat
  comm : Nat
  /-- It is the c-th COLL on its communicator. -/
  c : Nat
  kind : BitVec 3
  op : BitVec 2
  swa : Bool
  wire : BitVec 2
  fxs : BitVec 8
  root : Nat
  base : W64
  n : Nat
  /-- The words that this part contributes, once the engine has read its buffer. -/
  own : Option (List W32)
  /-- New residual words, kept until the collective succeeds. -/
  resid : List W32
  /-- How many packets of its data have been sent to each member, in rank order. -/
  sent : List Nat
  /-- What the part writes, once every member's data is here: addresses and words, and SAT; and how many of them are written. -/
  out : Option (List (Nat × W32) × Bool)
  wrote : Nat
  status : Option W64
  reported : Bool
  deriving DecidableEq, Repr

/-- Engine bookkeeping of a group (R197, R205, R390). -/
structure EngineSt where
  /-- Batches closed; the next number N is this modulo 2^16. -/
  batchCtr : Nat
  /-- Failed batches that WAITB has reported. -/
  batchRep : List Nat
  /-- Operations queued; the next token T is this modulo 256. -/
  tokCtr : Nat
  mops : List MOp
  /-- Collectives issued; the next number K is this modulo 256. -/
  collCtr : Nat
  colls : List Coll
  /-- Flips of INJECT.reg that wait for the operations in flight on a pinned row: register, lane, bits (R351). -/
  flips : List (VNum × Nat × W32)
  deriving DecidableEq, Repr

/-- A bound or halted group. -/
structure Group where
  bind : BindRec
  loc : SlotId
  /-- It holds its slot (R94, R112). -/
  inSlot : Bool
  status : GroupStatus
  /-- Halted in place by firmware (R360), in the order given by the number (R122). -/
  halt : Option Nat
  /-- The number, in the same order, of its last halt in place by HALT or by a cause with HBASE.EN = 0 (R122, R330, R350). -/
  stopNo : Nat
  /-- Bases of the frozen queues whose QUEUE it takes at its next scalar boundary (R387). -/
  queueDue : List W64
  sc : ScalarSt
  vec : VectorSt
  lane : LaneSt
  trap : TrapSt
  dbg : DebugSt
  wait : WaitSt
  eng : EngineSt
  deriving DecidableEq, Repr

/-! ### Teams -/

/-- What wrote a scratchpad range: an STP or a transform that an MWAIT has covered, a command, or a transform that none has covered yet. -/
inductive PadBy where
  | store
  | cmd (n : Nat)
  | had (num : Nat)
  deriving DecidableEq, Repr

/-- A release side of R268 that a scratchpad write stands before, as far as it has come: a barrier's phase, a deed given, a FENCE of a group at
a scope, a word that the group has written since, or a group that has read such a word. -/
inductive PadSync where
  | bar (team id : Nat) (phase : BitVec 16)
  | deed (handle : W64)
  | fence (g : Nat) (sc : Scope)
  | word (key g : Nat) (sc : Scope)
  | got (h g : Nat) (sc : Scope)
  deriving DecidableEq, Repr

/-- The last write of a scratchpad range, as far as it is not yet ordered for every matrix unit (R204). -/
structure PadWrite where
  lo : Nat
  hi : Nat
  /-- The group that wrote it. -/
  writer : Nat
  by_ : PadBy
  /-- The release sides that it stands before (R268). -/
  syncs : List PadSync
  /-- The groups for whose matrix units it is ordered. -/
  seen : List Nat
  deriving DecidableEq, Repr

/-- A bank in the bank save area of a halted team: its core and number, its data cells and scale cells, and the writes of it that are not
ordered for every matrix unit. DESIGN CHOICE (log 117): the spec gives the area no address, so that these fields stand for it. -/
structure SavedBank where
  core : Nat
  bank : Nat
  data : List Host.Cell
  scale : List Host.Cell
  writes : List PadWrite
  deriving DecidableEq, Repr

/-- A named barrier of a team (R164). -/
structure Barrier where
  phase : BitVec 16
  isOpen : Bool
  expect : Nat
  arrived : Nat
  count : W64
  /-- ARR[g] of each group that has arrived. -/
  arr : List (Nat × Mask)
  deriving DecidableEq, Repr

/-- The item queue of a team on one of its cores (R114): ranges of a first item and a count. -/
structure ItemQueue where
  core : Nat
  ranges : List (W32 × W32)
  closed : Bool
  deriving DecidableEq, Repr

/-- A committed team (R94, R111). -/
structure Team where
  ctx : Nat
  launch : Nat
  no : BitVec 24
  /-- The team's cores, ascending, each with the mask of the banks held there (R94, R170). -/
  cores : List (Nat × W32)
  groups : List Nat
  atCommit : Nat
  live : Nat
  barriers : Vector Barrier 16
  queues : List ItemQueue
  ended : Bool
  /-- Its banks in the bank save area (R361). -/
  saved : List SavedBank
  deriving DecidableEq, Repr

/-- The state of a deed (R175). -/
inductive DeedState where
  | transit (core : Nat)
  | held (team core : Nat)
  deriving DecidableEq, Repr

/-- A deed that is not dissolved (R175): its origin core, the core where its banks lie (another one once its creating team has resumed
elsewhere, log 119), its serial, range, and who made it. Oldest transfer first in State.deeds. -/
structure Deed where
  origin : Nat
  core : Nat
  serial : BitVec 8
  first : Nat
  count : Nat
  ctx : Nat
  creator : Nat
  st : DeedState
  deriving DecidableEq, Repr

/-! ### Memory side -/

/-- The escrow tags of R257. -/
inductive EscTag where
  | addI | addF | minI | minN | maxI | maxN | and | or | xor
  deriving DecidableEq, Repr

/-- What the page of a cached word allows, as it stood at the fill (R284): W, U and X. -/
structure LinePerm where
  w : Bool
  u : Bool
  x : Bool
  deriving DecidableEq, Repr

/-- A word of a store or an EOP that has committed and is not yet visible to every party (R125, R256, R265). Stage 0: in the store
queue of its group. Stage 1: performed in its core cache, with ownership of its word, or combined into its partial there. Stage 2: at its
slice. -/
structure PWrite where
  group : Nat
  core : Nat
  tag : BitVec 16
  /-- Virtual word number. -/
  word : Nat
  en : BitVec 4
  data : W32
  pa : Nat
  ex : Option Nat
  perm : LinePerm
  ctx : Nat
  stage : Nat
  /-- The store queue entry that it belongs to: the words of one instruction share one (R125). -/
  entry : Nat
  deriving DecidableEq, Repr

/-- A read of a word that a stream of a group has made ahead of the instruction that will take its value (R126, R267, R270). -/
structure Early where
  group : Nat
  lane : Bool
  key : Nat
  val : W32
  deriving DecidableEq, Repr

/-- A word request that waits at its pseudo-channel's controller (R226, R230): the frame word, and what its fill needs. -/
structure WordReq where
  pa : Nat
  key : Nat
  ex : Option Nat
  perm : LinePerm
  ctx : Option Nat
  /-- Its burst has found the word uncorrectable (R235). -/
  failed : Bool
  deriving DecidableEq, Repr

/-- The state of a cached word at the directory (R248, R249). -/
inductive LineState where
  /-- Valid in the shared cache, equal to memory, with the core caches that hold a copy. -/
  | clean (val : W32) (holders : List Nat)
  /-- Valid and newer than memory. -/
  | dirty (val : W32) (holders : List Nat)
  /-- Owned by a core cache. -/
  | owned (core : Nat) (val : W32)
  /-- In escrow: the base, none over a poisoned word, and each holder's partial. -/
  | escrow (tag : EscTag) (base : Option W32) (parts : List (Nat × W32))
  deriving DecidableEq, Repr

/-- A cached word. The key is identifier × 2^54 + virtual word number (R244 to R246). -/
structure Line where
  key : Nat
  st : LineState
  /-- The frame word it was filled from (R283); none for the default copy of an absent tile (R303). -/
  pa : Option Nat
  /-- The map entry of its tile on a sparse page (R298). -/
  ex : Option Nat
  perm : LinePerm
  /-- The context whose delta map records its write-back; none for the part's own writes (R294). -/
  ctx : Option Nat
  deriving DecidableEq, Repr

/-- A TLB entry (R283). -/
structure TlbEntry where
  tag : BitVec 16
  /-- Page number in 64 KiB units; a 2 MiB page covers 32 of them. -/
  page : Nat
  big : Bool
  leaf : W64
  deriving DecidableEq, Repr

/-- A party that meets a translation fault (R288). -/
inductive Party where
  | scalar (g : Nat)
  | lane (g : Nat)
  | copy (n : Nat)
  | clearing (n : Nat)
  | coll (g num : Nat)
  | firmware
  deriving DecidableEq, Repr

/-- An entry of a quadrant's operand log (R127): the source values and active lanes of an instruction whose fault is being served. -/
structure OpEntry where
  quad : Nat
  /-- The stream whose instruction it is. -/
  party : Party
  pc : W64
  /-- For a chain member, the lane PC of its chain head. -/
  head : Option W64
  act : Mask
  a : Lanes W64
  b : Lanes W64
  c : Lanes W64
  deriving DecidableEq, Repr

/-! ### Places of words -/

/-- The access of one lane: its address below 2^64, and how many bytes. -/
structure LAcc where
  lane : Nat
  va : Nat
  size : Nat
  deriving DecidableEq, Repr

/-- Where a word lies. -/
inductive Loc where
  /-- Cached, as the line stood when it was looked up. -/
  | line (l : Line)
  /-- In a frame, under an identifier, with what its page allows and the map entry of its tile. -/
  | mem (tag : BitVec 16) (pa : Nat) (perm : LinePerm) (ex : Option Nat)
  /-- In an absent tile of a region, with its map entry, the size and permissions of its page, and the region's DEFAULT where a read has asked
  for it. -/
  | absent (tag : BitVec 16) (r : BitVec 8) (ex : Nat) (big : Bool) (perm : LinePerm) (dflt : W32)
  /-- In a peer range: the peer, its identifier, and the address there. -/
  | peer (pid asid : BitVec 16) (va : Nat)
  /-- A value at hand: a peer's answer, an undefined word of the spill area, or a word that the instruction has read already, with the region
  of its tile and whether the tile is present. -/
  | own (x : W32) (tile : Option (BitVec 8 × Bool))
  deriving DecidableEq, Repr

/-- What the words of one lane give. -/
inductive LaneLoc where
  | ok (ls : List Loc)
  | raise (c : Cause) (sub : Nat)
  | ue (va : Nat)
  | wait
  deriving DecidableEq, Repr

/-- The pages of a lane instruction that waits for one of them, and how far it has come where it names more than 16 (R288, R289). -/
structure PageSets where
  party : Party
  pc : W64
  /-- It is performed in sets of at most 16 pages. -/
  many : Bool
  /-- Its lanes have all been checked. -/
  checked : Bool
  /-- The lanes that are done. -/
  done : List (LAcc × LaneLoc)
  /-- The pages that it needs now, in 64 KiB units. -/
  need : List Nat
  /-- The words that it has found uncorrectable, which it does not request again (R226). -/
  bad : List Nat
  /-- The words that its checks have read, which it keeps until it has merged into them (R236, R255). -/
  kept : List (Nat × W32)
  /-- The map entries of the tiles that it holds: it has checked them for a write that waits (R310). -/
  hold : List Nat
  deriving DecidableEq, Repr

/-- An open fault record of the fault service (R287). -/
structure OpenFault where
  ctx : Nat
  /-- Page number in 64 KiB units; of a 2 MiB page, its first. -/
  page : Nat
  /-- The page is a 2 MiB page. -/
  big : Bool
  sub : Nat
  /-- The accesses joined, each with its own subcode. -/
  joined : List (Party × Nat)
  /-- Posted to the host (XLCTL.FSVC, R287). -/
  toHost : Bool
  /-- The management core's die. -/
  die : Nat
  closed : Bool
  deriving DecidableEq, Repr

/-- A delivered verdict of the fault service, met when the party's access is made again (R287). -/
structure Verdict where
  party : Party
  page : Nat
  big : Bool
  cause : Cause
  sub : Nat
  deriving DecidableEq, Repr

/-- A posted call (R344, R346). -/
structure CallRec where
  index : Nat
  group : Nat
  mask : Mask
  req : Lanes W32
  gidx : W64
  loc : W64
  seq : W32
  rep : Lanes W32
  answered : Bool
  timeout : Bool
  /-- The group no longer waits for it. -/
  dropped : Bool
  deriving DecidableEq, Repr

/-- The fault reserve of a context in one stack (R289): frames set aside, and how many of them are free. -/
structure Reserve where
  free : List Nat
  used : List Nat
  deriving DecidableEq, Repr

/-- A launch queue of a context (R106, R385, R386). -/
structure LaunchQueue where
  base : W64
  size : Nat
  head : W32
  /-- The last TAIL read. -/
  t0 : W32
  /-- The reason of its freeze, 1 to 4 (R387). -/
  frozen : Option Nat
  deriving DecidableEq, Repr

/-- A communicator (R388, R390, R391). -/
structure Comm where
  idx : Nat
  members : List (BitVec 16)
  rank : Nat
  area : W64
  cap : Nat
  grant : Bool
  /-- COLLs that have retired on it. -/
  count : Nat
  /-- The residual tag: BASE and n of the last reduction. -/
  tag : Option (W64 × Nat)
  deriving DecidableEq, Repr

/-- An execution context (R383). -/
structure Context where
  live : Bool
  /-- Its context number, 0 to 4,095 (R110). -/
  no : Nat
  asid : BitVec 16
  priv : Bool
  tenant : Nat
  /-- Physical address of the root table (R279). -/
  root : Nat
  /-- Physical address of the region table (R301). -/
  regions : Nat
  calla : W64
  /-- The 64 KiB frames of the call area (R344). -/
  callFrames : List Nat
  spillBase : W64
  spillCount : Nat
  xlctl : BitVec 7
  deltaBase : BitVec 40
  deltaLogn : BitVec 5
  hbase : BitVec 54
  hbaseEn : Bool
  calls : List CallRec
  callSeq : W32
  reserves : Vector Reserve 8
  /-- The host node that created it (R376). -/
  creator : BitVec 16
  /-- Launches and graph instances accepted so far (R107). -/
  launchSeq : W64
  queues : List LaunchQueue
  /-- Bases of frozen queues whose QUEUE no group has been given yet (R387). -/
  frozen : List W64
  comms : List Comm
  peers : List PeerReg
  /-- Its last split request for each stack (R229). -/
  split : Vector (Option Nat) 8
  deriving DecidableEq, Repr

/-- What the next step does: a step of the scalar or the lane stream of a group, or one of the part's own steps. -/
inductive Action where
  | scalar (g : Nat)
  | lane (g : Nat)
  /-- Both streams of a group in one cycle (R330). -/
  | both (g : Nat)
  | event (i : Instr)
  /-- The lane stream of a group issues an instruction past one whose fault is being served: it takes rows for its results and, where store
  is set, an entry of the store queue (R126). -/
  | issueAhead (g rows : Nat) (store : Bool)
  /-- A stream of a group, the lane stream or the scalar one, makes the read of a word ahead of its instruction (R126, R267, R270). -/
  | readAhead (g : Nat) (lane : Bool) (va : W64)
  /-- A copy or clearing command makes some of its accesses: k elements or rows on, or, where ahead is not 0, those that lie so far ahead of its
next one (R193, R269, R320). -/
  | advance (n k ahead : Nat)
  deriving DecidableEq, Repr

/-- What a lifetime count counts (R404). Sums per die and per pseudo-channel are derived from the word units. -/
inductive LifeKey where
  /-- Corrected words of a word unit: pseudo-channel × 16 + die. -/
  | corrected (unit : Nat)
  | uncorrectable (unit : Nat)
  /-- Escrow partials discarded over poison (R260). -/
  | escrowLost (stack : Nat)
  | temperature (block bin : Nat)
  | voltage (block bin : Nat)
  | laneRetrain (lane : Nat)
  | crcDrop (port : Nat)
  | strandRetrain (pch : Nat)
  | trapCause (bit : Nat)
  | resets
  | bootFailures
  | stageFailures
  | thermalTrips
  deriving DecidableEq, Repr

/-! ### Launches and graphs -/

/-- A launch record that passed R97, by field (R96). -/
structure LaunchRec where
  prio : Nat
  disc : Bool
  openq : Bool
  cbh : Nat
  teams : Nat
  cores : Nat
  cgroups : Nat
  pgroups : Nat
  cregs : Nat
  pregs : Nat
  banks : Nat
  items : Nat
  sbase : W64
  lbase : W64
  dbase : W64
  centry : W32
  pentry : W32
  donea : W64
  donev : W32
  /-- The dependences used: word address and required value. -/
  deps : List (W64 × W32)
  deriving DecidableEq, Repr

/-- How a launch stands (R98, R101). -/
inductive LaunchSt where
  | accepted | completed | discarded
  deriving DecidableEq, Repr

/-- An accepted launch, in the order of acceptance (R97 to R101). -/
structure Launch where
  ctx : Nat
  /-- Its index in the context's launch table, 0 to 1,023 (R98, R110). -/
  idx : Nat
  seq : W64
  rcd : LaunchRec
  /-- Satisfied, and failure reported, per dependence (R99). -/
  sat : List Bool
  told : List Bool
  /-- Its graph instance and node index (R103). -/
  inst : Option (Nat × Nat)
  /-- The next team to bind. -/
  nextTeam : Nat
  /-- RETIRED (R115). -/
  retired : W64
  /-- CYCLE when it was accepted (R367). -/
  start : W64
  st : LaunchSt
  /-- It has completed, and its DONEV store is still to be made (R101). -/
  due : Bool
  deriving DecidableEq, Repr

/-- A graph instance (R103, R104). -/
structure GraphInst where
  ctx : Nat
  seq : W64
  hdr : W64
  conc : Bool
  /-- Its nodes as launches, by node index. -/
  nodes : List Nat
  edges : List (Nat × Nat)
  donea : W64
  donev : W32
  /-- Completed or discarded. -/
  ended : Bool
  /-- It has completed, and its DONEV store is still to be made (R101, R103). -/
  due : Bool
  deriving DecidableEq, Repr

/-! ### Engines -/

/-- A shape record that passed R186, by field (R184, R185). -/
structure ShapeRec where
  base : W64
  elem : Nat
  epb : Nat
  rank : Nat
  nwin : Nat
  clamp : Bool
  perm : List Nat
  ext : List Nat
  str : List Int
  /-- K, S, D and PAD of windows 1 to 3. -/
  win : List (Nat × Nat × Nat × Nat)
  deriving DecidableEq, Repr

/-- What a copy or clearing command does (R190, R217, R318, R325). -/
inductive CmdKind where
  | copyLd (p : W32) (org sz : W64)
  | copySt (p : W32) (org sz : W64)
  /-- ACCST with the elements it read at issue, in row-major order. -/
  | accst (conv : AccConv) (m : Rnd) (desc : W64) (org sz : W64) (data : List W32)
  | gath (p list : W32) (n : Nat)
  | scat (p list : W32) (n : Nat)
  | scatAddI (p list : W32) (n : Nat)
  | scatAddF (p list : W32) (n : Nat)
  | walkCoo (p : W32) (cap lo hi : Nat)
  | walkCsr (p : W32) (cap lo hi rows : Nat) (ptr : W64)
  deriving DecidableEq, Repr

/-- The first failure of a command (R195, R323). -/
structure CmdFail where
  cause : Cause
  sub : Nat
  addr : W64
  pos : Nat
  /-- Failures before it in the part. -/
  order : Nat
  deriving DecidableEq, Repr

/-- What a position of an index list names: a row of the table after CLAMP, one out of bounds, or nothing, because the list word at that
position is not open. -/
inductive RowRef where
  | row (x : Nat)
  | out (x : Nat)
  | closed (pos : Nat)
  deriving DecidableEq, Repr

/-- A distinct row of a window with its positions, ascending. -/
structure RowUse where
  row : RowRef
  poss : List Nat
  deriving DecidableEq, Repr

/-- A command of a copy engine or a clearing engine, in the order of issue (R193, R194, R316). -/
structure Cmd where
  group : Nat
  ctx : Nat
  /-- The accessing core. -/
  core : Nat
  kind : CmdKind
  recAddr : W64
  rcd : ShapeRec
  /-- Its batch, counted from 0 at group start; the open one is the group's batchCtr. -/
  batch : Nat
  /-- SCOUT.DIST at issue. -/
  scout : Nat
  /-- The next element of a copy or walk, or the next window. -/
  next : Nat
  /-- Elements beyond it that are moved already (R269). -/
  early : List Nat
  /-- In the window in progress, the rows whose writes have been performed (R324). -/
  rowsDone : List Nat
  /-- In that window, the rows that its list names, once it has been read (R320). -/
  uses : Option (List RowUse)
  /-- The row in progress, and the element at which it has parked (R323). -/
  part : Option (Nat × Nat)
  ended : Bool
  fail : Option CmdFail
  deriving DecidableEq, Repr

/-- An entry of a cluster's record cache (R189): the words of a record. -/
structure RcEntry where
  cluster : Nat
  tag : BitVec 16
  addr : W64
  words : List W32
  deriving DecidableEq, Repr

/-- A thread of a meeting: the group and lane it came from, and the group that hosts it. -/
structure MThread where
  home : Nat
  host : Nat
  lane : Nat
  deriving DecidableEq, Repr

/-- A member of a BRC meeting (R159, R160): its group, active lanes and EM. -/
structure MMember where
  group : Nat
  act : Mask
  em : Mask
  parked : Bool
  deriving DecidableEq, Repr

/-- A BRC meeting of a quadrant (R159 to R162). -/
structure Meet where
  quad : Nat
  mslot : Bool
  team : Nat
  /-- The lane offset of the BRC, and its target. -/
  pc : W64
  target : W64
  admitting : Bool
  closed : Bool
  members : List MMember
  threads : List MThread
  closeAt : Option W64
  deriving DecidableEq, Repr

/-- A quad meeting of a quadrant (R208, R209): its members by quarter position, group and operation. -/
structure QMeet where
  quad : Nat
  team : Nat
  ty : MTy
  ck : Bool
  sz : Bool
  hf : Bool
  members : List (Nat × Nat × Nat)
  started : Bool
  ended : Bool
  deriving DecidableEq, Repr

/-! ### Memory controllers -/

/-- A pseudo-channel (R228, R229): RDSTR, whether it drains, whether its 100 µs interval runs, and a change that waits. -/
structure Pch where
  rdstr : BitVec 4
  drain : Bool
  held : Bool
  waiting : Option (BitVec 4)
  deriving DecidableEq, Repr

/-- A stack controller (R228, R230): CB, RESV of each die, and the dies that refresh. -/
structure Stk where
  cb : Bool
  resv : Vector Nat 16
  refreshing : BitVec 16
  deriving DecidableEq, Repr

/-! ### Tenants -/

/-- A current vacate request (R364): CYCLE at its deadline, priority, neighbour, and CYCLE when it was posted. -/
structure Vacate where
  deadline : W64
  prio : BitVec 3
  neigh : BitVec 16
  posted : W64
  deriving DecidableEq, Repr

/-- The choices of R368. -/
inductive Choice where
  | run | checkpoint | discard
  deriving DecidableEq, Repr

/-- A queue of the vacate controller's plan (R366 to R370): the launches of a context at a priority. -/
structure QPlan where
  ctx : Nat
  prio : Nat
  choice : Choice
  disc : Bool
  committed : Bool
  acked : Bool
  /-- Ready to stream: a checkpoint saved, or the last team of a RUN queue exited. Or discarded. -/
  settled : Bool
  /-- CYCLE when it became ready to stream (R369). -/
  readyAt : Nat
  /-- Sections sent so far of a checkpoint, and the part that they went to (R368, R370). -/
  sent : Nat
  dst : BitVec 16
  /-- 0 ran, 1 checkpointed, 2 discarded, 3 lost (R373). -/
  outcome : Option Nat
  deriving DecidableEq, Repr

/-- A tenant (R353, R356, R359, R364). -/
structure Tenant where
  tid : Nat
  rcd : TenantRec
  /-- Ways that drain, and the record's ways queued behind a drain (R356). -/
  losing : BitVec 16
  nextWays : Option (BitVec 16)
  running : Option Nat
  /-- CYCLE when the slice began (R359). -/
  since : W64
  req : Option Vacate
  phase : BitVec 2
  plan : List QPlan
  /-- Preferred split for each stack (R229). -/
  pref : Vector Nat 8
  deriving DecidableEq, Repr

/-! ### Fabric, keystone, power -/

/-- A 64 KiB page in a checkpoint (R372): its address, the sectors that are sent, and their words, none for an uncorrectable one. -/
structure PageImage where
  va : Nat
  mask : BitVec 512
  words : List (Option W32)
  deriving DecidableEq, Repr

/-- A section of a checkpoint, by its TYPE (R372). -/
inductive CkptBody where
  | head (tenant : Nat) (asid : BitVec 16) (prio count : Nat)
  /-- XLCTL, DELTA, HBASE, CALLA, the words of the region table, and the valid leaves. -/
  | context (xlctl : BitVec 7) (deltaBase : BitVec 40) (deltaLogn : BitVec 5) (hbase : BitVec 54) (hbaseEn : Bool) (calla : W64)
      (regions : List (Option W32)) (leaves : List (Nat × W64))
  | launch (ls : List Launch) (gs : List GraphInst)
  | team (t : Team) (retired : W64) (meets : List Meet) (qmeets : List QMeet) (deeds : List Deed)
  | group (b : BindRec) (area : List (Option W32))
  /-- A bank by its local number on a core of the team, with its defined data and scale bytes by offset. -/
  | bank (core loc : Nat) (data scale : List Host.Cell)
  | engine (cmds : List Cmd) (colls : List Coll)
  | memory (pages : List PageImage)
  | commit (digest signature : BitVec 512)
  deriving DecidableEq, Repr

/-- What a packet that the part sends carries (R379, R380). -/
inductive PktBody where
  /-- A reply: its status word, mask and words. -/
  | reply (status : W32) (mask : W64) (words : List W32)
  /-- Memory requests to a peer (R384). -/
  | read (addr : W64)
  | write (addr : W64) (x : W32) (en : BitVec 4)
  | atomic (addr : W64) (op : BitVec 7) (operand compare : W32)
  | colld (d : CollData)
  /-- NOTICEs. -/
  | faultRecord (n : Nat)
  | callPost (n : Nat) (seq : W32)
  | queueFreeze (base : W64) (reason : Nat)
  | depFailure (seq addr : W64)
  | doneFailure (seq addr : W64)
  | vacateOutcome (tenant : Nat) (outcomes : List (Nat × Nat × Nat))
  /-- The drain state; the final one names the port that it is sent on. -/
  | drainState (st : BitVec 8) (port : Option Nat)
  /-- READY, on a port. -/
  | ready (port : Nat)
  | haltReport (gidx loc : W64)
  /-- A section of a checkpoint to the neighbour (R372). -/
  | ckptPart (tenant ctx prio : Nat) (hdr : BitVec 128) (x : CkptBody)
  /-- A page evicted to the host (R289): its address and words, none for one that is uncorrectable. -/
  | pageOut (va : W64) (words : List (Option W32))
  /-- A request to a plane to withdraw the routes to the part (R394). -/
  | withdraw (plane : Nat)
  deriving DecidableEq, Repr

/-- A packet sent by the part (R378). -/
structure Packet where
  kind : BitVec 8
  dst : BitVec 16
  asid : BitVec 16
  seq : W32
  tag : W32
  body : PktBody
  deriving DecidableEq, Repr

/-- What has been performed of the packets of one sender (R381): every SEQ below low, and some above with the words they
touched. -/
structure SeqRec where
  src : BitVec 16
  low : W32
  above : List (W32 × List Nat)
  deriving DecidableEq, Repr

/-- A peer access of a stream (R384): the word it names at the peer, its request, and the reply. -/
structure PeerReq where
  party : Party
  /-- The instruction that made it. -/
  pc : W64
  lane : Nat
  /-- The local word. -/
  word : Nat
  tag : W32
  dst : BitVec 16
  kind : BitVec 8
  answer : Option (W32 × Nat)
  /-- Timed out: XLAT with subcode 8. -/
  late : Bool
  deriving DecidableEq, Repr

/-- The states of the route-drain handshake (R394). -/
inductive DrainSt where
  | run | quiesce | withdraw | drained
  deriving DecidableEq, Repr

/-- Collective data received (R380, R391). -/
structure CollIn where
  ctx : Nat
  src : BitVec 16
  d : CollData
  deriving DecidableEq, Repr

/-- A packet whose access waits for the fault service (R382): its sender, SEQ, context, and the words that it touches. -/
structure HeldPkt where
  src : BitVec 16
  seq : W32
  asid : BitVec 16
  addr : W64
  count : Nat
  deriving DecidableEq, Repr

/-- The part's side of Viaduct (R376 to R381, R384, R394). -/
structure Fabric where
  pid : BitVec 16
  manager : BitVec 16
  hosts : List (BitVec 16)
  drain : DrainSt
  /-- DRAIN = 0 has been received and the routes or links are not back yet. -/
  returning : Bool
  /-- Planes that have confirmed withdrawal. -/
  confirmed : List Nat
  /-- NOTICEs that are not answered, and COLLDs likewise. -/
  notices : List Packet
  colldOut : List Packet
  peers : List PeerReq
  collIn : List CollIn
  seqs : List SeqRec
  /-- Packets whose access waits for the fault service: they are not answered yet (R382, R394). -/
  inbound : List HeldPkt
  /-- The next SEQ towards each destination. -/
  seqOut : List (BitVec 16 × W32)
  /-- The next TAG. -/
  tagCtr : W32
  /-- Packets sent, oldest first. -/
  outbox : List Packet
  deriving DecidableEq, Repr

/-- A report on the management bus: a vacate request refused, and the outcomes of a vacated tenant's queues (R364, R373). -/
inductive BusReport where
  | refused (tenant : Nat)
  | outcomes (tenant : Nat) (outcomes : List (Nat × Nat × Nat))
  deriving DecidableEq, Repr

/-- The keystone (R396, R397, R404). -/
structure Keystone where
  serial : List Byte
  idkey : List Byte
  config : List Byte
  stage : List Byte
  /-- The snapshots in LIFEA and LIFEB: SEQ and the counts. -/
  lifeA : Option (W64 × List (LifeKey × Nat))
  lifeB : Option (W64 × List (LifeKey × Nat))
  /-- The I3C byte offset. -/
  off : BitVec 24
  /-- The bytes that the last private read returned (R396). -/
  rd : List Byte
  /-- The last private write was answered with a NACK. -/
  nack : Bool
  /-- Reports on the management bus, oldest first. -/
  reports : List BusReport
  deriving DecidableEq, Repr

/-- PSTAT.STATE (R401). -/
inductive PState where
  | unpowered | booting | ready | booterr
  deriving DecidableEq, Repr

/-- A power block (R402). -/
structure Block where
  stepped : Bool
  halved : Bool
  deriving DecidableEq, Repr

/-- Power and boot (R399 to R402). -/
structure Power where
  st : PState
  err : Byte
  /-- The boot that is under way is cold. -/
  cold : Bool
  /-- A reset was requested while the boot runs; true for cold (R400). -/
  again : Option Bool
  /-- Every DRAM die is in self-refresh (R400). -/
  selfRefresh : Bool
  blocks : Vector Block 28
  deriving DecidableEq, Repr

/-- A checkpoint image that the part receives as a neighbour (R370, R372). -/
structure Image where
  src : Nat
  sections : List CkptSection
  committed : Bool
  deriving DecidableEq, Repr

/-- The state of the part. -/
structure State where
  /-- Every group ever bound, in the order of binding; its position names it. -/
  groups : List Group
  teams : List Team
  deeds : List Deed
  contexts : List Context
  /-- Data bytes of DRAM by physical address (R223). -/
  dram : Memory
  /-- Per physical word number, the stored check byte XOR the computed one (R231); 0 is a valid word. -/
  synd : Memory
  /-- Corrected words that wait for their scrub (R233): physical address and the word as corrected. -/
  scrubs : List (Nat × W32)
  /-- Word requests that wait at the controllers, oldest first (R226). -/
  reqs : List WordReq
  /-- Cached words, one entry a key (R244 to R249). -/
  lines : List Line
  /-- The blocks that core caches hold, most recently used first: core and block (R244). -/
  coreUse : List (Nat × Nat)
  /-- The blocks that the shared cache holds, most recently used first: block and tenant (R245, R356). -/
  shUse : List (Nat × Nat)
  /-- TLBs of the home units, most recently used first (R283). -/
  tlb : List TlbEntry
  faults : List OpenFault
  verdicts : List Verdict
  /-- Committed stores on their way, oldest first (R125, R265). -/
  sq : List PWrite
  early : List Early
  oplog : List OpEntry
  /-- The pages of lane instructions that wait for one (R288, R289). -/
  psets : List PageSets
  /-- Defined scratchpad bytes by core × 393,216 + bank × 12,288 + offset (R169); an unlisted byte is undefined (R170). -/
  spad : List Host.Cell
  /-- Writes of scratchpad that are not ordered for every matrix unit (R204). -/
  padw : List PadWrite
  /-- Defined scale bytes by core × 24,576 + bank × 768 + granule (R174). -/
  scale : List Host.Cell
  /-- The disabled pseudo-channel of each stack (R20, R224). -/
  pchOff : Vector (Option (BitVec 5)) 8
  /-- Lifetime counts above zero (R404). -/
  life : List (LifeKey × Nat)
  launches : List Launch
  graphs : List GraphInst
  cmds : List Cmd
  /-- Record-cache entries (R189). -/
  rcache : List RcEntry
  meets : List Meet
  qmeets : List QMeet
  /-- Slots for which firmware has had a team commit refused, latest first (R111). -/
  refused : List SlotId
  /-- The serial of the last deed made on a core (R176). -/
  serials : List (Nat × BitVec 8)
  pchs : Vector Pch 256
  stks : Vector Stk 8
  /-- Free 64 KiB frames of each stack, by physical address (R289). -/
  frames : Vector (List Nat) 8
  /-- Free 4 KiB tile frames left of 64 KiB frames that firmware has split for pools (R302, R307): bits [38:12]. -/
  tiles : List (BitVec 27)
  tenants : List Tenant
  fab : Fabric
  key : Keystone
  power : Power
  /-- UNITS (R18). -/
  units : W64
  images : List Image
  /-- CYCLE (R403). -/
  cycle : W64
  /-- Undefined values taken so far (R3); the model's own. -/
  freeCtr : Nat
  /-- Counts row uses for the coldest-row rule (R120); the model's own. -/
  tick : Nat
  /-- Inputs and schedule: what the next steps do; the model's own. -/
  agenda : List Action
  /-- The group whose instruction executes; the model's own. -/
  cur : Nat
  /-- It executes a lane instruction; the model's own. -/
  curLane : Bool
  deriving DecidableEq, Repr

/-! ### Reset -/

/-- A configuration record that enables every unit of a grade A part, with 60.0 A at 0.75 V a block (log 3). -/
def fullConfig : List Byte :=
  [1#8, 0#8, 0x80#8, 0x04#8] ++ List.replicate 16 0#8 ++ [1#8] ++ List.replicate 11 0#8 ++
  List.replicate 64 0xFF#8 ++ List.replicate 256 0xFF#8 ++ List.replicate 64 0xFF#8 ++ List.replicate 32 0xFF#8 ++
  List.replicate 18 0xFF#8 ++ List.replicate 6 0#8 ++ List.replicate 40 0#8 ++
  (List.replicate 28 [0x58#8, 0x02#8, 0x96#8, 0#8]).flatten ++ List.replicate 400 0#8 ++
  List.replicate 128 0#8

/-- The keystone as the factory leaves it (log 3). -/
def Keystone.factory : Keystone :=
  ⟨List.replicate 16 0#8, List.replicate 32 0#8, fullConfig, [], none, none, 0, [], false, []⟩

/-- The part's side of Viaduct before the links are up. -/
def Fabric.none : Fabric :=
  ⟨0, 0, [], .run, false, [], [], [], [], [], [], [], [], 0, []⟩

/-- The part right after reset and before a boot: nothing is bound, cached, queued or registered; DRAM is 0 with valid check bytes
(R400); RDSTR is 12 and the refresh reserves are 0 (R399); PSTAT, CYCLE and the drain state are 0 (R400, R401, R403). -/
def State.reset : State :=
  { groups := [], teams := [], deeds := [], contexts := [], dram := [], synd := [], scrubs := [], reqs := [], lines := []
    coreUse := [], shUse := [], tlb := [], faults := [], verdicts := [], sq := [], early := [], oplog := [], psets := []
    spad := [], padw := [], scale := [], pchOff := Vector.replicate 8 none, life := [], launches := [], graphs := [], cmds := []
    rcache := [], meets := [], qmeets := [], refused := [], serials := []
    pchs := Vector.replicate 256 ⟨12, false, false, none⟩
    stks := Vector.replicate 8 ⟨false, Vector.replicate 16 0, 0⟩
    frames := Vector.replicate 8 [], tiles := [], tenants := [], fab := Fabric.none, key := Keystone.factory
    power := ⟨.unpowered, 0, true, none, false, Vector.replicate 28 ⟨false, false⟩⟩
    units := 0, images := [], cycle := 0, freeCtr := 0, tick := 0, agenda := [], cur := 0, curLane := false }

end Sys2Proof.Machine
end

