-- ==== Sys2Proof/Machine/Mem.lean ====
section
/-! DEFINITION. Bytes, words and their protection: the canonical memory lists, DRAM words with check bytes, poison and scrubs
(spec/10_memory_words.md R223, R224, R231 to R236). -/

namespace Sys2Proof.Machine

/-- Sign extension to 64 bits. -/
def sext64 {n : Nat} (x : BitVec n) : W64 := x.signExtend 64
/-- Zero extension to 64 bits. -/
def zext64 {n : Nat} (x : BitVec n) : W64 := x.setWidth 64

/-- Bits [hi:lo] of a value, as a natural (R10). -/
def bitsOf (x hi lo : Nat) : Nat := x / 2 ^ lo % 2 ^ (hi + 1 - lo)

/-- The set bits of a pattern among its low n bits. -/
def popCount (x n : Nat) : Nat :=
  match n with
  | 0 => 0
  | n + 1 => (if Nat.testBit x n then 1 else 0) + popCount x n

/-- A value put into a sorted list, before what it does not exceed. -/
def insertBy {α : Type} (le : α → α → Bool) (x : α) : List α → List α
  | [] => [x]
  | y :: t => if le x y then x :: y :: t else y :: insertBy le x t

/-- A list in ascending order; equal values keep their order. -/
def sortBy {α : Type} (le : α → α → Bool) (l : List α) : List α := l.foldr (insertBy le) []

/-- The byte at an address of a canonical memory; an unlisted one reads as 0. -/
def memGet (m : Memory) (a : Nat) : Byte :=
  match m with
  | [] => 0#8
  | c :: t => if a = c.1 then c.2 else memGet t a

/-- A memory with one byte written, in canonical form. -/
def memSet (m : Memory) (a : Nat) (b : Byte) : Memory :=
  match m with
  | [] => if b = 0#8 then [] else [(a, b)]
  | c :: t =>
    if a < c.1 then (if b = 0#8 then c :: t else (a, b) :: c :: t)
    else if a = c.1 then (if b = 0#8 then t else (a, b) :: t)
    else c :: memSet t a b

/-- n bytes from an address on (R5). -/
def memBytes (m : Memory) (a n : Nat) : List Byte :=
  match n with
  | 0 => []
  | n + 1 => memGet m a :: memBytes m (a + 1) n

/-- A memory with bytes written from an address on. -/
def memSetBytes (m : Memory) (a : Nat) (l : List Byte) : Memory :=
  match l with
  | [] => m
  | b :: t => memSetBytes (memSet m a b) (a + 1) t

/-- The word of four bytes in memory order. -/
def wordOf (l : List Byte) : W32 := BitVec.ofNat 32 (ofLe l)

/-- A cell of a list in which an unlisted address holds nothing (scratchpad, R170). -/
def cellGet (m : List Host.Cell) (a : Nat) : Option Byte :=
  match m with
  | [] => none
  | c :: t => if a = c.1 then some c.2 else cellGet t a

/-- Such a list with one cell written, addresses rising. -/
def cellSet (m : List Host.Cell) (a : Nat) (b : Byte) : List Host.Cell :=
  match m with
  | [] => [(a, b)]
  | c :: t =>
    if a < c.1 then (a, b) :: c :: t
    else if a = c.1 then (a, b) :: t
    else c :: cellSet t a b

/-- Such a list without the cells of a range: their values become undefined. -/
def cellDrop (m : List Host.Cell) (lo n : Nat) : List Host.Cell :=
  m.filter fun c => decide (c.1 < lo) || decide (lo + n ≤ c.1)

/-! ### Undefined values (R3) -/

/-- The k-th undefined value of the step under way. -/
def freeAt (s : State) (k : Nat) : W64 := Config.freeValue (s.freeCtr + k)

/-- The state after n undefined values have been taken. -/
def State.useFree (s : State) (n : Nat) : State := { s with freeCtr := s.freeCtr + n }

/-! ### Check codes (R231, R232) -/

/-- Column value of data bit j: the j-th 8-bit value with exactly three bits set. -/
def dataColumn (j : Nat) : Nat := (((List.range 256).filter fun x => popCount x 8 == 3)[j]?).getD 0

/-- XOR of the columns of the set bits of a data pattern, for bits below n. -/
def dataColumns (x n : Nat) : Nat :=
  match n with
  | 0 => 0
  | n + 1 => Nat.xor (if Nat.testBit x n then dataColumn n else 0) (dataColumns x n)

/-- Column value of word-index bit a: the a-th 8-bit value of even weight with bit 0 set. -/
def indexColumn (a : Nat) : Nat :=
  (((List.range 256).filter fun x => popCount x 8 % 2 == 0 && x % 2 == 1)[a]?).getD 0

/-- XOR of the columns of the set bits of a word index, for bits below n. -/
def indexColumns (x n : Nat) : Nat :=
  match n with
  | 0 => 0
  | n + 1 => Nat.xor (if Nat.testBit x n then indexColumn n else 0) (indexColumns x n)

/-- The check byte of a word of data at a word index (R231). -/
def checkByte (data : W32) (index : Nat) : Byte :=
  BitVec.ofNat 8 (dataColumns data.toNat 32) ^^^ BitVec.ofNat 8 (indexColumns index 34)

/-- What a syndrome says of a word. -/
inductive WordFate where
  | good
  /-- That data bit is flipped. -/
  | flip (j : Nat)
  /-- The check byte alone is in error. -/
  | check
  | bad
  deriving DecidableEq, Repr

/-- The data bit below n whose column is a syndrome. -/
def flipOf (x n : Nat) : Option Nat :=
  match n with
  | 0 => none
  | n + 1 => if dataColumn n = x then some n else flipOf x n

/-- The fate of a word by its syndrome (R232). -/
def wordFate (syn : Byte) : WordFate :=
  if syn = 0#8 then .good
  else match flipOf syn.toNat 32 with
    | some j => .flip j
    | none => if popCount syn.toNat 8 = 1 then .check else .bad

/-- The syndrome of a poisoned word (R234). -/
def poisonSyn : Byte := 0xFF#8

/-! ### Physical words (R223, R224) -/

/-- The stack of a physical address. -/
def paStack (pa : Nat) : Nat := pa / 2 ^ 36 % 8
/-- The word index within the stack. -/
def paIndex (pa : Nat) : Nat := pa / 4 % 2 ^ 34

/-- A word exists at a physical address: its ROW is in range, also under a disabled pseudo-channel (R223, R224). -/
def wordExists (s : State) (pa : Nat) : Bool :=
  decide (pa < 2 ^ 39) &&
  decide (paIndex pa / 2 ^ 19 < match (s.pchOff.toList)[paStack pa]? with
    | some (some _) => 23808
    | _ => 24576)

/-- The pseudo-channel, 32 a stack, that stores a word (R223, R224). -/
def wordPch (s : State) (pa : Nat) : Nat :=
  let w := paIndex pa
  let p := w / 16 % 32
  let row := w / 2 ^ 19
  match (s.pchOff.toList)[paStack pa]? with
  | some (some x) =>
    if p = x.toNat then
      let c := row % 31
      32 * paStack pa + (if c < x.toNat then c else c + 1)
    else 32 * paStack pa + p
  | _ => 32 * paStack pa + p

/-- The word as stored. -/
def rawWord (s : State) (pa : Nat) : W32 := wordOf (memBytes s.dram pa 4)

/-- The syndrome of a stored word, read at its own word index: syndromeAt s pa pa (Laws/Memory). -/
def wordSyn (s : State) (pa : Nat) : Byte := memGet s.synd (pa / 4)

/-- The check byte as stored (R231). -/
def storedCheck (s : State) (pa : Nat) : Byte := checkByte (rawWord s pa) (paIndex pa) ^^^ wordSyn s pa

/-- The syndrome that a controller computes when the word stored at one address is delivered for another (R231, R232). -/
def syndromeAt (s : State) (stored asked : Nat) : Byte := storedCheck s stored ^^^ checkByte (rawWord s stored) (paIndex asked)

/-- A full-word write that reaches the controller: new data with a fresh check byte; a waiting scrub is dropped (R233, R234). -/
def dramWrite (s : State) (pa : Nat) (x : W32) : State :=
  { s with
    dram := memSetBytes s.dram pa (leBytes 4 x.toNat)
    synd := memSet s.synd (pa / 4) 0#8
    scrubs := s.scrubs.filter fun q => q.1 ≠ pa }

/-- The word rewritten poisoned (R234). -/
def dramPoison (s : State) (pa : Nat) : State :=
  { s with
    dram := memSetBytes s.dram pa (leBytes 4 0)
    synd := memSet s.synd (pa / 4) poisonSyn
    scrubs := s.scrubs.filter fun q => q.1 ≠ pa }

/-- Flips bits of the stored 40-bit word without recomputing its check (R350): data bits, check bits. -/
def dramFlip (s : State) (pa : Nat) (data : W32) (chk : Byte) : State :=
  let x := rawWord s pa ^^^ data
  let syn := wordSyn s pa ^^^ chk ^^^ BitVec.ofNat 8 (dataColumns data.toNat 32)
  { s with
    dram := memSetBytes s.dram pa (leBytes 4 x.toNat)
    synd := memSet s.synd (pa / 4) syn }

/-- What a read of a stored word delivers: the word, corrected where it can be (R232), or nothing. -/
def wordValue (s : State) (pa : Nat) : Option W32 :=
  match wordFate (wordSyn s pa) with
  | .good => some (rawWord s pa)
  | .check => some (rawWord s pa)
  | .flip j => some (rawWord s pa ^^^ (1#32 <<< j))
  | .bad => none

/-- A stored word as firmware finds it: corrected where it can be; an uncorrectable one holds no more than a poisoned one, zero (R234). What
its read does to the word and to the counts is touch. -/
def corrWord (s : State) (pa : Nat) : W32 := (wordValue s pa).getD 0

/-- A stored double, corrected where it can be. -/
def rawDouble (s : State) (pa : Nat) : W64 := corrWord s (pa + 4) ++ corrWord s pa

/-! ### Lifetime counts (R404) -/

/-- The width of a count: 48 bits for trap causes, else 32. -/
def LifeKey.width : LifeKey → Nat
  | .trapCause _ => 48
  | _ => 32

/-- A list of counts with one raised by n, saturating at its width. -/
def bumpCount (k : LifeKey) (n : Nat) (l : List (LifeKey × Nat)) : List (LifeKey × Nat) :=
  match l with
  | [] => if n = 0 then [] else [(k, min n (2 ^ k.width - 1))]
  | c :: t => if c.1 = k then (k, min (c.2 + n) (2 ^ k.width - 1)) :: t else c :: bumpCount k n t

/-- The state with a count raised. -/
def State.count (s : State) (k : LifeKey) (n : Nat) : State := { s with life := bumpCount k n s.life }

/-- The word unit that stores a word: its pseudo-channel × 16 + die. -/
def wordUnit (s : State) (pa : Nat) : Nat := 16 * wordPch s pa + paIndex pa % 16

/-- A read of a DRAM word through its controller: a corrected word is counted and queued for its scrub (R233), an uncorrectable
one is counted and rewritten poisoned (R234, R235). -/
def dramRead (s : State) (pa : Nat) : Option W32 × State :=
  match wordFate (wordSyn s pa) with
  | .good => (some (rawWord s pa), s)
  | .bad => (none, (dramPoison s pa).count (.uncorrectable (wordUnit s pa)) 1)
  | _ =>
    let s1 := s.count (.corrected (wordUnit s pa)) 1
    let x := (wordValue s pa).getD 0
    (some x, { s1 with scrubs := s1.scrubs.filter (fun q => q.1 ≠ pa) ++ [(pa, x)] })

/-- Words read through their controllers by firmware: corrected ones are counted and queued for their scrubs, uncorrectable ones are counted
and poisoned (R233 to R235). -/
def touch (s : State) (pas : List Nat) : State := pas.foldl (fun s pa => if wordExists s pa then (dramRead s pa).2 else s) s

/-- Two words by the physical path (R280, R299): none when either is uncorrectable. -/
def dramRead64 (s : State) (pa : Nat) : Option W64 × State :=
  match dramRead s pa with
  | (none, s1) => (none, s1)
  | (some lo, s1) => match dramRead s1 (pa + 4) with
    | (none, s2) => (none, s2)
    | (some hi, s2) => (some (hi ++ lo), s2)

/-- A double written by the physical path. -/
def dramWrite64 (s : State) (pa : Nat) (x : W64) : State :=
  dramWrite (dramWrite s pa (x.setWidth 32)) (pa + 4) ((x >>> 32).setWidth 32)

/-! ### Requests at the controllers (R226, R228, R230) -/

/-- The die of a word within its stack. -/
def wordDie (pa : Nat) : Nat := paIndex pa % 16

/-- A word's die refreshes, or its pseudo-channel drains: a request for it waits. -/
def dieBusy (s : State) (pa : Nat) : Bool :=
  (match s.stks.toList[paStack pa]? with
    | some k => k.refreshing.getLsbD (wordDie pa)
    | none => false) ||
  match s.pchs.toList[wordPch s pa]? with
  | some p => p.drain
  | none => false

/-- A request queued at its controller, which holds up to 64; one that finds the queue full waits in its slice. Requests for one word
are served by one read. -/
def postReq (s : State) (r : WordReq) : State :=
  if (s.reqs.any fun q => q.pa == r.pa && q.key == r.key) ||
      decide (64 ≤ (s.reqs.filter fun q => wordPch s q.pa == wordPch s r.pa).length) then s
  else { s with reqs := s.reqs ++ [r] }

/-- A request for a word whose burst has failed, taken by its requester: whether there is one. -/
def takeFailed (s : State) (pa key : Nat) : Bool × State :=
  (s.reqs.any fun q => q.pa == pa && q.key == key && q.failed,
    { s with reqs := s.reqs.filter fun q => !(q.pa == pa && q.key == key) })

/-- A read for a requester, which ends its waiting request: a burst that has failed is not made again (R226, R235). -/
def reqRead (s : State) (pa key : Nat) : Option W32 × State :=
  if s.reqs.isEmpty then dramRead s pa
  else match takeFailed s pa key with
    | (true, s) => (none, s)
    | (false, s) => dramRead s pa

/-- Words of the physical path, each corrected where it can be (R232, R299); none when one is uncorrectable or does not exist. -/
def physWords (s : State) : List Nat → Option (List W32) × State
  | [] => (some [], s)
  | pa :: t =>
    match (if wordExists s pa then dramRead s pa else (none, s)) with
    | (none, s) => (none, s)
    | (some x, s) => match physWords s t with
      | (some xs, s) => (some (x :: xs), s)
      | r => r

end Sys2Proof.Machine
end

