-- ==== Sys2Proof/Machine/Groups.lean ====
section
/-! DEFINITION. Groups and contexts: where a group sits, its scalar registers, and the named updates of the state
(spec/05_slots_and_launches.md R95; spec/02 R28; spec/06 R117; spec/16 R331). -/

namespace Sys2Proof.Machine

/-! ### Groups and contexts -/

/-- A group by number. -/
def State.group? (s : State) (g : Nat) : Option Group := s.groups[g]?

/-- The state with a group replaced. -/
def State.setGroup (s : State) (g : Nat) (G : Group) : State := { s with groups := s.groups.set g G }

/-- The state with a group changed, if it exists. -/
def State.modGroup (s : State) (g : Nat) (f : Group → Group) : State :=
  { s with groups := s.groups.modify g f }

/-- The context of a group. -/
def State.ctxOf (s : State) (G : Group) : Option Context := s.contexts[G.bind.ctx]?

/-- The team of a group. -/
def State.teamOf (s : State) (G : Group) : Option Team := s.teams[G.bind.team]?

/-- The state with a team changed. -/
def State.modTeam (s : State) (t : Nat) (f : Team → Team) : State := { s with teams := s.teams.modify t f }

/-- The state with a context changed. -/
def State.modCtx (s : State) (c : Nat) (f : Context → Context) : State :=
  { s with contexts := s.contexts.modify c f }

/-- Core number in the part, 0 to 511 (R95). -/
def SlotId.coreId (l : SlotId) : Nat := (l.die.toNat * 2 + l.cluster.toNat) * 64 + l.core.toNat
/-- Cluster number in the part, 0 to 7. -/
def SlotId.clusterId (l : SlotId) : Nat := l.die.toNat * 2 + l.cluster.toNat
/-- Quadrant number in the part, 0 to 2047. -/
def SlotId.quadId (l : SlotId) : Nat := l.coreId * 4 + l.quad.toNat
/-- The LOC register (R95). -/
def SlotId.reg (l : SlotId) : W64 := (0#47 ++ l.die ++ l.cluster ++ l.core ++ l.quad ++ l.slot ++ 0#2).setWidth 64
/-- The GIDX register (R95). -/
def BindRec.gidx (b : BindRec) : W64 := (0#30 ++ b.teamNo ++ BitVec.ofBool b.role ++ b.group).setWidth 64

/-- A group runs and may issue. -/
def Group.running (G : Group) : Bool := G.inSlot && decide (G.status = .running) && G.halt.isNone

/-- A group is gone: it has exited or was removed. -/
def Group.gone (G : Group) : Bool := G.status == .exited || G.status == .removed

/-- The call records of a context with some of them abandoned: such a record is free once it is answered or timed out (R346). -/
def dropRecs (p : CallRec → Bool) (l : List CallRec) : List CallRec :=
  (l.map fun r => if p r then { r with dropped := true } else r).filter fun r => !(r.dropped && (r.answered || r.timeout))

/-- The lane stream is idle (R28). -/
def Group.laneIdle (G : Group) : Bool := G.lane.run.isNone && G.lane.dq.isEmpty

/-- The context of the group is privileged (R57). -/
def State.privOf (s : State) (G : Group) : Bool := match s.ctxOf G with
  | some c => c.priv
  | none => false

/-- The identifier of a group's context (R246). -/
def State.asidOf (s : State) (G : Group) : BitVec 16 := match s.ctxOf G with
  | some c => c.asid
  | none => 0

/-! ### Scalar registers (R117, R331) -/

/-- A scalar register as the executing code sees it: s0 is zero, and in handler mode s56 to s63 are the handler's. -/
def Group.sreg (G : Group) (r : SReg) : W64 :=
  if r = 0#6 then 0#64
  else if G.trap.hmode ∧ 56 ≤ r.toNat then G.sc.hregs.toList.getD (r.toNat - 56) 0
  else G.sc.sregs.toList.getD r.toNat 0

/-- A group with a scalar register written; a write to s0 is discarded. -/
def Group.setS (G : Group) (r : SReg) (x : W64) : Group :=
  if r = 0#6 then G
  else if G.trap.hmode ∧ 56 ≤ r.toNat then
    { G with sc := { G.sc with hregs := G.sc.hregs.setIfInBounds (r.toNat - 56) x } }
  else { G with sc := { G.sc with sregs := G.sc.sregs.setIfInBounds r.toNat x } }

/-- The address of fault record c of a group (R334). -/
def recAddr (G : Group) (c : Cause) : W64 := G.bind.area + BitVec.ofNat 64 (16896 + 384 * c)

end Sys2Proof.Machine
end

