-- ==== Sys2Proof/Machine/Packets.lean ====
section
/-! DEFINITION. What the part sends: packets with their SEQ and TAG, and notices (spec/18_fabric_and_collectives.md R378 to R380). -/

namespace Sys2Proof.Machine

/-- The next SEQ towards a destination, and the counters after it. -/
def nextSeq (d : BitVec 16) : List (BitVec 16 × W32) → W32 × List (BitVec 16 × W32)
  | [] => (0, [(d, 1)])
  | p :: t => if p.1 = d then (p.2, (d, p.2 + 1) :: t) else
    let (x, t') := nextSeq d t
    (x, p :: t')

/-- The state with the fabric part changed. -/
def State.modFab (s : State) (f : Fabric → Fabric) : State := { s with fab := f s.fab }

/-- A packet made ready to send, and the state with it sent. -/
def sendPkt (s : State) (kind : BitVec 8) (dst asid : BitVec 16) (tag : W32) (body : PktBody) : Packet × State :=
  let (n, seqs) := nextSeq dst s.fab.seqOut
  let p : Packet := ⟨kind, dst, asid, n, tag, body⟩
  (p, s.modFab fun f => { f with seqOut := seqs, outbox := f.outbox ++ [p] })

/-- A TAG of the part's own. -/
def freshTag (s : State) : W32 × State :=
  (s.fab.tagCtr, s.modFab fun f => { f with tagCtr := f.tagCtr + 1 })

/-- A NOTICE sent to one party and kept until it is answered (R379, R380). -/
def noticeTo (s : State) (dst asid : BitVec 16) (body : PktBody) : State :=
  let (t, s) := freshTag s
  let (p, s) := sendPkt s 0x40#8 dst asid t body
  s.modFab fun f => { f with notices := f.notices ++ [p] }

/-- The host nodes and the fabric manager. -/
def Fabric.watchers (f : Fabric) : List (BitVec 16) := (f.hosts ++ [f.manager]).eraseDups

/-- A NOTICE about a context to the host that created it. -/
def noticeCtx (s : State) (ctxNo : Nat) (body : PktBody) : State :=
  match s.contexts[ctxNo]? with
  | some c => noticeTo s c.creator c.asid body
  | none => s

/-- A NOTICE about the part to every host node and the fabric manager. -/
def noticeAll (s : State) (body : PktBody) : State :=
  s.fab.watchers.foldl (fun s d => noticeTo s d 0xFFFF#16 body) s

end Sys2Proof.Machine
end

