-- ==== Sys2Proof/Machine/Xlate.lean ====
section
/-! DEFINITION. Translation and existence: home units, page walks, TLBs, permissions, the fault service's answers, and the
existence map with its frame pools (spec/13_translation_and_frames.md, spec/14_existence_tiles.md R298 to R307). -/

namespace Sys2Proof.Machine

/-- The global identifier (R246). -/
def globalTag : BitVec 16 := 0xFFFF#16

/-! ### Leaves (R280, R281) -/

def leafV (l : W64) : Bool := l.getLsbD 0
def leafLeaf (l : W64) : Bool := l.getLsbD 1
def leafW (l : W64) : Bool := l.getLsbD 2
def leafX (l : W64) : Bool := l.getLsbD 3
def leafU (l : W64) : Bool := l.getLsbD 4
def leafG (l : W64) : Bool := l.getLsbD 5
def leafDesc (l : W64) : Bool := l.getLsbD 6
def leafSparse (l : W64) : Bool := l.getLsbD 7
def leafPin (l : W64) : Bool := l.getLsbD 39
/-- What a leaf allows. -/
def leafPerm (l : W64) : LinePerm := ⟨leafW l, leafU l, leafX l⟩
/-- The permissions of a word after a write: as they stood, with W. -/
def LinePerm.written (p : LinePerm) : LinePerm := { p with w := true }
/-- Physical address bits [38:8] of an entry, the low byte zero. -/
def leafAddr (l : W64) : Nat := bitsOf l.toNat 38 8 * 256

/-- The home stack of a page (R282). -/
def homeFold (v : Nat) : Nat → Nat
  | 0 => 0
  | j + 1 => Nat.xor (bitsOf v (23 + 3 * j) (21 + 3 * j)) (homeFold v j)

/-- The home stack of the page of a virtual address under an identifier (R282). -/
def homeStack (tag : BitVec 16) (va : Nat) : Nat := Nat.xor (bitsOf tag.toNat 2 0) (homeFold (va % 2 ^ 56) 12)

/-- The identifier under which a leaf is filled (R246, R280). -/
def leafTag (asid : BitVec 16) (l : W64) : BitVec 16 := if leafG l then globalTag else asid

/-- Whether a leaf or pointer at a level is malformed (R281). -/
def entryBad (s : State) (asid : BitVec 16) (va level : Nat) (e : W64) : Bool :=
  let a := leafAddr e
  let reserved := decide (bitsOf e.toNat 47 40 ≠ 0)
  if leafLeaf e then
    let big := decide (level = 1)
    let align := if leafSparse e then (if big then 4096 else 128) else (if big then 2 ^ 21 else 2 ^ 16)
    reserved || decide (2 ≤ level) || decide (a % align ≠ 0) || (leafSparse e && leafDesc e) ||
      (leafX e && (leafSparse e || leafDesc e)) ||
      decide (paStack a ≠ homeStack (leafTag asid e) va) || !wordExists s a
  else
    let align := if level = 1 then 256 else 65536
    reserved || decide (level = 0) || leafPin e || leafSparse e || leafDesc e || leafG e || leafX e || leafW e ||
      decide (a % align ≠ 0)

/-- The index of an address in the table of a level (R279). -/
def tableIndex (va level : Nat) : Nat :=
  match level with
  | 3 => bitsOf va 55 47
  | 2 => bitsOf va 46 34
  | 1 => bitsOf va 33 21
  | _ => bitsOf va 20 16

/-- A translation fault (R286, R287): its subcode, and what the entries met say of its page: 2 MiB, and global. -/
structure XFault where
  sub : Nat
  big : Bool
  glob : Bool
  deriving DecidableEq, Repr

/-- A fault at a page of which no leaf says more. -/
def XFault.of (sub : Nat) : XFault := ⟨sub, false, false⟩
/-- A fault under a leaf. -/
def XFault.under (sub : Nat) (l : W64) (big : Bool) : XFault := ⟨sub, big, leafG l⟩

/-- What a walk finds: a leaf and whether its page is 2 MiB, or a fault. -/
inductive WalkRes where
  | leaf (l : W64) (big : Bool)
  | fault (f : XFault)
  deriving DecidableEq, Repr

/-- One entry of a walk: a fault, a leaf, or the table of the next level. -/
inductive EntryRes where
  | fault (f : XFault)
  | leaf (l : W64)
  | table (a : Nat)
  deriving DecidableEq, Repr

/-- The entry for an address in the table of a level (R279 to R281, R286). -/
def walkEntry (s : State) (asid : BitVec 16) (va table level : Nat) : EntryRes × State :=
  let ea := table + 8 * tableIndex va level
  match (if wordExists s ea then dramRead64 s ea else (none, s)) with
  | (none, s) => (.fault (.of 3), s)
  | (some e, s) =>
    if !leafV e then (.fault (.of 1), s)
    else if entryBad s asid va level e then
      (.fault (if leafLeaf e && decide (level ≤ 1) then .under 2 e (decide (level = 1)) else .of 2), s)
    else if leafLeaf e then (.leaf e, s)
    else (.table (leafAddr e), s)

/-- The walk from a table at a level down (R279 to R281, R286). -/
def walkFrom (s : State) (asid : BitVec 16) (va table : Nat) : Nat → WalkRes × State
  | 0 => match walkEntry s asid va table 0 with
    | (.fault k, s) => (.fault k, s)
    | (.leaf l, s) => (.leaf l false, s)
    | (.table _, s) => (.fault (.of 2), s)
  | n + 1 => match walkEntry s asid va table (n + 1) with
    | (.fault k, s) => (.fault k, s)
    | (.leaf l, s) => (.leaf l (decide (n = 0)), s)
    | (.table a, s) => walkFrom s asid va a n

/-! ### TLB (R283) -/

/-- A TLB entry maps an address of an identifier. -/
def TlbEntry.hits (t : TlbEntry) (asid : BitVec 16) (va : Nat) : Bool :=
  (t.tag == asid || t.tag == globalTag) &&
  (if t.big then va / 2 ^ 21 == t.page / 32 else va / 2 ^ 16 == t.page)

/-- The entry that maps an address. -/
def tlbFind (s : State) (asid : BitVec 16) (va : Nat) : Option TlbEntry := s.tlb.find? (·.hits asid va)

/-- Drops entries of a home stack beyond n, the least recently used ones. -/
def capHome (h n : Nat) : List TlbEntry → List TlbEntry
  | [] => []
  | t :: r =>
    if homeStack t.tag (t.page * 65536) = h then
      match n with
      | 0 => capHome h 0 r
      | n + 1 => t :: capHome h n r
    else t :: capHome h n r

/-- The TLB with an entry made most recently used; a home unit holds 32,768. -/
def tlbUse (s : State) (t : TlbEntry) : State :=
  { s with tlb := capHome (homeStack t.tag (t.page * 65536)) 32768 (t :: s.tlb.filter (· ≠ t)) }

/-! ### Permissions (R284, R286) -/

/-- What an access needs. own marks the part's own accesses, which ignore U. -/
inductive Need where
  | read | write | exec | own
  deriving DecidableEq, Repr

/-- The subcode of a permission failure, if a leaf fails a need (R284, R286). -/
def permFault (l : W64) (n : Need) : Option Nat :=
  if n = .own then none
  else if !leafU l then some 6
  else if n = .write ∧ leafW l = false then some 5
  else if n = .exec ∧ leafX l = false then some 7
  else none

/-- A translation: the leaf and its page size, or a fault. -/
inductive XRes where
  | ok (l : W64) (big : Bool)
  | fault (f : XFault)
  deriving DecidableEq, Repr

/-- The number of the page of an address in 64 KiB units; of a 2 MiB page, its first. -/
def pageNo (va : Nat) (big : Bool) : Nat := if big then va / 2 ^ 21 * 32 else va / 2 ^ 16

/-- A page of a number and size holds an address. -/
def pageHolds (page : Nat) (big : Bool) (va : Nat) : Bool := pageNo va big == page

/-- Translation at the home unit: its TLB, then a walk; a failing entry of the TLB is walked again (R283, R284). -/
def xlate (s : State) (ctx : Context) (va : Nat) (n : Need) : XRes × State :=
  let walk : XRes × State :=
    match walkFrom s ctx.asid va ctx.root 3 with
    | (.fault f, s) => (.fault f, s)
    | (.leaf l big, s) =>
      match permFault l n with
      | some k => (.fault (.under k l big), s)
      | none =>
        let s := { s with tlb := s.tlb.filter fun t => !t.hits ctx.asid va }
        (.ok l big, tlbUse s ⟨leafTag ctx.asid l, pageNo va big, big, l⟩)
  match tlbFind s ctx.asid va with
  | none => walk
  | some t =>
    match permFault t.leaf n with
    | none => (.ok t.leaf t.big, tlbUse s t)
    | some _ => walk

/-- The physical address of a virtual one under a leaf (R223, R279). -/
def leafPa (l : W64) (big : Bool) (va : Nat) : Nat :=
  leafAddr l + (if big then va % 2 ^ 21 else va % 2 ^ 16)

/-! ### The fault service's answers (R286, R287) -/

/-- The cause by which a subcode is delivered (R286). -/
def faultCause (sub : Nat) : Cause := if sub = 5 ∨ sub = 6 ∨ sub = 7 then cPROT else cXLAT

/-- XLCTL.NOSVC (R295). -/
def Context.nosvc (c : Context) : Bool := c.xlctl.getLsbD 1
/-- XLCTL.FSVC (R295). -/
def Context.fsvc (c : Context) : BitVec 2 := c.xlctl.extractLsb' 2 2
/-- XLCTL.DLTEN with DERR clear (R294, R295). -/
def Context.tracking (c : Context) : Bool := c.xlctl.getLsbD 5 && !c.xlctl.getLsbD 6

/-- What becomes of a translation fault that a party meets: delivered with a cause and subcode, or waiting in the service. -/
inductive FaultAns where
  | deliver (c : Cause) (sub : Nat)
  | waiting
  deriving DecidableEq, Repr

/-- The die of a home unit: each compute die sits beside two stacks (R13, R287). -/
def stackDie (st : Nat) : Nat := st / 2

/-- An open record of a context covers an address. -/
def OpenFault.covers (f : OpenFault) (ctxNo va : Nat) : Bool := !f.closed && f.ctx == ctxNo && pageHolds f.page f.big va

/-- The die whose management core serves a fault: the home unit's, which for a G page is that of the global identifier (R282, R287). -/
def faultDie (ctx : Context) (va : Nat) (f : XFault) : Nat :=
  stackDie (homeStack (if f.glob then globalTag else ctx.asid) va)

/-- A record posted for a fault, if its die has room for one (R287); with FSVC = 2 the host is told. -/
def openRecord (s : State) (ctxNo : Nat) (ctx : Context) (joined : List (Party × Nat)) (va : Nat) (f : XFault) : State :=
  let die := faultDie ctx va f
  if (s.faults.filter fun f => !f.closed && f.die == die).length < 256 then
    let n := s.faults.length
    let s := { s with faults := s.faults ++ [⟨ctxNo, pageNo va f.big, f.big, f.sub, joined, ctx.fsvc = 2#2, die, false⟩] }
    if ctx.fsvc = 2#2 then noticeCtx s ctxNo (.faultRecord n) else s
  else s

/-- A fault met by a party (R287): a delivered verdict is met at once, subcode 4 and XLCTL.NOSVC deliver without service, and
otherwise the fault joins the page's open record or posts one, 256 a die. -/
def postFault (s : State) (ctxNo : Nat) (ctx : Context) (party : Party) (va : Nat) (f : XFault) : FaultAns × State :=
  match s.verdicts.find? fun v => v.party = party ∧ pageHolds v.page v.big va = true with
  | some v => (.deliver v.cause v.sub, s)
  | none =>
    if f.sub = 4 ∨ ctx.nosvc = true then (.deliver (faultCause f.sub) f.sub, s)
    else if s.faults.any fun r => r.covers ctxNo va then
      let join (r : OpenFault) : OpenFault :=
        if !r.covers ctxNo va || r.joined.any fun p => p.1 == party then r else { r with joined := r.joined ++ [(party, f.sub)] }
      (.waiting, { s with faults := s.faults.map join })
    else (.waiting, openRecord s ctxNo ctx [(party, f.sub)] va f)

/-! ### The existence map (R298, R299) -/

/-- The physical address of a tile's map entry. -/
def mapEntry (l : W64) (big : Bool) (va : Nat) : Nat :=
  leafAddr l + 8 * (if big then bitsOf va 20 12 else bitsOf va 15 12)

/-- REGION of a map entry. -/
def mapRegion (e : W64) : BitVec 8 := e.extractLsb' 48 8
/-- The tile frame of a map entry. -/
def mapFrame (e : W64) : Nat := bitsOf e.toNat 38 12 * 4096

/-- The words of a region descriptor, by byte offset (R301). -/
def regionAt (c : Context) (r : BitVec 8) (off : Nat) : Nat := c.regions + 64 * r.toNat + off

/-- VALID of a region, read without a side effect. -/
def regionValid (s : State) (c : Context) (r : BitVec 8) : Bool := (corrWord s (regionAt c r 4)).getLsbD 0

/-- The REGION fields of n entries from an address on agree with one, as far as they can be read (R298, R299). -/
def sameRegion (s : State) (a : Nat) (r : BitVec 8) : Nat → Bool
  | 0 => true
  | n + 1 => ((wordValue s (a + 4)).isNone || decide (mapRegion (rawDouble s a) = r)) && sameRegion s (a + 8) r n

/-- What an existence read finds. -/
inductive ExRes where
  | present (frame : Nat) (r : BitVec 8)
  | absent (r : BitVec 8)
  | fault (sub : Nat)
  deriving DecidableEq, Repr

/-- A map entry is malformed (R299), given the region's FLAGS, the first entry of its page and how many the page has. -/
def mapBad (s : State) (flags : W32) (first n : Nat) (e : W64) : Bool :=
  decide (bitsOf e.toNat 62 56 ≠ 0) || decide (bitsOf e.toNat 47 39 ≠ 0) || decide (bitsOf e.toNat 11 0 ≠ 0) ||
  (!e.getLsbD 63 && decide (mapFrame e ≠ 0)) || !flags.getLsbD 0 ||
  !sameRegion s first (mapRegion e) n || !wordExists s (mapFrame e)

/-- A word by the physical path, none when it is uncorrectable or does not exist. -/
def physRead (s : State) (pa : Nat) : Option W32 × State :=
  if wordExists s pa then dramRead s pa else (none, s)

/-- One read of a tile's existence location (R273, R299): the entry, and FLAGS of its region. big gives the number of entries of the
page. -/
def readExist (s : State) (c : Context) (ex : Nat) (big : Bool) : ExRes × State :=
  match dramRead64 s ex with
  | (none, s) => (.fault 3, s)
  | (some e, s) => match physRead s (regionAt c (mapRegion e) 4) with
    | (none, s) => (.fault 3, s)
    | (some flags, s) =>
      let n := if big then 512 else 16
      if mapBad s flags (ex / (8 * n) * (8 * n)) n e then (.fault 2, s)
      else if e.getLsbD 63 then (.present (mapFrame e) (mapRegion e), s)
      else (.absent (mapRegion e), s)

/-! ### Frame pools (R302) -/

/-- What a take gives. -/
inductive TakeRes where
  | frame (f : BitVec 27)
  | empty
  | fault (sub : Nat)
  deriving DecidableEq, Repr

/-- Taking a frame from the top of a region's pool (R302); an uncorrectable word fails the take with nothing done (R299). -/
def poolTake (s : State) (c : Context) (r : BitVec 8) : TakeRes × State :=
  match physRead s (regionAt c r 16) with
  | (none, s) => (.fault 3, s)
  | (some free, s) =>
    if free = 0#32 then (.empty, s)
    else match dramRead64 s (regionAt c r 8) with
      | (none, s) => (.fault 3, s)
      | (some poola, s) =>
        match physRead s (poola.toNat + 4 * (free.toNat - 1)) with
        | (none, s) => (.fault 3, s)
        | (some f, s) =>
          match physRead s (regionAt c r 24) with
          | (none, s) => (.fault 3, s)
          | (some born, s) =>
            match dramRead64 s (regionAt c r 32) with
            | (none, s) => (.fault 3, s)
            | (some births, s) =>
              let s := dramWrite s (regionAt c r 16) (free - 1)
              let s := dramWrite s (regionAt c r 24) (born + 1)
              (.frame (f.setWidth 27), dramWrite64 s (regionAt c r 32) (births + 1))

/-- Returning a frame to the top of a region's pool (R302); false when a word of it is uncorrectable, with nothing done. -/
def poolReturn (s : State) (c : Context) (r : BitVec 8) (f : BitVec 27) : Bool × State :=
  match physRead s (regionAt c r 16), dramRead64 s (regionAt c r 8) with
  | (some free, _), (some poola, _) =>
    match physRead s (regionAt c r 24), dramRead64 s (regionAt c r 40) with
    | (some born, _), (some erases, _) =>
      let s := dramWrite s (poola.toNat + 4 * free.toNat) (f.setWidth 32)
      let s := dramWrite s (regionAt c r 16) (free + 1)
      let s := dramWrite s (regionAt c r 24) (born - 1)
      (true, dramWrite64 s (regionAt c r 40) (erases + 1))
    | _, _ => (false, s)
  | _, _ => (false, s)

/-- A region's pool as its descriptor gives it: FLAGS, POOLA, FREE, CAP, BORN and REFILL, each read by the physical path; none when a
word is uncorrectable (R299, R301). -/
structure Pool where
  flags : W32
  base : Nat
  free : Nat
  cap : Nat
  born : Nat
  refill : Nat
  deriving DecidableEq, Repr

/-- The descriptor's words by byte offset. -/
def readPool (s : State) (c : Context) (r : BitVec 8) : Option Pool × State :=
  match physWords s ([4, 8, 12, 16, 20, 24, 28].map (regionAt c r)) with
  | (some [fl, lo, hi, free, cap, born, re], s) => (some ⟨fl, (hi ++ lo).toNat, free.toNat, cap.toNat, born.toNat, re.toNat⟩, s)
  | (_, s) => (none, s)

/-- How many frames a pool can still take. -/
def Pool.room (p : Pool) : Nat := p.cap - p.free - p.born

/-- Pushing frames onto a pool, as many as CAP − FREE − BORN allows (R307). -/
def poolPush (s : State) (c : Context) (r : BitVec 8) (p : Pool) (fs : List (BitVec 27)) : State :=
  let use := fs.take p.room
  let put : Nat → State → BitVec 27 → State := fun k s f => dramWrite s (p.base + 4 * (p.free + k)) (f.setWidth 32)
  let s := (use.zipIdx).foldl (fun s q => put q.2 s q.1) s
  dramWrite s (regionAt c r 16) (BitVec.ofNat 32 (p.free + use.length))

/-! ### Free frames (R289, R302, R307) -/

/-- The tile frames of a 64 KiB frame. -/
def tileFrames (f : Nat) : List (BitVec 27) := (List.range 16).map fun i => BitVec.ofNat 27 (f / 4096 + i)

/-- Takes n 64 KiB frames from the free lists, lowest stack first. -/
def takeFrames (fs : List (List Nat)) (n : Nat) : List Nat × List (List Nat) :=
  match fs with
  | [] => ([], [])
  | l :: t =>
    let mine := l.take n
    let (rest, t') := takeFrames t (n - mine.length)
    (mine ++ rest, l.drop n :: t')

/-- Takes up to n tile frames: those left of split frames first, then 64 KiB frames of any stack are split. -/
def takeTiles (s : State) (n : Nat) : List (BitVec 27) × State :=
  let mine := s.tiles.take n
  let k := n - mine.length
  let (fs, rest) := takeFrames s.frames.toList ((k + 15) / 16)
  let more := fs.flatMap tileFrames
  (mine ++ more.take k, { s with frames := Vector.ofFn fun i => rest.getD i.val [], tiles := s.tiles.drop n ++ more.drop k })

/-- Firmware's refill of a pool under AUTOF, up to REFILL frames (R306); none when a word of the descriptor is uncorrectable. -/
def autoRefill (s : State) (c : Context) (r : BitVec 8) : Option State × State :=
  match physRead s (regionAt c r 4) with
  | (none, s) => (none, s)
  | (some flags, s) =>
    if flags.getLsbD 2 then
      match readPool s c r with
      | (none, s) => (none, s)
      | (some p, s) =>
        let (fs, s) := takeTiles s (min p.refill p.room)
        (some (poolPush s c r p fs), s)
    else (some s, s)

/-- A take, retried once after an AUTOF refill (R306). -/
def takeBorn (s : State) (c : Context) (r : BitVec 8) : TakeRes × State :=
  match poolTake s c r with
  | (.empty, s) => match autoRefill s c r with
    | (some s, _) => poolTake s c r
    | (none, s) => (.fault 3, s)
  | x => x

/-- n words of a frame written with a value. -/
def fillWords (s : State) (pa : Nat) (x : W32) : Nat → State
  | 0 => s
  | n + 1 => fillWords (dramWrite s pa x) (pa + 4) x n

/-- A birth's effect on its tile, without its record in the delta map: the frame's first byte, or none with the subcode of its fault, or with
no subcode where the pool is empty (R304). -/
def birthTile (s : State) (c : Context) (r : BitVec 8) (ex : Nat) : Except (Option Nat) Nat × State :=
  match physRead s (regionAt c r 0) with
  | (none, s) => (.error (some 3), s)
  | (some dflt, s) =>
    match takeBorn s c r with
    | (.fault k, s) => (.error (some k), s)
    | (.empty, s) => (.error none, s)
    | (.frame f, s) =>
      let s := fillWords s (f.toNat * 4096) dflt 1024
      let e : W64 := (1#64 <<< 63) ||| (zext64 r <<< 48) ||| (zext64 f <<< 12)
      (.ok (f.toNat * 4096), dramWrite64 s ex e)

end Sys2Proof.Machine
end

