-- ==== Sys2Proof/Machine/Cache.lean ====
section
/-! DEFINITION. The two cache levels as one directory of words in blocks, escrow and its settlement, replacement, write-back with the
delta map, and the writes of groups on their way (spec/11_caches_atomics_escrow.md R244 to R261; spec/12_ordering.md R265; spec/13 R285,
R294; spec/17 R355, R356). -/

namespace Sys2Proof.Machine

/-! ### The directory -/

/-- The key of a word: identifier and virtual word number. -/
def lineKey (tag : BitVec 16) (word : Nat) : Nat := tag.toNat * 2 ^ 54 + word
/-- The virtual word number of a key. -/
def keyWord (key : Nat) : Nat := key % 2 ^ 54
/-- The identifier of a key. -/
def keyTag (key : Nat) : BitVec 16 := BitVec.ofNat 16 (key / 2 ^ 54)

/-- The cached word under a key. -/
def findLine (s : State) (key : Nat) : Option Line := s.lines.find? fun l => l.key == key

/-- The cached word that an address of a context hits: its own identifier or the global one (R246). -/
def hitLine (s : State) (asid : BitVec 16) (word : Nat) : Option Line :=
  match findLine s (lineKey asid word) with
  | some l => some l
  | none => findLine s (lineKey globalTag word)

/-- The state without a cached word. -/
def dropLine (s : State) (key : Nat) : State := { s with lines := s.lines.filter fun l => l.key != key }

/-- The state with a cached word in place of any other under its key. -/
def putLine (s : State) (l : Line) : State := { s with lines := l :: s.lines.filter fun x => x.key != l.key }

/-! ### Operations of atomics and escrow (R254, R255, R257) -/

/-- Signed and natural minimum and maximum of words. -/
def wMinI (a b : W32) : W32 := if a.toInt ≤ b.toInt then a else b
def wMaxI (a b : W32) : W32 := if a.toInt ≤ b.toInt then b else a
def wMinN (a b : W32) : W32 := if a.toNat ≤ b.toNat then a else b
def wMaxN (a b : W32) : W32 := if a.toNat ≤ b.toNat then b else a

/-- FP32 addition rounded RNE, with the canonical NaN (R74, R75). -/
def f32Add (a b : W32) : W32 :=
  BitVec.ofNat 32 ((exactAdd .rne (decodeIeee fmtF32 a.toNat) (decodeIeee fmtF32 b.toNat)).round fmtF32 .rne).1

/-- op(partial, operand) of an escrow tag. -/
def EscTag.apply (t : EscTag) (a b : W32) : W32 :=
  match t with
  | .addI => a + b
  | .addF => f32Add a b
  | .minI => wMinI a b
  | .minN => wMinN a b
  | .maxI => wMaxI a b
  | .maxN => wMaxN a b
  | .and => a &&& b
  | .or => a ||| b
  | .xor => a ^^^ b

/-- Removes the element at a position: the element and the rest. -/
def pickAt {α : Type} (d : α) (l : List α) (i : Nat) : α × List α := (l.getD i d, l.eraseIdx i)

/-- Merges leaves pairwise, each pair chosen by Config.mergeChoice (R89), for at most n merges from the k-th choice on. -/
def mergeLeaves (op : W32 → W32 → W32) (k : Nat) (l : List W32) : Nat → W32
  | 0 => l.headD 0
  | n + 1 =>
    if l.length ≤ 1 then l.headD 0
    else
      let c := Config.mergeChoice k
      let (x, l1) := pickAt 0 l (c % l.length)
      let (y, l2) := pickAt 0 l1 (c / l.length % l1.length)
      mergeLeaves op (k + 1) (op x y :: l2) n

/-- The settled value of a base and its partials (R258). -/
def settledValue (s : State) (t : EscTag) (base : W32) (parts : List W32) : W32 :=
  match t with
  | .addF => mergeLeaves f32Add s.freeCtr (base :: parts) parts.length
  | _ => parts.foldl t.apply base

/-- Settlement of a cached word (R258, R260): a word in escrow becomes dirty in the shared cache; over poison its partials are
discarded and counted. -/
def settle (s : State) (key : Nat) : State :=
  match findLine s key with
  | some l =>
    match l.st with
    | .escrow t (some b) ps =>
      putLine (s.useFree ps.length) { l with st := .dirty (settledValue s t b (ps.map (·.2))) [] }
    | .escrow _ none ps =>
      (dropLine s key).count (.escrowLost (homeStack (keyTag key) (keyWord key * 4))) ps.length
    | _ => s
  | none => s

/-- The value of a settled line. -/
def Line.value (l : Line) : W32 :=
  match l.st with
  | .clean v _ => v
  | .dirty v _ => v
  | .owned _ v => v
  | .escrow _ b _ => b.getD 0

/-- The core caches that hold a line. -/
def Line.holders (l : Line) : List Nat :=
  match l.st with
  | .clean _ h => h
  | .dirty _ h => h
  | .owned c _ => [c]
  | .escrow _ _ ps => ps.map (·.1)

/-- Memory or a line is newer than memory. -/
def Line.isDirty (l : Line) : Bool :=
  match l.st with
  | .clean _ _ => false
  | _ => true

/-- A directory's holder set (R249, R261): exact for up to four core caches, beyond that a bit per cluster. -/
inductive Holders where
  | exact (cores : List Nat)
  | clusters (bits : BitVec 8)
  deriving DecidableEq, Repr

/-- The cluster of a core. -/
def clusterOf (core : Nat) : Nat := core / 64

/-- The holder set that a block's directory entry keeps of some core caches. -/
def dirHolders (cores : List Nat) : Holders :=
  if cores.length ≤ 4 then .exact cores
  else .clusters (cores.foldl (fun m c => m ||| (1#8 <<< clusterOf c)) 0)

/-- A recall or an invalidation reaches a core: a holder, or under a cluster bit every core of the cluster. -/
def Holders.reaches (h : Holders) (core : Nat) : Bool :=
  match h with
  | .exact cs => cs.contains core
  | .clusters m => m.getLsbD (clusterOf core)

/-- The line with a core cache holding a clean copy after a read; an owner writes back and keeps a copy (R249). -/
def Line.readBy (l : Line) (core : Nat) : Line :=
  match l.st with
  | .clean v h => { l with st := .clean v (if h.contains core then h else core :: h) }
  | .dirty v h => { l with st := .dirty v (if h.contains core then h else core :: h) }
  | .owned c v => if c = core then l else { l with st := .dirty v [core, c] }
  | .escrow _ _ _ => l

/-! ### Device-level accesses of the part (R294) -/

/-- A word at the directory or in memory, without filling a cache: for the part's own accesses. -/
def devRead (s : State) (key pa : Nat) : Option W32 × State :=
  let s := settle s key
  match findLine s key with
  | some l => (some l.value, s)
  | none => if wordExists s pa then dramRead s pa else (none, s)

/-- A full word written at the directory when it is cached there, else in memory. A word that only the part has made newer than memory is
recorded by no context (R294). -/
def devWrite (s : State) (key pa : Nat) (x : W32) : State :=
  let s := settle s key
  match findLine s key with
  | some l => putLine s { l with st := .dirty x [], ctx := if l.isDirty then l.ctx else none }
  | none => dramWrite s pa x

/-- DELTA.BASE as an address. -/
def Context.deltaAddr (c : Context) : Nat := c.deltaBase.toNat * 2 ^ 16

/-- The address of the delta record of a virtual address (R294). -/
def deltaRec (c : Context) (va : Nat) : Nat :=
  c.deltaAddr + 128 * bitsOf va (15 + c.deltaLogn.toNat) 16

/-- Tracking stops with DERR set (R294). -/
def deltaFail (s : State) (ctxNo : Nat) : State :=
  s.modCtx ctxNo fun c => { c with xlctl := c.xlctl ||| 0x40#7 }

/-- The frame byte of an address of the delta map; none where it faults. The map may lie on a sparse page: an absent tile is born, and, as for
the part's other writes to the map, records nothing (R294, R304). -/
def deltaPlace (s : State) (c : Context) (r : Nat) : Option (BitVec 16 × Nat) × State :=
  if 2 ^ 56 ≤ r then (none, s)
  else match xlate s c r .own with
    | (.fault _, s) => (none, s)
    | (.ok l big, s) =>
      let tag := leafTag c.asid l
      if leafW l = false then (none, s)
      else if leafSparse l = false then (some (tag, leafPa l big r), s)
      else match readExist s c (mapEntry l big r) big with
        | (.fault _, s) => (none, s)
        | (.present f _, s) => (some (tag, f + r % 4096), s)
        | (.absent g, s) => match birthTile s c g (mapEntry l big r) with
          | (.ok f, s) => (some (tag, f + r % 4096), s)
          | (.error _, s) => (none, s)

/-- TAG of a delta record after an event of a page. -/
def deltaTag (t page : W64) : W64 :=
  if t.getLsbD 0 = false then (t &&& ~~~0x00FFFFFFFFFF0000#64) ||| page ||| 1#64
  else if t &&& 0x00FFFFFFFFFF0000#64 ≠ page then t ||| 2#64 else t

/-- Records one sector of a context's delta map (R294): TAG and MASK in one go, or DERR. -/
def recordSector (s : State) (ctxNo va : Nat) : State :=
  match s.contexts[ctxNo]? with
  | none => s
  | some c =>
    if c.tracking = false then s
    else
      let r := deltaRec c va
      match deltaPlace s c r with
      | (none, s) => deltaFail s ctxNo
      | (some (tag, pa), s) =>
        let k := lineKey tag (r / 4)
        let n := bitsOf va 15 7
        let m := 2 + n / 32
        match devRead s (k + m) (pa + 4 * m) with
        | (none, s) => deltaFail s ctxNo
        | (some mask, s) => match devRead s k pa with
          | (none, s) => deltaFail s ctxNo
          | (some lo, s) => match devRead s (k + 1) (pa + 4) with
            | (none, s) => deltaFail s ctxNo
            | (some hi, s) =>
              let t := deltaTag (hi ++ lo) (BitVec.ofNat 64 (bitsOf va 55 16 * 2 ^ 16))
              let s := devWrite s k pa (t.setWidth 32)
              let s := devWrite s (k + 1) (pa + 4) ((t >>> 32).setWidth 32)
              devWrite s (k + m) (pa + 4 * m) (mask ||| (1#32 <<< (n % 32)))

/-- Records n sectors from an address on. -/
def recordSectors (s : State) (ctxNo va : Nat) : Nat → State
  | 0 => s
  | n + 1 => recordSectors (recordSector s ctxNo va) ctxNo (va + 128) n

/-! ### Write-back and eviction (R248, R259, R285) -/

/-- A settled word that is newer than memory written back to its frame, without the delta record. A request for it that has waited at the
controller has its answer in the line that is written back: none stands before the write (R226). -/
def writeBackWord (s : State) (l : Line) : State :=
  match l.pa with
  | some pa => if l.isDirty then dramWrite { s with reqs := s.reqs.filter fun r => r.pa ≠ pa } pa l.value else s
  | none => s

/-- The lines whose keys lie in a range. -/
def linesIn (s : State) (lo n : Nat) : List Line := s.lines.filter fun l => decide (lo ≤ l.key) && decide (l.key < lo + n)

/-- Settles every word of a key range. -/
def settleRange (s : State) (lo n : Nat) : State := (linesIn s lo n).foldl (fun s l => settle s l.key) s

/-- The blocks, by first key, of dirty words of a list, each once, with a context that records them. -/
def dirtyBlocks (ls : List Line) : List (Nat × Nat) :=
  (ls.filterMap fun l => match l.ctx with
    | some c => if l.isDirty && l.pa.isSome then some (l.key / 32 * 32, c) else none
    | none => none).eraseDups

/-- The blocks that lie within a key range leave both levels. -/
def dropBlocks (s : State) (lo n : Nat) : State :=
  let gone (b : Nat) : Bool := decide (lo ≤ 32 * b) && decide (32 * b + 32 ≤ lo + n)
  { s with coreUse := s.coreUse.filter fun p => !gone p.2, shUse := s.shUse.filter fun p => !gone p.1 }

/-- Writes back every dirty word of a key range, settling escrow, and drops the words from both levels. -/
def flushRange (s : State) (lo n : Nat) : State :=
  let s := settleRange s lo n
  let ls := linesIn s lo n
  let s := ls.foldl writeBackWord s
  let s := dropBlocks { s with lines := s.lines.filter fun l => !(decide (lo ≤ l.key) && decide (l.key < lo + n)) } lo n
  (dirtyBlocks ls).foldl (fun s b => recordSector s b.2 (keyWord b.1 * 4)) s

/-- Drops every word of a key range unwritten (R309). -/
def discardRange (s : State) (lo n : Nat) : State :=
  dropBlocks { s with lines := s.lines.filter fun l => !(decide (lo ≤ l.key) && decide (l.key < lo + n)) } lo n

/-- A line as a core cache's eviction leaves it: an owned word is written to the shared cache, a copy goes, a partial is merged
into the base (R248, R259). -/
def Line.evictCore (l : Line) (core : Nat) : Line :=
  match l.st with
  | .clean v h => { l with st := .clean v (h.filter (· ≠ core)) }
  | .dirty v h => { l with st := .dirty v (h.filter (· ≠ core)) }
  | .owned c v => if c = core then { l with st := .dirty v [] } else l
  | .escrow t b ps =>
    let mine := (ps.filter fun p => p.1 == core).map (·.2)
    let rest := ps.filter fun p => p.1 != core
    match b with
    | some x =>
      let y := mine.foldl t.apply x
      if rest.isEmpty then { l with st := .dirty y [] } else { l with st := .escrow t (some y) rest }
    | none => l

/-- The contexts that record the write-back of a core cache's block: those of its owned words (R294). -/
def ownedBlocks (core : Nat) (ls : List Line) : List (Nat × Nat) :=
  dirtyBlocks (ls.filter fun l => match l.st with
    | .owned c _ => c == core
    | _ => false)

/-- The eviction of a block from one core cache. -/
def evictCoreBlock (s : State) (core lo : Nat) : State :=
  let ls := linesIn s lo 32
  let s := { s with
    lines := s.lines.map fun l => if decide (lo ≤ l.key) && decide (l.key < lo + 32) then l.evictCore core else l
    coreUse := s.coreUse.filter fun p => p != (core, lo / 32) }
  (ownedBlocks core ls).foldl (fun s b => recordSector s b.2 (keyWord b.1 * 4)) s

/-! ### Replacement (R244, R245, R261, R355, R356) -/

/-- A bit of the configuration record, from a byte on. -/
def configBit (s : State) (byte n : Nat) : Bool := (s.key.config.getD (byte + n / 8) 0).getLsbD (n % 8)

/-- The tenant of a context. -/
def tenantOf (s : State) (ctx : Nat) : Option Tenant :=
  (s.contexts[ctx]?).bind fun c => s.tenants.find? fun t => t.tid == c.tenant

/-- The tenant number of a context. -/
def tenantNo (s : State) (ctx : Nat) : Nat := match s.contexts[ctx]? with
  | some c => c.tenant
  | none => 0

/-- The ways of a slice's set that a tenant may fill (R355). -/
def waysOf (s : State) (tid : Nat) : Nat := match s.tenants.find? fun t => t.tid == tid with
  | some t => popCount t.rcd.ways.toNat 16
  | none => 16

/-- The enabled slices. -/
def slicesOn (s : State) : List Nat := (List.range 512).filter (configBit s 352)

/-- The slice of a block: a hash that selects enabled slices alone. -/
def sliceOf (s : State) (block : Nat) : Nat :=
  let on := slicesOn s
  on.getD (Config.sliceHash s.key.config block % max 1 on.length) 0

/-- Two blocks compete for the ways of one set of one slice. -/
def sameShSet (s : State) (a b : Nat) : Bool :=
  sliceOf s a == sliceOf s b && Config.sliceSet a % 512 == Config.sliceSet b % 512

/-- A tenant's other blocks in a block's set of its slice, most recently used first. -/
def shRivals (s : State) (block tid : Nat) : List (Nat × Nat) :=
  s.shUse.filter fun p => p.2 == tid && p.1 != block && sameShSet s block p.1

/-- The state with a block made the most recently used of the shared cache: at a miss of a tenant whose ways of the set are full, its
least recently used block there is evicted. A block keeps the way in which it stands (R355). -/
def useShared (s : State) (block tid : Nat) : State :=
  match s.shUse.find? fun p => p.1 == block with
  | some p => { s with shUse := p :: s.shUse.filter fun q => q.1 != block }
  | none =>
    let s := if s.shUse.length < waysOf s tid then s
      else match (shRivals s block tid).drop (waysOf s tid - 1) with
        | [] => s
        | vs => vs.foldl (fun s v => flushRange s (32 * v.1) 32) s
    { s with shUse := (block, tid) :: s.shUse }

/-- A core's other blocks in a block's set, most recently used first: the set is VA[13:7]. -/
def coreRivals (s : State) (core block : Nat) : List (Nat × Nat) :=
  s.coreUse.filter fun p => p.1 == core && p.2 != block && p.2 % 128 == block % 128

/-- The state with a block made the most recently used of a core cache: at a miss in a full set of 16 ways, the least recently used block
of the set is evicted. -/
def useCore (s : State) (core block : Nat) : State :=
  let s := ((coreRivals s core block).drop 15).foldl (fun s v => evictCoreBlock s core (32 * v.2)) s
  { s with coreUse := (core, block) :: s.coreUse.filter fun p => p != (core, block) }

/-- A cached word put in place, with its block used at the shared cache and at a core cache that now holds it. -/
def useLine (s : State) (l : Line) (core : Option Nat) : State :=
  let block := l.key / 32
  let s := useShared s block (tenantNo s (l.ctx.getD 0))
  let s := match core with
    | some k => useCore s k block
    | none => s
  putLine s l

/-! ### Committed writes on their way (R265) -/

/-- A word with enabled bytes replaced. -/
def mergeBytes (old new : W32) (en : BitVec 4) : W32 :=
  let m : W32 := (if en.getLsbD 0 then 0xFF#32 else 0) ||| (if en.getLsbD 1 then 0xFF00#32 else 0) |||
    (if en.getLsbD 2 then 0xFF0000#32 else 0) ||| (if en.getLsbD 3 then 0xFF000000#32 else 0)
  (new &&& m) ||| (old &&& ~~~m)

/-! ### Release sides that words carry (R204, R268) -/

/-- A word has been written: a release side of the writer stands before it now, and a plain write ends the release sequences that stood in
the word. keep: the write is one of an atomic or an EOP. by_: the group whose stream has written it. -/
def PadWrite.wrote (p : PadWrite) (by_ : Option Nat) (key : Nat) (keep : Bool) : PadWrite :=
  let mine := p.syncs.filterMap fun c => match c with
    | .fence g sc => if by_ = some g then some (PadSync.word key g sc) else none
    | _ => none
  let rest := p.syncs.filter fun c => match c with
    | .word k _ _ => keep || k != key
    | _ => true
  { p with syncs := rest ++ mine.filter fun c => !rest.contains c }

/-- A release side as a group's read of a word finds it: it has reached the group where its release sequence stands in the word. -/
def PadSync.reach (c : PadSync) (h key : Nat) : Option PadSync :=
  match c with
  | .word k g sc => if k = key then some (.got h g sc) else none
  | _ => none

/-- A group has read a word with the release sequences that stand in it. -/
def PadWrite.read (p : PadWrite) (h key : Nat) : PadWrite :=
  let got := p.syncs.filterMap (·.reach h key)
  { p with syncs := p.syncs ++ got.filter fun c => !p.syncs.contains c }

/-- The state after a write of a word, as far as scratchpad writes are ordered by it. -/
def wroteWord (s : State) (by_ : Option Nat) (key : Nat) (keep : Bool) : State :=
  { s with padw := s.padw.map fun p => p.wrote by_ key keep }

/-- The state after a group's read of a word, as far as scratchpad writes are ordered by it. -/
def sawWord (s : State) (h key : Nat) : State := { s with padw := s.padw.map fun p => p.read h key }

/-- The key that a write touches. -/
def PWrite.key (w : PWrite) : Nat := lineKey w.tag w.word
/-- The partials with a core's operand combined in (R257). -/
def addPartial (t : EscTag) (core : Nat) (x : W32) : List (Nat × W32) → List (Nat × W32)
  | [] => [(core, x)]
  | p :: r => if p.1 = core then (core, t.apply p.2 x) :: r else p :: addPartial t core x r

/-- An escrow update of a word by a core (R257, R260): the word's base is obtained when it enters escrow, which writes an owned copy
back; another tag settles it first. -/
def escrowUpdate (s : State) (core key : Nat) (t : EscTag) (x : W32) (pa : Nat) (ex ctx : Option Nat) (perm : LinePerm) :
    State :=
  let enter (s : State) (base : Option W32) : State :=
    useLine s ⟨key, .escrow t base [(core, x)], some pa, ex, perm, ctx⟩ (some core)
  let fresh (s : State) : State :=
    let s := settle s key
    match findLine s key with
    | some ln => enter s (some ln.value)
    | none =>
      let (b, s) := dramRead s pa
      enter s b
  match findLine s key with
  | some ln => match ln.st with
    | .escrow t' b ps =>
      if t' = t then useLine s { ln with st := .escrow t b (addPartial t core x ps) } (some core) else fresh s
    | _ => fresh s
  | none => fresh s

/-- The word of a store in its core cache, which owns it (R249): every other copy is invalidated. -/
def ownBy (s : State) (w : PWrite) (x : W32) : State :=
  useLine s ⟨w.key, .owned w.core x, some w.pa, w.ex, w.perm, some w.ctx⟩ (some w.core)

/-- A write performed in its core cache with ownership of its word (R249, R265). -/
def applyWrite (s : State) (w : PWrite) : State :=
  let s := wroteWord (settle s w.key) (some w.group) w.key false
  match findLine s w.key with
  | some l => ownBy s w (mergeBytes l.value w.data w.en)
  | none =>
    if w.en = 0xF#4 then ownBy s w w.data
    else match dramRead s w.pa with
      | (some x, s) => ownBy s w (mergeBytes x w.data w.en)
      | (none, s) => s

/-- A write in the store queue of a group to a word. -/
def queuedAt (group key : Nat) (w : PWrite) : Bool := w.key == key && w.stage == 0 && w.group == group

/-- The value that a party of a group sees: the directory's word under the committed writes of its own group (R240, R265). -/
def overlay (s : State) (group key : Nat) (x : W32) : W32 :=
  (s.sq.filter (queuedAt group key)).foldl (fun x w => mergeBytes x w.data w.en) x

/-- A committed write of the group covers the whole word, so that the word below it is not needed. -/
def overlayFull (s : State) (group key : Nat) : Bool := s.sq.any fun w => queuedAt group key w && w.en == 0xF#4

/-- Performs the queued writes that a test selects, in order. -/
def performAll (s : State) (p : PWrite → Bool) : State :=
  let mine (w : PWrite) : Bool := w.stage == 0 && p w
  let s' := (s.sq.filter mine).foldl applyWrite s
  { s' with sq := s'.sq.map fun w => if mine w then { w with stage := 1 } else w }

/-- Performs every queued write of a group to a word, in order. -/
def flushKey (s : State) (group key : Nat) : State := performAll s fun w => w.group == group && w.key == key

/-- Performs every queued write to a key range, whoever made it, and forgets the range's writes. -/
def flushWrites (s : State) (lo n : Nat) : State :=
  let mine (w : PWrite) : Bool := decide (lo ≤ w.key) && decide (w.key < lo + n)
  let s := performAll s mine
  { s with sq := s.sq.filter fun w => !mine w }

/-- A word that its core cache owns. -/
def ownedAt (s : State) (key core : Nat) : Bool := match findLine s key with
  | some l => match l.st with
    | .owned c _ => c == core
    | _ => false
  | none => false

/-- A write has reached its slice (R265): it has been performed, and its core cache has written the word back or lost it. -/
def PWrite.atSlice (s : State) (w : PWrite) : Bool := decide (2 ≤ w.stage) || (w.stage == 1 && !ownedAt s w.key w.core)

/-- A write is visible at a scope (R265); at domain scope it has left the list. -/
def PWrite.visible (s : State) (w : PWrite) : Scope → Bool
  | .group => true
  | .team => decide (1 ≤ w.stage)
  | .cluster => decide (1 ≤ w.stage)
  | .device => w.atSlice s
  | .domain => false

/-- Every older write of a group is visible at a scope. -/
def visibleAt (s : State) (group : Nat) (sc : Scope) : Bool := s.sq.all fun w => w.group != group || w.visible s sc

/-- An owned word written back to its slice, of which the core keeps a clean copy (R249, R265). -/
def writeToSlice (s : State) (w : PWrite) : State :=
  match findLine s w.key with
  | some l => match l.st with
    | .owned c v => if c = w.core then putLine s { l with st := .dirty v [c] } else s
    | _ => s
  | none => s

/-- The store queue entries of a group in use, of 32 (R125). DESIGN CHOICE (log 124): an entry holds the words of one instruction. -/
def entriesUsed (s : State) (group : Nat) : Nat :=
  ((s.sq.filter fun w => w.group == group && w.stage == 0).map (·.entry)).eraseDups.length + match s.group? group with
    | some G => G.lane.aheadStores
    | none => 0

/-- A store of the group would wait for an entry of its queue. -/
def storeQueueFull (s : State) (group : Nat) : Bool := decide (32 ≤ entriesUsed s group)

/-! ### Reads made ahead (R126, R267, R270) -/

/-- The state without the reads that streams of a group have made ahead. -/
def dropEarly (s : State) (group : Nat) : State := { s with early := s.early.filter fun e => e.group != group }

/-- The state without a stream's early read of a word: the stream has written it since. What its group's other stream has read stands, for
the two are unordered (R267). -/
def dropEarlyAt (s : State) (group : Nat) (lane : Option Bool) (key : Nat) : State :=
  { s with early := s.early.filter fun e => !(e.group == group && some e.lane == lane && e.key == key) }

/-- The early read of a word by a stream of a group. -/
def earlyOf (s : State) (group : Nat) (lane : Bool) (key : Nat) : Option Early :=
  s.early.find? fun e => e.group == group && e.lane == lane && e.key == key

/-- The state without the early reads and the waiting requests of a key range, whose words lie there no longer (R273, R285). -/
def dropWaiting (s : State) (lo n : Nat) : State :=
  { s with
    early := s.early.filter fun e => !(decide (lo ≤ e.key) && decide (e.key < lo + n))
    reqs := s.reqs.filter fun r => !(decide (lo ≤ r.key) && decide (r.key < lo + n)) }

/-- A page invalidation's effect on the caches and TLBs (R285 steps 2 to 5): committed writes are performed, escrow settled, dirty
words written back, words and TLB entries dropped. The range is in words; all is under every identifier for a global page. -/
def invalidatePage (s : State) (asid : BitVec 16) (glob : Bool) (va bytes : Nat) : State :=
  let tag := if glob then globalTag else asid
  let lo := lineKey tag (va / 4)
  let s := flushWrites s lo (bytes / 4)
  let s := flushRange s lo (bytes / 4)
  let s := dropWaiting s lo (bytes / 4)
  { s with
    tlb := s.tlb.filter fun t => !((t.tag == tag) &&
      (if t.big then decide (t.page * 65536 < va + bytes ∧ va < t.page * 65536 + 2 ^ 21)
       else decide (va ≤ t.page * 65536 ∧ t.page * 65536 < va + bytes))) }

end Sys2Proof.Machine
end

