-- ==== Sys2Proof/Machine/Access.lean ====
section
/-! DEFINITION. One access to memory: where a word lies, births, reads, committed writes, atomics and escrow updates
(spec/10_memory_words.md R237 to R241; spec/11 R249 to R257; spec/13 R284 to R289; spec/14 R302 to R310; spec/18 R384). -/

namespace Sys2Proof.Machine

/-- Who makes an access: its party, its group, core and context. -/
structure Who where
  party : Party
  group : Nat
  core : Nat
  ctxNo : Nat
  ctx : Context
  /-- In handler mode, the address of the group's own fault records, and the records that the part has written (R123, R331). -/
  recs : Option (Nat × Vector (Option FaultRec) 21)
  /-- For the store form of REPLACE, the address of the group's own spill slots (R342). -/
  slots : Option Nat

/-- The records that a group's handler may load. -/
def handlerRecs (G : Group) : Option (Nat × Vector (Option FaultRec) 21) :=
  if G.trap.hmode then some ((recAddr G 0).toNat, G.trap.recs) else none

/-- The scalar stream of a group as a party. -/
def whoScalar (s : State) (g : Nat) (G : Group) : Option Who :=
  match s.ctxOf G with
  | some c => some ⟨.scalar g, g, G.loc.coreId, G.bind.ctx, c, handlerRecs G, none⟩
  | none => none

/-- The lane stream of a group as a party. -/
def whoLane (s : State) (g : Nat) (G : Group) : Option Who :=
  match s.ctxOf G with
  | some c => some ⟨.lane g, g, G.loc.coreId, G.bind.ctx, c, handlerRecs G, none⟩
  | none => none

/-- What looking for a word gives. -/
inductive LocRes where
  | ok (l : Loc)
  | raise (c : Cause) (sub : Nat)
  | wait
  deriving DecidableEq, Repr

/-- The peer range of a context that holds an address (R384). -/
def peerIn (c : Context) (va : Nat) : Option PeerReg := c.peers.find? fun p => decide (p.base.toNat ≤ va ∧ va < p.base.toNat + p.size.toNat)

/-- The peer range that an access meets: one of a group's streams or of its engine commands, not firmware's (R264, R384). -/
def peerRange (w : Who) (va : Nat) : Option PeerReg :=
  match w.party with
  | .firmware => none
  | _ => peerIn w.ctx va

/-- A fault of a party as a result. -/
def faultRes (s : State) (w : Who) (va : Nat) (f : XFault) : LocRes × State :=
  match postFault s w.ctxNo w.ctx w.party va f with
  | (.deliver c k, s) => (.raise c k, s)
  | (.waiting, s) => (.wait, s)

/-- An access to a word of the group's own fault records by its handler (R331): it ignores U, as the part's own accesses do. -/
def ownRecord (w : Who) (va : Nat) : Bool := match w.recs with
  | none => false
  | some (base, _) => decide (base ≤ va) && decide (va < base + 384 * 21)

/-- A store of REPLACE to one of the group's own spill slots (R342). DEDUCED: it ignores U, which R123 takes from every other program store
there, because R342 lets it clear a poisoned word of a slot (log 113). -/
def ownSlot (w : Who) (va : Nat) : Bool := match w.slots with
  | none => false
  | some base => decide (base ≤ va) && decide (va < base + 16384)

/-- The address lies in a record that the part has not written for this group: its bytes are undefined (R123). -/
def unwritten (w : Who) (va : Nat) : Bool := match w.recs with
  | none => false
  | some (base, rs) => ownRecord w va && (rs.toList.getD ((va - base) / 384) none).isNone

/-- Where a word of an address lies by translation and its existence location (R284, R299). A read of an absent tile needs the region's
DEFAULT, which may be uncorrectable (R299, R303). -/
def locateMapped (s : State) (w : Who) (va : Nat) (n : Need) : LocRes × State :=
  match xlate s w.ctx va n with
  | (.fault f, s) => faultRes s w va f
  | (.ok l big, s) =>
    let tag := leafTag w.ctx.asid l
    if leafSparse l then
      let ex := mapEntry l big va
      match readExist s w.ctx ex big with
      | (.fault k, s) => faultRes s w va (.under k l big)
      | (.present f _, s) => (.ok (.mem tag (f + va % 4096 / 4 * 4) (leafPerm l) (some ex)), s)
      | (.absent r, s) =>
        if n = .write then (.ok (.absent tag r ex big (leafPerm l) 0), s)
        else match physRead s (regionAt w.ctx r 0) with
          | (none, s) => faultRes s w va (.under 3 l big)
          | (some d, s) => (.ok (.absent tag r ex big (leafPerm l) d), s)
    else (.ok (.mem tag (leafPa l big va / 4 * 4) (leafPerm l) none), s)

/-- A cached word serves an access: a read; a write only where W stood at its fill and the tile exists; a fetch where X stood (R284,
R303). A word that the part's own accesses have cached serves nothing else (R123). -/
def lineServes (l : Line) (n : Need) : Bool :=
  match n with
  | .own => true
  | .read => l.perm.u
  | .write => l.perm.u && l.perm.w && l.pa.isSome
  | .exec => l.perm.u && l.perm.x

/-- Where a word of an address below 2^56 lies: a cached word needs no translation (R245, R284). fresh asks for a translation
all the same (LDX, R312). -/
def locate (s : State) (w : Who) (va : Nat) (n : Need) (fresh : Bool) : LocRes × State :=
  if n = .read ∧ unwritten w va = true then (.ok (.own ((freeAt s 0).setWidth 32) none), s.useFree 1)
  else match peerRange w va with
  | some p => (.ok (.peer p.pid p.asid (p.pbase.toNat + (va - p.base.toNat))), s)
  | none =>
    let n := if n = .read ∧ ownRecord w va = true ∨ n = .write ∧ ownSlot w va = true then .own else n
    match hitLine s w.ctx.asid (va / 4) with
    | some l => if lineServes l n && !fresh then (.ok (.line l), s) else locateMapped s w va n
    | none => locateMapped s w va n

/-! ### Births (R304) -/

/-- What a birth gives. -/
inductive BirthRes where
  | born (frame : Nat)
  | xalloc
  | fault (sub : Nat)
  deriving DecidableEq, Repr

/-- The birth of the tile of an address (R304). -/
def birth (s : State) (ctxNo : Nat) (c : Context) (va : Nat) (r : BitVec 8) (ex : Nat) : BirthRes × State :=
  match birthTile s c r ex with
  | (.error (some k), s) => (.fault k, s)
  | (.error none, s) => (.xalloc, s)
  | (.ok f, s) => (.born f, recordSectors s ctxNo (va / 4096 * 4096) 32)

/-! ### Reads -/

/-- The key of a place. -/
def Loc.key (l : Loc) (word : Nat) : Nat :=
  match l with
  | .line l => l.key
  | .mem tag _ _ _ => lineKey tag word
  | .absent tag _ _ _ _ _ => lineKey tag word
  | .peer _ _ _ => 0
  | .own _ _ => 0

/-- What the caches keep of a place: its frame word, the map entry of its tile, and what its page allows. -/
structure LocInfo where
  pa : Option Nat
  ex : Option Nat
  perm : LinePerm

/-- A place's frame word, map entry and permissions. -/
def locInfo (s : State) (l : Loc) : LocInfo :=
  match l with
  | .line l =>
    let ln := (findLine s l.key).getD l
    ⟨ln.pa, ln.ex, ln.perm⟩
  | .mem _ pa p ex => ⟨some pa, ex, p⟩
  | .absent _ _ ex _ p _ => ⟨none, some ex, p⟩
  | _ => ⟨none, none, ⟨false, false, false⟩⟩

/-- A word that no cache holds, from where its place says that it lies; it may have been evicted since it was looked up. i is what the caches
kept of it before. None stands for an uncorrectable word. -/
def missRead (s : State) (l : Loc) (key : Nat) (i : LocInfo) : Option W32 × State :=
  match l with
  | .absent _ _ _ _ _ d => (some d, s)
  | _ => match i.pa, l with
    | some pa, _ => reqRead s pa key
    | none, .line l => (some l.value, s)
    | none, _ => (none, s)

/-- The stream of an accessor: false for the scalar stream, true for the lane stream. -/
def Who.stream (w : Who) : Option Bool :=
  match w.party with
  | .scalar _ => some false
  | .lane _ => some true
  | _ => none

/-- The read of a word that the accessor's stream has made ahead, and the state in which it is spent. -/
def takeEarly (s : State) (w : Who) (key : Nat) : Option (W32 × State) :=
  match w.stream with
  | none => none
  | some b => (earlyOf s w.group b key).map fun e => (e.val, { s with early := s.early.filter (· ≠ e) })

/-- A word read by a stream: the writes that its group has committed lie over the directory's word (R240, R265). None
stands for an uncorrectable word. -/
def readWord (s : State) (w : Who) (word : Nat) (l : Loc) : Option W32 × State :=
  match l with
  | .own x _ => (some x, s)
  | .peer _ _ _ => (none, s)
  | _ =>
    let key := l.key word
    match takeEarly s w key with
    | some (x, s) => (some x, s)
    | none =>
      let i := locInfo s l
      let s := sawWord (settle s key) w.group key
      match findLine s key with
      | some ln => (some (overlay s w.group key ln.value), useLine s (ln.readBy w.core) (some w.core))
      | none =>
        if overlayFull s w.group key then (some (overlay s w.group key 0), s)
        else match missRead s l key i with
          | (some x, s) =>
            (some (overlay s w.group key x), useLine s ⟨key, .clean x [w.core], i.pa, i.ex, i.perm, some w.ctxNo⟩ (some w.core))
          | (none, s) => (none, s)

/-! ### Writes -/

/-- A write of a place by an accessor, at a stage. -/
def pwrite (s : State) (w : Who) (entry word : Nat) (l : Loc) (en : BitVec 4) (x : W32) (stage : Nat) : PWrite :=
  let i := locInfo s l
  ⟨w.group, w.core, keyTag (l.key word), word, en, x, i.pa.getD 0, i.ex, i.perm, w.ctxNo, stage, entry⟩

/-- A word of a store committed (R125, R239): a full word to the store queue of its group. A half or a byte has obtained its word under
exclusive ownership, and merges into it at once, after the group's older writes of the word (R236). entry numbers the queue's entry. -/
def commitWord (s : State) (w : Who) (entry word : Nat) (l : Loc) (en : BitVec 4) (x : W32) : State :=
  let key := l.key word
  let s := dropEarlyAt s w.group w.stream key
  if en = 0xF#4 then { s with sq := s.sq ++ [pwrite s w entry word l en x 0] }
  else
    let p := pwrite s w entry word l en x 1
    let s := applyWrite (flushKey s w.group key) p
    { s with sq := s.sq ++ [p] }

/-- A word of an EOP committed: it is combined at once into the core's partial, after the group's older writes of the word (R256, R258). -/
def commitEsc (s : State) (w : Who) (entry word : Nat) (l : Loc) (t : EscTag) (x : W32) : State :=
  let key := l.key word
  let p := pwrite s w entry word l 0xF#4 x 1
  let s := wroteWord (flushKey (dropEarlyAt s w.group w.stream key) w.group key) (some w.group) key true
  let s := escrowUpdate s w.core key t x p.pa p.ex (some w.ctxNo) p.perm
  { s with sq := s.sq ++ [p] }

/-- A word at the directory for an indivisible access: older writes of the group to it are performed first, escrow is settled
(R251, R258). None stands for an uncorrectable word. -/
def ownWord (s : State) (w : Who) (word : Nat) (l : Loc) : Option W32 × State :=
  let key := l.key word
  let i := locInfo s l
  let s := sawWord (settle (flushKey (dropEarlyAt s w.group w.stream key) w.group key) key) w.group key
  match findLine s key with
  | some ln => (some ln.value, s)
  | none => missRead s l key i

/-- An atomic is performed in the issuing core's cache at group, team and cluster scope, at the word's slice above (R251). -/
def atCore : Scope → Bool
  | .group => true
  | .team => true
  | .cluster => true
  | _ => false

/-- The new value of an indivisible access: owned by the core cache, and on its way to the slice, or at the slice (R251, R265). -/
def putOwned (s : State) (w : Who) (word : Nat) (l : Loc) (sc : Scope) (x : W32) : State :=
  let p := pwrite s w 0 word l 0xF#4 x 1
  let s := wroteWord s (some w.group) p.key true
  if atCore sc then
    let s := ownBy s p x
    { s with sq := s.sq.filter (fun q => !(q.group == w.group && q.key == p.key && q.stage == 1)) ++ [p] }
  else useLine s ⟨p.key, .dirty x [], some p.pa, p.ex, p.perm, some w.ctxNo⟩ none

/-- An indivisible read-modify-write of a word (R251): the old value, none when it is uncorrectable. -/
def atomicWord (s : State) (w : Who) (word : Nat) (l : Loc) (sc : Scope) (f : W32 → W32) : Option W32 × State :=
  match ownWord s w word l with
  | (none, s) => (none, s)
  | (some x, s) => (some x, putOwned s w word l sc (f x))

/-! ### Device-level accesses of engines, firmware and packets (R193, R382, R386) -/

/-- A word read at device scope without filling a core cache. -/
def devReadLoc (s : State) (word : Nat) (l : Loc) : Option W32 × State :=
  match l with
  | .own x _ => (some x, s)
  | .peer _ _ _ => (none, s)
  | _ =>
    let key := l.key word
    let i := locInfo s l
    let s := settle s key
    match findLine s key with
    | some ln => (some ln.value, s)
    | none => missRead s l key i

/-- A write performed at the shared cache. -/
def devWriteLoc (s : State) (ctxNo : Nat) (word : Nat) (l : Loc) (en : BitVec 4) (x : W32) : State :=
  let i := locInfo s l
  let key := l.key word
  let s := wroteWord (settle s key) none key false
  let put (v : W32) (s : State) : State := useLine s ⟨key, .dirty v [], i.pa, i.ex, i.perm, some ctxNo⟩ none
  match findLine s key with
  | some ln => put (mergeBytes ln.value x en) s
  | none =>
    if en = 0xF#4 then put x s
    else match missRead s l key i with
      | (some y, s) => put (mergeBytes y x en) s
      | (none, s) => s

/-! ### Requests that wait (R226, R230) -/

/-- The request that a read of a place makes of memory, if it makes one: the word is in no cache and no committed write of the group
covers it. -/
def requestOf (s : State) (w : Who) (word : Nat) (l : Loc) : Option WordReq :=
  let key := l.key word
  let ask (pa : Nat) (ex : Option Nat) (p : LinePerm) : Option WordReq :=
    if (findLine s key).isSome || (w.stream.isSome && overlayFull s w.group key) || (takeEarly s w key).isSome then none
    else some ⟨pa, key, ex, p, some w.ctxNo, false⟩
  match l with
  | .mem _ pa p ex => ask pa ex p
  | .line ln => ln.pa.bind fun pa => ask pa ln.ex ln.perm
  | _ => none

/-- A request that must wait: its die refreshes or its pseudo-channel drains, and no burst has failed it. -/
def mustWait (s : State) (r : WordReq) : Bool :=
  dieBusy s r.pa && !(s.reqs.any fun q => q.pa == r.pa && q.key == r.key && q.failed)

/-- The requests of some words that must wait, posted: whether there is one. -/
def postWaiting (s : State) (w : Who) (ws : List (Nat × Loc)) : Bool × State :=
  match (ws.filterMap fun q => requestOf s w q.1 q.2).filter (mustWait s) with
  | [] => (false, s)
  | rs => (true, rs.foldl postReq s)

/-- A place made ready for a write: an absent tile is born first (R304). -/
inductive ReadyRes where
  | ok (l : Loc)
  | xalloc (r : BitVec 8)
  | raise (c : Cause) (sub : Nat)
  | wait
  deriving DecidableEq, Repr

/-- Births the tile of a place that is absent; any other place is ready as it stands. -/
def readyWrite (s : State) (w : Who) (va : Nat) (l : Loc) : ReadyRes × State :=
  match l with
  | .absent tag r ex big p _ =>
    match birth s w.ctxNo w.ctx va r ex with
    | (.born f, s) => (.ok (.mem tag (f + va % 4096 / 4 * 4) p (some ex)), s)
    | (.xalloc, s) => (.xalloc r, s)
    | (.fault k, s) => match faultRes s w va ⟨k, big, tag == globalTag⟩ with
      | (.raise c k, s) => (.raise c k, s)
      | (_, s) => (.wait, s)
  | l => (.ok l, s)

end Sys2Proof.Machine
end

