-- ==== Sys2Proof/Machine/Area.lean ====
section
/-! DEFINITION. The spill areas of groups: the part's own accesses to them, the deep entries of the reconvergence stack, and the fault
records (spec/06_registers_and_lane_arithmetic.md R119, R123; spec/07 R149, R150; spec/13 R284, R294; spec/16_traps_and_calls.md R334). -/

namespace Sys2Proof.Machine

/-- Where an address of a spill area lies: its identifier, its frame and what its page allows. The part's own accesses ignore U (R284).
Firmware keeps the pages mapped (R123); were one not, its words would live in the caches alone. -/
structure AreaPlace where
  tag : BitVec 16
  pa : Option Nat
  perm : LinePerm

/-- The place of an address of a spill area. -/
def areaPlace (s : State) (c : Context) (va : Nat) : AreaPlace × State :=
  match xlate s c va .own with
  | (.ok l big, s) => (⟨leafTag c.asid l, some (leafPa l big va), leafPerm l⟩, s)
  | (.fault _, s) => (⟨c.asid, none, ⟨false, false, false⟩⟩, s)

/-- The blocks of n words from a key on. -/
def blocksOf (lo n : Nat) : List Nat := (List.range ((lo + n + 31) / 32 - lo / 32)).map fun i => lo / 32 + i

/-- Blocks used at both levels by a core of a tenant. -/
def useBlocks (s : State) (core tid : Nat) (bs : List Nat) : State :=
  bs.foldl (fun s b => useCore (useShared s b tid) core b) s

/-- Words written to a spill area through a core cache, which owns them then. No context records them (R294). -/
def areaPut (s : State) (core : Nat) (c : Context) (va : Nat) (ws : List W32) : State :=
  let (p, s) := areaPlace s c va
  let lo := lineKey p.tag (va / 4)
  let s := useBlocks s core c.tenant (blocksOf lo ws.length)
  let new : List Line := ws.zipIdx.map fun q => ⟨lo + q.2, .owned core q.1, p.pa.map (· + 4 * q.2), none, p.perm, none⟩
  { s with lines := new ++ s.lines.filter fun l => !(decide (lo ≤ l.key) && decide (l.key < lo + ws.length)) }

/-- One word of a spill area read through a core cache: none when it is uncorrectable. -/
def areaWord (s : State) (core : Nat) (p : AreaPlace) (lo i : Nat) : Option W32 × State :=
  match findLine s (lo + i) with
  | some l => (some l.value, putLine s (l.readBy core))
  | none => match p.pa with
    | none => (none, s)
    | some pa => match reqRead s (pa + 4 * i) (lo + i) with
      | (some x, s) => (some x, putLine s ⟨lo + i, .clean x [core], some (pa + 4 * i), none, p.perm, none⟩)
      | (none, s) => (none, s)

/-- n words from position i on. -/
def areaWords (s : State) (core : Nat) (p : AreaPlace) (lo i : Nat) : Nat → List (Option W32) × State
  | 0 => ([], s)
  | n + 1 =>
    let (x, s) := areaWord s core p lo i
    let (xs, s) := areaWords s core p lo (i + 1) n
    (x :: xs, s)

/-- n words of a spill area read through a core cache. -/
def areaGet (s : State) (core : Nat) (c : Context) (va n : Nat) : List (Option W32) × State :=
  let (p, s) := areaPlace s c va
  let lo := lineKey p.tag (va / 4)
  areaWords (useBlocks s core c.tenant (blocksOf lo n)) core p lo 0 n

/-- The words of a spill area whose dies refresh or drain, requested: whether there is one (R226, R230). -/
def areaBusy (s : State) (c : Context) (va n : Nat) : Bool × State :=
  let (p, s) := areaPlace s c va
  let lo := lineKey p.tag (va / 4)
  match p.pa with
  | none => (false, s)
  | some pa =>
    let asked := (List.range n).filterMap fun i =>
      let r : WordReq := ⟨pa + 4 * i, lo + i, none, p.perm, none, false⟩
      if (findLine s (lo + i)).isNone && mustWait s r then some r else none
    (!asked.isEmpty, asked.foldl postReq s)

/-- A word of a spill area left poisoned: no cache holds it (R234). -/
def areaPoison (s : State) (c : Context) (va : Nat) : State :=
  let (p, s) := areaPlace s c va
  let s := dropLine s (lineKey p.tag (va / 4))
  match p.pa with
  | some pa => dramPoison s pa
  | none => s

/-! ### The deep entries of the reconvergence stack (R149, R150) -/

/-- KIND of an entry. -/
def StackKind.code (k : StackKind) : BitVec 2 :=
  match k with
  | .branch => 0
  | .item => 1
  | .compaction => 2

/-- The kind of a code; 3 does not occur. -/
def stackKindOf (c : BitVec 2) : StackKind := if c = 1#2 then .item else if c = 2#2 then .compaction else .branch

/-- The 128 bits of an entry. -/
def StackEntry.bits (e : StackEntry) : BitVec 128 :=
  (e.kind.code ++ e.ppc ++ e.hpc ++ BitVec.ofBool e.mslot ++ 0#23 ++ e.pend ++ e.orig).setWidth 128

/-- The entry of 128 bits. -/
def stackEntryOf (x : BitVec 128) : StackEntry :=
  ⟨stackKindOf (x.extractLsb' 126 2), x.extractLsb' 107 19, x.extractLsb' 88 19, x.getLsbD 87, x.extractLsb' 32 32, x.extractLsb' 0 32⟩

/-- The words of an entry, little-endian. -/
def StackEntry.words (e : StackEntry) : List W32 := (List.range 4).map fun i => e.bits.extractLsb' (32 * i) 32

/-- An entry as its words give it; one with an uncorrectable word stays as it was written, for the spec states no failure of this read. -/
def StackEntry.reread (e : StackEntry) (ws : List (Option W32)) : StackEntry :=
  match ws with
  | [some a, some b, some c, some d] => stackEntryOf (d ++ c ++ b ++ a)
  | _ => e

/-- Entries reread from a list of words, four each. -/
def rereadAll : List StackEntry → List (Option W32) → List StackEntry
  | [], _ => []
  | e :: t, ws => e.reread (ws.take 4) :: rereadAll t (ws.drop 4)

/-- The address of entry n, counted from the top, of a group's stack in its spill area. -/
def stackAddr (G : Group) (n : Nat) : Nat := G.bind.area.toNat + 16384 + 16 * (n - 8)

/-- The entries of a group's stack below the top 8 written to the spill area. -/
def writeDeep (s : State) (g : Nat) : State :=
  match s.group? g with
  | none => s
  | some G => match s.ctxOf G with
    | none => s
    | some c =>
      if G.lane.stack.length ≤ 8 then s
      else areaPut s G.loc.coreId c (stackAddr G 8) ((G.lane.stack.drop 8).flatMap StackEntry.words)

/-- A group's stack with the entries below the top 8 as the spill area gives them. -/
def readDeep (s : State) (g : Nat) : State :=
  match s.group? g with
  | none => s
  | some G => match s.ctxOf G with
    | none => s
    | some c =>
      let stack := G.lane.stack
      if stack.length ≤ 8 then s
      else match areaGet s G.loc.coreId c (stackAddr G 8) (4 * (stack.length - 8)) with
        | (ws, s) => s.modGroup g fun G => { G with lane := { G.lane with stack := stack.take 8 ++ rereadAll (stack.drop 8) ws } }

/-- A group's stack after a change of its depth at the top: the entries below the top 8 lie in the spill area, so those that come up are read from
there, and those that go down are written. old is the stack before. -/
def syncStack (s : State) (g : Nat) (old : List StackEntry) : State :=
  match s.group? g with
  | none => s
  | some G =>
    let new := G.lane.stack
    if old.length = new.length ∨ (old.length ≤ 8 ∧ new.length ≤ 8) then s
    else match s.ctxOf G with
      | none => s
      | some c =>
        let (ws, s) := if old.length ≤ 8 then ([], s) else areaGet s G.loc.coreId c (stackAddr G 8) (4 * (old.length - 8))
        let deep := rereadAll (old.drop 8) ws
        let keep := min deep.length new.length
        let stack := new.take (new.length - keep) ++ deep.drop (deep.length - keep)
        writeDeep (s.modGroup g fun G => { G with lane := { G.lane with stack := stack } }) g

/-! ### Fault records (R334) -/

/-- Word k of a fault record. -/
def FaultRec.word (r : FaultRec) (k : Nat) : W32 :=
  let half (x : W64) (k : Nat) : W32 := if k % 2 = 0 then x.setWidth 32 else (x >>> 32).setWidth 32
  if k < 2 then half r.info k
  else if k < 4 then half r.pc k
  else if k < 6 then half r.head k
  else if k < 8 then half r.aux0 k
  else if k < 10 then half r.aux1 k
  else if k < 32 then 0
  else half (r.addr.toList.getD ((k - 32) / 2) 0) k

/-- The 384 bytes of a record as words. -/
def FaultRec.words (r : FaultRec) : List W32 := (List.range 96).map r.word

/-- Record c of a group written to its spill area. -/
def putRecord (s : State) (G : Group) (c : Nat) (r : FaultRec) : State :=
  match s.ctxOf G with
  | some x => areaPut s G.loc.coreId x (recAddr G c).toNat r.words
  | none => s

end Sys2Proof.Machine
end

