-- ==== Sys2Proof/Machine/Ops.lean ====
section
/-! DEFINITION. Named operations on groups: traps and their return, and how an instruction of either stream ends
(spec/02_streams_and_encoding.md R25 to R32, R47 to R51; spec/16_traps_and_calls.md R330 to R341, R347 to R349). -/

namespace Sys2Proof.Machine

/-! ### Causes (R330 to R336) -/

/-- A cause that an instruction raises, with what its record reports (R334, R335). -/
structure Raise where
  cause : Cause
  sub : Nat
  lanes : Mask
  num : Nat
  aux0 : W64
  aux1 : W64
  addr : Lanes W64
  /-- Reported by WAITB or MWAIT. -/
  waited : Bool
  deriving DecidableEq, Repr

/-- A cause with nothing to report. -/
def Raise.plain (c : Cause) : Raise := ⟨c, 0, 0, 0, 0, 0, splat 0, false⟩

/-- A scalar cause with an address in ADDR0 (R334). -/
def Raise.at (c : Cause) (sub : Nat) (a : W64) : Raise :=
  { Raise.plain c with sub := sub, addr := (splat 0).setIfInBounds 0 a }

/-- The page that a FRAME record names (R335). -/
def pageOf (va : Nat) : W64 := BitVec.ofNat 64 (va / 65536 * 65536)

/-- A scalar cause of the translation step at an address (R334, R335). -/
def Raise.xlat (c : Cause) (sub va : Nat) : Raise :=
  { Raise.at c sub (BitVec.ofNat 64 va) with aux1 := if c = cFRAME then pageOf va else 0 }

/-- The lowest set bit among the low n bits of a value, counting from position i. -/
def lowestFrom (x : Nat) (i : Nat) : Nat → Nat
  | 0 => i
  | n + 1 => if Nat.testBit x i then i else lowestFrom x (i + 1) n

/-- The lowest set cause of CAUSE[20:0] (R332). -/
def lowestCause (cause : W64) : Cause := lowestFrom cause.toNat 0 20

/-- CAUSE with a cause's bit set. -/
def setCause (cause : W64) (c : Cause) : W64 := cause ||| (1#64 <<< c)
/-- CAUSE with OVF set (R332). -/
def setOvf (cause : W64) : W64 := cause ||| (1#64 <<< 63)

/-- The INFO double of a record (R334). -/
def recInfo (r : Raise) (lane hmode chain : Bool) : W64 :=
  (r.lanes ++ BitVec.ofNat 16 r.num ++ (BitVec.ofBool r.waited ++ BitVec.ofBool chain ++ BitVec.ofBool hmode ++
    BitVec.ofBool lane) ++ BitVec.ofNat 4 r.sub ++ BitVec.ofNat 8 r.cause).setWidth 64

/-- The record of a cause (R334). -/
def faultRecord (G : Group) (r : Raise) (lane : Bool) (pc head : W64) (chain : Bool) : FaultRec :=
  ⟨recInfo r lane G.trap.hmode chain, pc, head, r.aux0, r.aux1, r.addr⟩

/-- A group with cause r noted: its bit set and its record kept, or OVF when the bit was already set (R332, R334, R336). -/
def noteCause (G : Group) (r : Raise) (lane : Bool) (pc head : W64) (chain : Bool) : Group :=
  if G.trap.cause.getLsbD r.cause then
    { G with trap := { G.trap with cause := setOvf G.trap.cause } }
  else
    { G with trap := { G.trap with
        cause := setCause G.trap.cause r.cause
        recs := G.trap.recs.setIfInBounds r.cause (some (faultRecord G r lane pc head chain)) } }

/-- The part's write of the record to the group's spill area, unless the cause's bit is already set; and the cause's lifetime count: its
bit, or OVF when the bit was already set (R334, R404). -/
def writeCause (s : State) (G : Group) (r : Raise) (lane : Bool) (pc head : W64) (chain : Bool) : State :=
  if G.trap.cause.getLsbD r.cause then s.count (.trapCause 63) 1
  else (putRecord s G r.cause (faultRecord G r lane pc head chain)).count (.trapCause r.cause) 1

/-- No latch holds a defined value. -/
def noLatches : Vector (Lanes LatchLane) 8 := Vector.replicate 8 (splat ⟨none, none⟩)

/-- EPCS: bits [55:2] of a scalar PC (R333). -/
def epcsOf (pc : W64) : W64 := pc &&& 0x00FFFFFFFFFFFFFC#64

/-- EPCL with IDLE (R333). -/
def epclOf (idle : Bool) (pc : W64) : W64 := (BitVec.ofBool idle ++ 0#7 ++ pc.setWidth 56).setWidth 64

/-- A lane stream whose instruction waits no more: the rows that it held are let go, and what younger instructions have taken (R126). -/
def LaneSt.letGo (L : LaneSt) : LaneSt := { L with keeps := [], flight := 0, ahead := 0, aheadRows := 0, aheadStores := 0 }

/-- Entering handler mode (R330, R331): the lane stream's run, queue, port and EM are set aside with the waits under way,
EPCS and EPCL are saved, and the scalar stream goes to HBASE.ADDR. -/
def enterHandler (G : Group) (hbase : W64) : Group :=
  let L := G.lane
  let headPc := match L.chain with
    | some c => c.head
    | none => L.lpc
  { G with
    sc := { G.sc with spc := hbase }
    lane := { L.letGo with
      run := none, em := 0xFFFFFFFF#32, latches := noLatches, chain := none, rel := [], dq := [], vp := [], stall := .none }
    trap := { G.trap with
      cur := lowestCause G.trap.cause
      hmode := true
      epcs := epcsOf G.sc.spc
      epcl := epclOf L.run.isNone L.lpc
      epclSet := false
      aside := some ⟨L.run, L.lpc, L.em, L.dq, L.vp, L.stack.length, L.stall, G.wait.barTok, G.wait.call, headPc⟩
      firstS := false
      firstL := false }
    wait := { G.wait with barTok := none, call := none } }

/-- The number of the next halt, for the order of victims (R122). -/
def nextHalt (s : State) : Nat := s.groups.foldl (fun m G => max m (max (G.halt.getD 0) G.stopNo + 1)) 0

/-- A group that halts in place with a cause (R330). -/
def Group.trappedAt (G : Group) (n : Nat) (c : Cause) : Group :=
  { G with status := .trapped c, stopNo := n, lane := G.lane.letGo }

/-- HBASE.ADDR as an address (R333). -/
def Context.handler (c : Context) : W64 := (c.hbase ++ 0#2).setWidth 64

/-- Taking a cause outside handler mode (R330): handler entry, or the group halts in place when HBASE.EN = 0. What its streams have read
ahead is discarded (R126). -/
def takeCause (s : State) (g : Nat) (G : Group) (c : Cause) : State :=
  let s := dropEarly s g
  match s.ctxOf G with
  | some x =>
    if x.hbaseEn then s.setGroup g (enterHandler G x.handler)
    else s.setGroup g (G.trappedAt (nextHalt s) c)
  | none => s.setGroup g (G.trappedAt (nextHalt s) c)

/-- A cause raised by the scalar stream at its instruction. In handler mode it is held pending and the handler goes on at the
next instruction (R336). -/
def scalarTrap (s : State) (g : Nat) (G : Group) (r : Raise) : State :=
  let pc := G.sc.spc
  let s := writeCause s G r false pc pc false
  let G' := noteCause G r false pc pc false
  if G.trap.hmode then s.setGroup g { G' with sc := { G'.sc with spc := pc + 4 } }
  else takeCause s g G' r.cause

/-- A cause raised by the lane stream at its instruction. The record names the chain head of a follower (R49, R334). -/
def laneTrap (s : State) (g : Nat) (G : Group) (r : Raise) : State :=
  let G := { G with lane := G.lane.letGo }
  let pc := G.lane.lpc
  let (head, chain) := match G.lane.chain with
    | some c => (c.head, true)
    | none => (pc, false)
  let s := writeCause s G r true pc head chain
  let G' := noteCause G r true pc head chain
  if G.trap.hmode then
    s.setGroup g { G' with lane := { G'.lane with lpc := pc + 12, chain := none, rel := [] } }
  else takeCause s g G' r.cause

/-! ### How an instruction ends -/

/-- The outcome of a scalar instruction's meaning: done with the next PC, waiting with nothing retired, or a cause. -/
inductive SRes where
  | done (s : State) (pc : W64)
  | wait (s : State)
  | trap (s : State) (r : Raise)

/-- The outcome of a lane instruction's meaning. -/
inductive LRes where
  | done (s : State) (pc : W64)
  | wait (s : State)
  | trap (s : State) (r : Raise)

/-- The STEP of a retired scalar instruction (R335, R348). -/
def stepRaise (em : Mask) : Raise :=
  { Raise.plain cSTEP with lanes := em, aux0 := zext64 em }

/-- What the fault service and peers have answered to a party's instruction is spent when it retires or traps, and its entry of the
operand log is released (R127). -/
def clearParty (s : State) (p : Party) (pc : W64) : State :=
  { s with
    oplog := s.oplog.filter fun e => e.party ≠ p
    psets := s.psets.filter fun e => e.party ≠ p
    verdicts := s.verdicts.filter fun v => v.party ≠ p
    fab := { s.fab with peers := s.fab.peers.filter fun r => r.party ≠ p ∨ r.pc ≠ pc } }

/-- A retired scalar instruction: the PC moves on, the exemption of R338 ends, verdicts of the fault service are spent, and
with MODE 1 STEP is raised, by a HALT too (R348). -/
def scalarRetire (s : State) (g : Nat) (mode : BitVec 2) (hmode : Bool) (old pc : W64) : State :=
  let s := clearParty s (.scalar g) old
  match s.group? g with
  | none => s
  | some G =>
    let G := { G with
      sc := { G.sc with spc := pc }, trap := { G.trap with firstS := false }, wait := { G.wait with barTok := none } }
    if mode = 1#2 ∧ hmode = false ∧ G.trap.hmode = false ∧ G.gone = false then
      let r := stepRaise G.lane.em
      takeCause (writeCause s G r false old old false) g (noteCause G r false old old false) cSTEP
    else s.setGroup g G

/-- Executes a scalar meaning on the current group. -/
def runScalar (s : State) (f : Nat → Group → SRes) : Host.Outcome State Fault Refusal :=
  let g := s.cur
  match s.group? g with
  | none => .fault .noGroup
  | some G =>
    match f g G with
    | .done s' pc => .next (scalarRetire s' g G.dbg.stepm G.trap.hmode G.sc.spc pc)
    | .wait s' => .next s'
    | .trap s' r =>
      let s' := clearParty s' (.scalar g) G.sc.spc
      match s'.group? g with
      | none => .fault .noGroup
      | some G' => .next (scalarTrap s' g G' r)

/-- The next sequential scalar PC. -/
def Group.nextPc (G : Group) : W64 := G.sc.spc + 4

/-- Retires with a scalar register written. -/
def sWrite (s : State) (g : Nat) (G : Group) (d : SReg) (x : W64) : SRes :=
  .done (s.setGroup g (G.setS d x)) G.nextPc

/-- The other groups of a team that hold a slot on a core (R32). -/
def othersOnCore (s : State) (g : Nat) (G : Group) : Bool :=
  match s.teamOf G with
  | none => false
  | some t => t.groups.any fun h => h ≠ g && match s.group? h with
    | some H => H.inSlot && H.loc.coreId == G.loc.coreId
    | none => false

/-- The item queue of a team on a core (R114). -/
def itemQueue (t : Team) (core : Nat) : Option ItemQueue := t.queues.find? fun q => q.core == core

/-- The item queue of a group's core is open and empty (R156). -/
def itemsAwaited (s : State) (G : Group) : Bool := match (s.teamOf G).bind fun t => itemQueue t G.loc.coreId with
  | some q => !q.closed && q.ranges.isEmpty
  | none => false

/-- The lane stream can never become idle while the scalar stream waits for it (R32): it is stalled on a vote port that is full, or at
an ITEM on an open, empty queue that no other group on the core can fill or close. -/
def laneStuck (s : State) (g : Nat) (G : Group) : Bool :=
  match G.lane.stall with
  | .port => decide (4 ≤ G.lane.vp.length)
  | .item => itemsAwaited s G && !othersOnCore s g G
  | _ => false

/-- A scalar instruction that waits for the lane stream (R32): goes on when it is idle, raises ILL when that can never be. -/
def whenLaneIdle (s : State) (g : Nat) (G : Group) (k : SRes) : SRes :=
  if G.laneIdle then k
  else if laneStuck s g G then .trap s (.plain cILL)
  else .wait s

/-! ### Return from a trap (R337, R338) -/

/-- The lane stream as SRET restores it. -/
def restoreLane (G : Group) (a : Aside) : LaneSt :=
  let idle := G.trap.epcl.getLsbD 63
  let pc : W64 := if G.trap.epclSet then (G.trap.epcl.setWidth 56).setWidth 64 else a.headPc
  { G.lane with
    lpc := pc
    run := if idle then none else a.run
    em := a.em
    latches := noLatches
    chain := none
    rel := []
    dq := a.dq
    vp := a.vp
    stall := match a.stall with
      | .parked m => if G.trap.epclSet then .none else .parked m
      | _ => .none }

/-- SRET once the handler's lane stream is idle (R337): the handler's stack entries go, the current cause's bit is cleared, and
the next pending cause is delivered back to back or the program resumes. Where no run resumes, supplied values have no instruction to
serve (R339). -/
def returnFromTrap (s : State) (g : Nat) (G : Group) : State :=
  let depth := match G.trap.aside with
    | some a => a.depth
    | none => G.lane.stack.length
  let stack := G.lane.stack.drop (G.lane.stack.length - depth)
  let cause := G.trap.cause &&& ~~~(1#64 <<< G.trap.cur)
  let G := { G with lane := { G.lane with stack := stack }, trap := { G.trap with cause := cause } }
  if cause.extractLsb' 0 21 ≠ 0#21 then
    let hb := match s.ctxOf G with
      | some x => x.handler
      | none => 0
    s.setGroup g { G with sc := { G.sc with spc := hb }, trap := { G.trap with cur := lowestCause cause } }
  else match G.trap.aside with
    | none => s.setGroup g { G with trap := { G.trap with hmode := false } }
    | some a =>
      s.setGroup g { G with
        sc := { G.sc with spc := G.trap.epcs }
        lane := restoreLane G a
        trap := { G.trap with
          hmode := false, aside := none, firstS := true, firstL := true
          supplied := if G.trap.epcl.getLsbD 63 then splat none else G.trap.supplied }
        wait := { G.wait with barTok := a.barTok, call := a.call } }

/-! ### Commands of a group that has been halted (R324) -/

/-- An element of a row counts as performed across a halt only where it must not be performed twice. -/
def CmdKind.adds (k : CmdKind) : Bool :=
  match k with
  | .scatAddI _ _ _ => true
  | .scatAddF _ _ _ => true
  | _ => false

/-- The commands of a group that resumes: each reads the list of its window again. -/
def rereadLists (s : State) (g : Nat) : State :=
  { s with cmds := s.cmds.map fun c =>
      if c.group = g then { c with uses := none, part := if c.kind.adds then c.part else none } else c }

end Sys2Proof.Machine
end

