-- ==== Sys2Proof/Machine/Send.lean ====
section
/-! DEFINITION. The requests of peer accesses and their answers (spec/18_fabric_and_collectives.md R384). -/

namespace Sys2Proof.Machine

/-! ### Peer accesses (R384) -/

/-- What a peer access gives so far. -/
inductive PeerRes where
  | val (x : W32)
  | fault (c : Cause) (sub : Nat)
  | ue
  | xalloc
  | wait
  deriving DecidableEq, Repr

/-- The code in PeerReq.answer for an uncorrectable word, and for a tile that could not be born. -/
def peerUE : Nat := 16
def peerXalloc : Nat := 17
/-- The code for a transport code other than delivered. -/
def peerRefused : Nat := 18

/-- The reading of an answer. -/
def PeerReq.result (p : PeerReq) : PeerRes :=
  if p.late then .fault cXLAT 8
  else match p.answer with
    | none => .wait
    | some (x, k) =>
      if k = 0 then .val x
      else if k = peerUE then .ue
      else if k = peerXalloc then .xalloc
      else if k = peerRefused then .fault cXLAT 0
      else .fault (faultCause k) k

/-- A request of a party under way for a lane's word. -/
def peerFind (s : State) (w : Who) (pc : W64) (lane word : Nat) (kind : BitVec 8) : Option PeerReq :=
  s.fab.peers.find? fun p => p.party == w.party && p.pc == pc && p.lane == lane && p.word == word && p.kind == kind

/-- Posts a request to a peer. -/
def peerPost (s : State) (w : Who) (pc : W64) (lane word : Nat) (kind : BitVec 8) (pid asid : BitVec 16) (body : PktBody) : State :=
  let (t, s) := freshTag s
  let (_, s) := sendPkt s kind pid asid t body
  s.modFab fun f => { f with peers := f.peers ++ [⟨w.party, pc, lane, word, t, pid, kind, none, false⟩] }

/-- Asks a peer once: the result of the request, posted at the first call. -/
def peerAsk (s : State) (w : Who) (pc : W64) (lane word : Nat) (kind : BitVec 8) (pid asid : BitVec 16) (body : PktBody) :
    PeerRes × State :=
  match peerFind s w pc lane word kind with
  | some p => (p.result, s)
  | none => (.wait, peerPost s w pc lane word kind pid asid body)

/-- Reads a word at a peer. -/
def peerRead (s : State) (w : Who) (pc : W64) (lane word : Nat) (pid asid : BitVec 16) (va : Nat) : PeerRes × State :=
  peerAsk s w pc lane word 0x03#8 pid asid (.read (BitVec.ofNat 64 va))

/-- Writes bytes of a word at a peer; a partial write reads the word first and writes it whole. -/
def peerWrite (s : State) (w : Who) (pc : W64) (lane word : Nat) (pid asid : BitVec 16) (va : Nat) (en : BitVec 4) (x : W32) :
    PeerRes × State :=
  if en = 0xF#4 then peerAsk s w pc lane word 0x04#8 pid asid (.write (BitVec.ofNat 64 va) x 0xF#4)
  else match peerRead s w pc lane word pid asid va with
    | (.val y, s) => peerAsk s w pc lane word 0x04#8 pid asid (.write (BitVec.ofNat 64 va) (mergeBytes y x en) 0xF#4)
    | r => r

/-- An atomic at a peer by its code of R63. -/
def peerAtomic (s : State) (w : Who) (pc : W64) (lane word : Nat) (pid asid : BitVec 16) (va : Nat) (op : BitVec 7)
    (x cmp : W32) : PeerRes × State :=
  peerAsk s w pc lane word 0x05#8 pid asid (.atomic (BitVec.ofNat 64 va) op x cmp)

/-- The request code of compare and swap (R63). -/
def opCas : BitVec 7 := 0x48#7

/-- An FP32 add at a peer, which has no code of its own: a read, then compare and swap until it succeeds. Each answer that
differs from the value compared starts the next attempt. -/
def peerFAdd (s : State) (w : Who) (pc : W64) (lane word : Nat) (pid asid : BitVec 16) (va : Nat) (x : W32) : PeerRes × State :=
  match peerRead s w pc lane word pid asid va with
  | (.val y, s) =>
    match peerFind s w pc lane word 0x05#8 with
    | none => (.wait, peerPost s w pc lane word 0x05#8 pid asid (.atomic (BitVec.ofNat 64 va) opCas (f32Add y x) y))
    | some p => match p.result with
      | .val z =>
        if z = y then (.val y, s)
        else
          let s := s.modFab fun f => { f with peers := f.peers.filterMap fun r =>
            if r.party == w.party && r.pc == pc && r.lane == lane && r.word == word then
              (if r.kind == 0x03#8 then some { r with answer := some (z, 0) } else none) else some r }
          (.wait, peerPost s w pc lane word 0x05#8 pid asid (.atomic (BitVec.ofNat 64 va) opCas (f32Add z x) z))
      | r => (r, s)
  | r => r

end Sys2Proof.Machine
end

