-- ==== Sys2Proof/Machine/LaneMem.lean ====
section
/-! DEFINITION. The memory accesses of one instruction over its lanes: the causes in their order, then the effect
(spec/10_memory_words.md R236 to R241; spec/11 R253 to R256; spec/14 R304 to R306, R312; spec/16 R349, R350). A scalar access is
the same with one lane. -/

namespace Sys2Proof.Machine

/-- The result of an instruction's accesses. -/
inductive MemRes (α : Type) where
  | ok (x : α)
  | raise (r : Raise)
  | wait

/-- The mask of a list of lanes. -/
def maskOf (ls : List Nat) : Mask := ls.foldl (fun m i => m ||| (1#32 <<< i)) 0

/-- The addresses of a record, by lane (R334). -/
def addrsOf (ls : List (Nat × Nat)) : Lanes W64 :=
  ls.foldl (fun v p => v.setIfInBounds p.1 (BitVec.ofNat 64 p.2)) (splat 0)

/-- A cause of lanes with their addresses. -/
def laneRaise (c : Cause) (sub : Nat) (ls : List (Nat × Nat)) : Raise :=
  { Raise.plain c with sub := sub, lanes := maskOf (ls.map (·.1)), addr := addrsOf ls }

/-- A raise of a scalar instruction: no lane mask (R334). -/
def Raise.scalar (r : Raise) : Raise := { r with lanes := 0 }

/-- Whether a place is a peer's. -/
def Loc.isPeer (l : Loc) : Bool :=
  match l with
  | .peer _ _ _ => true
  | _ => false

/-- A word's tile exists. -/
def Loc.present (l : Loc) : Bool :=
  match l with
  | .absent _ _ _ _ _ _ => false
  | .own _ (some (_, b)) => b
  | _ => true

/-- The virtual word numbers that an access touches. -/
def wordsOf (va size : Nat) : List Nat := if size = 8 then [va / 4, va / 4 + 1] else [va / 4]

/-- The lanes whose access fails a test. -/
def failing (p : LAcc → Bool) (as : List LAcc) : List (Nat × Nat) :=
  as.filterMap fun a => if p a then some (a.lane, a.va) else none

/-! ### Range, alignment, translation (R238) -/

/-- A place ready for a read: a peer's answer stands for the word. -/
def answered (s : State) (w : Who) (pc : W64) (lane word : Nat) (n : Need) (l : Loc) : LaneLoc × State :=
  match l with
  | .peer pid asid va =>
    if n = .read then
      match peerRead s w pc lane word pid asid va with
      | (.val x, s) => (.ok [.own x none], s)
      | (.fault c k, s) => (.raise c k, s)
      | (.ue, s) => (.ue (word * 4), s)
      | (.xalloc, s) => (.raise cXALLOC 0, s)
      | (.wait, s) => (.wait, s)
    else (.ok [l], s)
  | l => (.ok [l], s)

/-- The places of a lane's words; the first word that has none decides. -/
def locateWords (s : State) (w : Who) (pc : W64) (lane : Nat) (n : Need) (fresh : Bool) : List Nat → LaneLoc × State
  | [] => (.ok [], s)
  | x :: t =>
    match locate s w (x * 4) n fresh with
    | (.raise c k, s) => (.raise c k, s)
    | (.wait, s) => (.wait, s)
    | (.ok l, s) =>
      match answered s w pc lane x n l with
      | (.ok ls, s) =>
        match locateWords s w pc lane n fresh t with
        | (.ok r, s) => (.ok (ls ++ r), s)
        | r => r
      | r => r

/-- The places of every lane's words. -/
def locateLanes (s : State) (w : Who) (pc : W64) (n : Need) (fresh : Bool) : List LAcc → List (LAcc × LaneLoc) × State
  | [] => ([], s)
  | a :: t =>
    let (r, s) := locateWords s w pc a.lane n fresh (wordsOf a.va a.size)
    let (rs, s) := locateLanes s w pc n fresh t
    ((a, r) :: rs, s)

/-- A lane with the places of its words. -/
structure Placed where
  lane : Nat
  va : Nat
  locs : List Loc
  deriving DecidableEq, Repr

/-- The words of a placed lane, each with its number. -/
def Placed.words (p : Placed) : List (Nat × Loc) := p.locs.zipIdx.map fun q => (p.va / 4 + q.2, q.1)

/-- A cause that a lane meets at an address, with its subcode. -/
structure LaneFault where
  cause : Cause
  sub : Nat
  lane : Nat
  va : Nat
  deriving DecidableEq, Repr

/-- The lowest cause of one step of the order of R238, for the lanes that meet it. SUBCODE is that of the lowest lane; a FRAME names its
page. -/
def raiseOf (f : LaneFault) (t : List LaneFault) : Raise :=
  let c := t.foldl (fun m x => min m x.cause) f.cause
  let ls := (f :: t).filter fun x => x.cause == c
  let first := ls.headD f
  { laneRaise c first.sub (ls.map fun x => (x.lane, x.va)) with aux1 := if c = cFRAME then pageOf first.va else 0 }

/-- The outcome of the translation step: the places, or its lowest cause in the lanes that meet it (R238, R287). -/
def translated (rs : List (LAcc × LaneLoc)) : MemRes (List Placed) :=
  if rs.any fun p => p.2 == .wait then .wait
  else match rs.filterMap fun p => match p.2 with
      | .raise c k => some (LaneFault.mk c k p.1.lane p.1.va)
      | _ => none with
    | f :: t => .raise (raiseOf f t)
    | [] => .ok (rs.filterMap fun p => match p.2 with
        | .ok l => some ⟨p.1.lane, p.1.va, l⟩
        | .ue v => some ⟨p.1.lane, v, []⟩
        | _ => none)

/-! ### Reads (R235, R238) -/

/-- The words of one lane: read, or the numbers of those that are uncorrectable. A word that has failed before in this instruction is not
requested again (R226). -/
def readWords (s : State) (w : Who) (bad : List Nat) : List (Nat × Loc) → (List W32 × List Nat) × State
  | [] => (([], []), s)
  | (x, l) :: t =>
    if bad.contains x then
      let ((vs, fs), s) := readWords s w bad t
      ((0 :: vs, x :: fs), s)
    else match readWord s w x l with
      | (some v, s) =>
        let ((vs, fs), s) := readWords s w bad t
        ((v :: vs, fs), s)
      | (none, s) =>
        let ((vs, fs), s) := readWords s w (x :: bad) t
        ((0 :: vs, x :: fs), s)

/-- What reading lanes gives: values by lane, the lanes that failed with their lowest failing word, and every failed word. -/
structure ReadAcc where
  vals : List (Nat × List W32)
  fails : List (Nat × Nat)
  bad : List Nat

/-- Reads every word of every lane; the words of bad have failed before in this instruction. -/
def readLanes (s : State) (w : Who) (bad : List Nat) (ps : List Placed) : ReadAcc × State :=
  ps.foldl (fun (x : ReadAcc × State) p =>
    let a := x.1
    if p.locs = [] then ({ a with fails := a.fails ++ [(p.lane, p.va)] }, x.2)
    else
      let ((vs, fs), s) := readWords x.2 w a.bad p.words
      match fs with
      | [] => ({ a with vals := a.vals ++ [(p.lane, vs)] }, s)
      | f :: _ => ({ a with fails := a.fails ++ [(p.lane, f * 4)], bad := fs ++ a.bad }, s)) (⟨[], [], bad⟩, s)

/-! ### Sets of pages (R288) -/

/-- The page of an address as far as the TLB tells its size: the count of an instruction's pages takes a 2 MiB page as one. -/
def pageName (s : State) (w : Who) (va : Nat) : Nat := match tlbFind s w.ctx.asid va with
  | some t => t.page
  | none => va / 65536

/-- The first accesses of a list that name at most 16 pages together, and the rest. -/
def firstSet (s : State) (w : Who) (seen : List Nat) : List LAcc → List LAcc × List LAcc
  | [] => ([], [])
  | a :: t =>
    let n := pageName s w a.va
    let seen := if seen.contains n then seen else n :: seen
    if 16 < seen.length then ([], a :: t)
    else
      let (x, y) := firstSet s w seen t
      (a :: x, y)

/-- How far a party's instruction has come over its sets of pages. -/
def setsOf (s : State) (w : Who) (pc : W64) : Option PageSets := s.psets.find? fun e => e.party == w.party && e.pc == pc

/-- The pages of some accesses, in 64 KiB units. -/
def pagesNeeded (as : List LAcc) : List Nat := (as.map fun a => a.va / 65536).eraseDups

/-- The state with what is kept of a party's instruction that waits. -/
def putSets (s : State) (p : PageSets) : State := { s with psets := p :: s.psets.filter fun e => e.party != p.party }

/-- How far a party's instruction has come over its sets of pages; nowhere at its start. -/
def setsNow (s : State) (w : Who) (pc : W64) : PageSets := (setsOf s w pc).getD ⟨w.party, pc, false, false, [], [], [], [], []⟩

/-- The state with that kept, while the instruction waits for the pages of a set. -/
def keepSets (s : State) (e : PageSets) (now : List LAcc) : State := putSets s { e with many := true, need := pagesNeeded now }

/-- An instruction is performed in sets of pages: it has begun so, or it names more than 16. -/
def inSets (s : State) (w : Who) (pc : W64) (as : List LAcc) : Bool :=
  (setsOf s w pc).any (·.many) || !(firstSet s w [] as).2.isEmpty

/-- What an access reads as it is checked: a load keeps its words; a sub-word store and an atomic need that they can be read; an EOP needs
them at its shared cache, whether or not they can be read. -/
inductive PreRead where
  | none | keep | test | base
  deriving DecidableEq, Repr

/-- The access reads its words as it is checked. -/
def PreRead.reads (p : PreRead) : Bool :=
  match p with
  | .keep => true
  | .test => true
  | _ => false

/-- The lanes of a set that are placed. -/
def placedOf (rs : List (LAcc × LaneLoc)) : List Placed := rs.filterMap fun p => match p.2 with
  | .ok l => some ⟨p.1.lane, p.1.va, l⟩
  | _ => none

/-- The region of the tile of a place that translation has found on a sparse page, and whether the tile is present (R312). -/
def tileOf (s : State) (l : Loc) : Option (BitVec 8 × Bool) :=
  match l with
  | .absent _ r _ _ _ _ => some (r, false)
  | .mem _ _ _ (some ex) => some (mapRegion (rawDouble s ex), true)
  | .own _ t => t
  | _ => none

/-- A set's lanes read and done: the words of a load stand in place of their places; failures are noted. -/
def readSet (s : State) (w : Who) (pre : PreRead) (e : PageSets) (rs : List (LAcc × LaneLoc)) : PageSets × State :=
  if pre.reads = false then ({ e with done := e.done ++ rs }, s)
  else
    let (a, s) := readLanes s w e.bad ((placedOf rs).filter fun p => !p.locs.any Loc.isPeer)
    let note (p : LAcc × LaneLoc) : LAcc × LaneLoc := match p.2 with
      | .ok l => match a.fails.find? fun f => f.1 == p.1.lane with
        | some f => (p.1, .ue f.2)
        | none => match a.vals.find? fun v => v.1 == p.1.lane with
          | some v => if pre = .keep then (p.1, .ok ((v.2.zip l).map fun q => .own q.1 (tileOf s q.2))) else p
          | none => p
      | _ => p
    let words := (placedOf rs).flatMap fun p => match a.vals.find? fun v => v.1 == p.lane with
      | some v => v.2.zipIdx.map fun x => (p.va / 4 + x.2, x.1)
      | none => []
    ({ e with done := e.done ++ rs.map note, bad := a.bad, kept := if pre = .test then e.kept ++ words else e.kept }, s)

/-- The lanes of an instruction in sets of at most 16 pages, at most k more sets; none while it waits. -/
def locateSets (s : State) (w : Who) (pc : W64) (n : Need) (fresh : Bool) (pre : PreRead) (e : PageSets) :
    Nat → List LAcc → Option PageSets × State
  | 0, _ => (some e, s)
  | k + 1, as =>
    if as.isEmpty then (some e, s)
    else
      let (now, rest) := firstSet s w [] as
      let (rs, s) := locateLanes s w pc n fresh now
      if rs.any fun p => p.2 == .wait then (none, keepSets s e now)
      else
        let (busy, s) := if pre = .none then (false, s) else postWaiting s w ((placedOf rs).flatMap Placed.words)
        if busy then (none, keepSets s e now)
        else
          let (e, s) := readSet s w pre e rs
          locateSets s w pc n fresh pre e k rest

/-- The places of an instruction whose sets have all been located. A write looks all of them up again: pages may have gone since. Where one
has, the places as they were found stand, and the sets are brought back one by one to be written (actSets). -/
def placeSets (s : State) (w : Who) (pc : W64) (n : Need) (fresh : Bool) (e : PageSets) (as : List LAcc) : MemRes (List Placed) × State :=
  let s := putSets s { e with many := true }
  if n = .write then
    let (rs, s) := locateLanes s w pc n fresh as
    match translated rs with
    | .wait => (translated e.done, s)
    | r => (r, s)
  else (translated e.done, s)

/-- Range, alignment and translation of every lane (R238). -/
def placeLanes (s : State) (w : Who) (pc : W64) (n : Need) (fresh : Bool) (pre : PreRead) (as : List LAcc) :
    MemRes (List Placed) × State :=
  let far := failing (fun a => decide (2 ^ 56 ≤ a.va)) as
  if far ≠ [] then (.raise (laneRaise cXLAT 4 far), s)
  else
    let odd := failing (fun a => decide (a.va % a.size ≠ 0)) as
    if odd ≠ [] then (.raise (laneRaise cALIGN 0 odd), s)
    else if inSets s w pc as then
      let e := setsNow s w pc
      match locateSets s w pc n fresh pre e 32 (as.drop e.done.length) with
      | (none, s) => (.wait, s)
      | (some e, s) => placeSets s w pc n fresh e as
    else
      let (rs, s) := locateLanes s w pc n fresh as
      match translated rs with
      | .ok ps =>
        let (busy, s) := if pre = .none then (false, s) else postWaiting s w (ps.flatMap Placed.words)
        (if busy then .wait else .ok ps, s)
      | .wait => (.wait, putSets s { setsNow s w pc with need := pagesNeeded as })
      | r => (r, s)

/-! ### Watch and trip (R349, R350) -/

/-- The watched block holds a word of an access. -/
def watched (d : DebugSt) (va size : Nat) : Bool :=
  let logw := bitsOf d.wctl.toNat 4 0
  (wordsOf va size).any fun x => decide (x / 2 ^ logw = d.waddr.toNat / 4 / 2 ^ logw)

/-- A kind of access is watched. -/
def watchKind (d : DebugSt) (isRead isWrite : Bool) : Bool :=
  let k := bitsOf d.wctl.toNat 6 5
  d.wctl.getLsbD 7 && ((isRead && (k == 0 || k == 2)) || (isWrite && (k == 1 || k == 2)))

/-- The lanes that meet WATCH. exempt: a handler's instruction, or the first after SRET (R338, R349). -/
def watchLanes (d : DebugSt) (exempt isRead isWrite : Bool) (size : Nat) (ps : List Placed) : List (Nat × Nat) :=
  if exempt || !watchKind d isRead isWrite then []
  else ps.filterMap fun p => if watched d p.va size then some (p.lane, p.va) else none

/-- The lanes that meet the armed trip. live: it is a lane load, LDX or lane atomic, and not the first after SRET (R338, R350). -/
def tripLanes (d : DebugSt) (live : Bool) (size : Nat) (ps : List Placed) : List (Nat × Nat) :=
  match d.trip with
  | none => []
  | some a => if !live then [] else ps.filterMap fun p =>
      if (wordsOf p.va size).contains (a.toNat / 4) then some (p.lane, p.va) else none

/-! ### Births (R304 to R306) -/

/-- What the first lane that named a tile found: born in a frame, no frame to be had, or a fault of the map or the pool. -/
inductive BirthSeen where
  | born (f : Nat)
  | xalloc
  | fault (c : Cause) (sub : Nat)
  | wait

/-- What the births of one instruction have come to: the tiles met, by map entry; the lanes done; those without a frame, with the first
one's region; and those with a fault. -/
structure BirthAcc where
  seen : List (Nat × BirthSeen)
  done : List Placed
  fails : List (Nat × Nat)
  region : BitVec 8
  raised : List LaneFault
  waits : Bool

/-- The birth of the tile of an address, with its faults met. -/
def birthSeen (s : State) (w : Who) (va : Nat) (tag : BitVec 16) (r : BitVec 8) (ex : Nat) (big : Bool) : BirthSeen × State :=
  match birth s w.ctxNo w.ctx va r ex with
  | (.born f, s) => (.born f, s)
  | (.xalloc, s) => (.xalloc, s)
  | (.fault k, s) => match faultRes s w va ⟨k, big, tag == globalTag⟩ with
    | (.raise c k, s) => (.fault c k, s)
    | (_, s) => (.wait, s)

/-- A lane put where its tile's birth puts it; all its words lie in one tile. -/
def BirthAcc.put (b : BirthAcc) (p : Placed) (tag : BitVec 16) (r : BitVec 8) (ex : Nat) (perm : LinePerm) (x : BirthSeen) : BirthAcc :=
  match x with
  | .born f =>
    let at_ (q : Loc × Nat) : Loc := match q.1 with
      | .absent _ _ _ _ _ _ => .mem tag (f + (p.va + 4 * q.2) % 4096 / 4 * 4) perm (some ex)
      | l => l
    { b with done := b.done ++ [{ p with locs := p.locs.zipIdx.map at_ }] }
  | .xalloc => { b with fails := b.fails ++ [(p.lane, p.va)], region := if b.fails = [] then r else b.region }
  | .fault c k => { b with raised := b.raised ++ [⟨c, k, p.lane, p.va⟩] }
  | .wait => { b with waits := true }

/-- The places of one lane after births. -/
def birthLane (s : State) (w : Who) (b : BirthAcc) (p : Placed) : BirthAcc × State :=
  match p.locs.find? fun l => !l.present with
  | some (.absent tag r ex big perm _) =>
    match b.seen.find? fun q => q.1 = ex with
    | some (_, x) => (b.put p tag r ex perm x, s)
    | none =>
      let (x, s) := birthSeen s w p.va tag r ex big
      (({ b with seen := (ex, x) :: b.seen } : BirthAcc).put p tag r ex perm x, s)
  | _ => ({ b with done := b.done ++ [p] }, s)

/-- The state in which a checked write waits: it holds the tiles that it has found present, or has given birth to (R310). -/
def holdTiles (s : State) (w : Who) (pc : W64) (ps : List Placed) : State :=
  putSets s { setsNow s w pc with hold := (ps.flatMap (·.locs)).filterMap fun l => (locInfo s l).ex }

/-- Births in ascending order of the lowest lane that names each tile. -/
def birthLanes (s : State) (w : Who) (pc : W64) (ps : List Placed) : MemRes (List Placed) × State :=
  let (b, s) := ps.foldl (fun (x : BirthAcc × State) p => birthLane x.2 w x.1 p) (⟨[], [], [], 0, [], false⟩, s)
  if b.waits then (.wait, holdTiles s w pc b.done)
  else match b.raised with
    | f :: t => (.raise (raiseOf f t), s)
    | [] =>
      if b.fails ≠ [] then
        (.raise { laneRaise cXALLOC 0 b.fails with aux0 := zext64 b.region },
          s.modGroup w.group fun G => { G with wait := { G.wait with region := some b.region } })
      else (.ok b.done, s)

/-! ### Loads -/

/-- UE of some lanes with what AUX0 says (R335). -/
def ueRaise (kind : Nat) (ls : List (Nat × Nat)) : Raise := { laneRaise cUE 0 ls with aux0 := BitVec.ofNat 64 kind }

/-- The debug state, whether the instruction is exempt from the watch, and whether the trip may meet it. -/
structure Dbg where
  d : DebugSt
  exempt : Bool
  trips : Bool

/-- Disarms the trip of a group, whose word is remembered. -/
def disarm (s : State) (g : Nat) : State :=
  s.modGroup g fun G => { G with dbg := { G.dbg with trip := none, tripped := G.dbg.trip } }

/-- A load over lanes up to its reads: the words of each lane, the lanes that failed, and the places (R238, R312). The lanes of skip have a
supplied value and are not read. -/
def loadRead (s : State) (w : Who) (dbg : Dbg) (pc : W64) (size : Nat) (fresh : Bool) (skip : List Nat) (as : List LAcc) :
    MemRes (ReadAcc × List Placed) × State :=
  match placeLanes s w pc .read fresh .keep as with
  | (.wait, s) => (.wait, s)
  | (.raise r, s) => (.raise r, s)
  | (.ok ps, s) =>
    let ws := watchLanes dbg.d dbg.exempt true false size ps
    if ws ≠ [] then (.raise (laneRaise cWATCH 0 ws), s)
    else
      let ts := tripLanes dbg.d dbg.trips size ps
      if ts ≠ [] then (.raise (laneRaise cINJ 0 ts), disarm s w.group)
      else
        let s := if fresh then (ps.flatMap Placed.words).foldl (fun s q => dropEarlyAt s w.group w.stream (q.2.key q.1)) s else s
        let (a, s) := readLanes s w (setsNow s w pc).bad (ps.filter fun p => !skip.contains p.lane)
        (.ok (a, ps), s)

/-- A load over lanes: the words of each lane. -/
def loadLanes (s : State) (w : Who) (dbg : Dbg) (pc : W64) (size : Nat) (fresh : Bool) (as : List LAcc) :
    MemRes (List (Nat × List W32) × List Placed) × State :=
  match loadRead s w dbg pc size fresh [] as with
  | (.wait, s) => (.wait, s)
  | (.raise r, s) => (.raise r, s)
  | (.ok (a, ps), s) => if a.fails ≠ [] then (.raise (ueRaise 0 a.fails), s) else (.ok (a.vals, ps), s)

/-! ### Stores (R236, R239) -/

/-- The data of one lane of a store. -/
structure LStore where
  lane : Nat
  va : Nat
  data : W64
  deriving DecidableEq, Repr

/-- The enabled bytes and the data of word number x under a store of a size at an address. -/
def storeWord (va size : Nat) (data : W64) (x : Nat) : BitVec 4 × W32 :=
  if size = 8 then (0xF#4, if x = va / 4 then data.setWidth 32 else (data >>> 32).setWidth 32)
  else if size = 4 then (0xF#4, data.setWidth 32)
  else
    let o := va % 4
    (if size = 2 then 3#4 <<< o else 1#4 <<< o, (data.setWidth 32) <<< (8 * o))

/-- The peer writes of a store: every answer must be there before anything commits. -/
def peerStores (s : State) (w : Who) (pc : W64) (size : Nat) (data : Nat → W64) (ps : List Placed) :
    List (Nat × Nat × PeerRes) × State :=
  ps.foldl (fun (x : List (Nat × Nat × PeerRes) × State) p =>
    p.words.foldl (fun (y : List (Nat × Nat × PeerRes) × State) q => match q.2 with
      | .peer pid asid va =>
        let (en, d) := storeWord p.va size (data p.lane) q.1
        let (r, s) := peerWrite y.2 w pc p.lane q.1 pid asid va en d
        (y.1 ++ [(p.lane, p.va, r)], s)
      | _ => y) x) ([], s)

/-- The outcome of peer requests: a fault in the lanes that meet the lowest cause, a wait, or nothing. -/
def peerOutcome (ueKind : Nat) (rs : List (Nat × Nat × PeerRes)) : MemRes Unit :=
  if rs.any fun r => r.2.2 == .wait then .wait
  else match rs.filterMap fun r => match r.2.2 with
      | .fault c k => some (LaneFault.mk c k r.1 r.2.1)
      | _ => none with
    | f :: t => .raise (raiseOf f t)
    | [] =>
      let xs := rs.filterMap fun r => if r.2.2 = .xalloc then some (r.1, r.2.1) else none
      if xs ≠ [] then .raise (laneRaise cXALLOC 0 xs)
      else
        let us := rs.filterMap fun r => if r.2.2 = .ue then some (r.1, r.2.1) else none
        if us ≠ [] then .raise (ueRaise ueKind us) else .ok ()

/-! ### Performing the lanes of a write -/

/-- What one lane of a write does at commit: the old value of an atomic. -/
abbrev LaneAct := State → Placed → List W32 × State

/-- The lanes of a list performed in ascending order, with what they give. -/
def actLanes (s : State) (act : LaneAct) (ps : List Placed) : List (Nat × List W32) × State :=
  ps.foldl (fun (x : List (Nat × List W32) × State) p =>
    let (vs, s) := act x.2 p
    (x.1 ++ [(p.lane, vs)], s)) ([], s)

/-- A word that a checked write has kept, put back where it can be read no longer (R236). -/
def restoreKept (w : Who) (kept : List (Nat × W32)) (s : State) (q : Nat × Loc) : State :=
  match q.2, kept.find? fun k => k.1 == q.1 with
  | .mem tag pa p ex, some k =>
    if (findLine s (lineKey tag q.1)).isNone && (wordValue s pa).isNone then
      useLine s ⟨lineKey tag q.1, .dirty k.2 [], some pa, ex, p, some w.ctxNo⟩ none
    else s
  | _, _ => s

/-- The lanes of a write over more than 16 pages performed set by set (R288), once all have been checked, because not all its pages are
resident together: each set's pages are brought back. There are at most k more sets. DESIGN CHOICE (log 116): some lanes have been written
by then, so a fault that is delivered for a page of a later set raises nothing; its page is asked for again. -/
def actSets (s : State) (w : Who) (pc : W64) (act : LaneAct) (e : PageSets) : Nat → List LAcc → MemRes (List (Nat × List W32)) × State
  | 0, _ => (.ok [], s)
  | k + 1, as =>
    if as.isEmpty then
      (.ok (e.done.filterMap fun p => match p.2 with
        | .ok l => some (p.1.lane, l.map fun x => match x with
          | .own v _ => v
          | _ => 0)
        | _ => none), s)
    else
      let (now, rest) := firstSet s w [] as
      let (rs, s) := locateLanes s w pc .write false now
      match translated rs with
      | .ok ps =>
        let (vs, s) := actLanes ((ps.flatMap Placed.words).foldl (restoreKept w e.kept) s) act ps
        actSets s w pc act { e with done := e.done ++ now.zip (vs.map fun v => .ok (v.2.map fun x => .own x none)) } k rest
      | _ =>
        (.wait, keepSets { s with verdicts := s.verdicts.filter fun v => v.party ≠ w.party } { e with checked := true } now)

/-- Performs the lanes of a write that has been checked: all at once where all its pages are resident. -/
def performLanes (s : State) (w : Who) (pc : W64) (act : LaneAct) (as : List LAcc) (ps : List Placed) :
    MemRes (List (Nat × List W32)) × State :=
  let all (s : State) (ps : List Placed) : MemRes (List (Nat × List W32)) × State :=
    let (vs, s) := actLanes s act ps
    (.ok vs, s)
  if inSets s w pc as then
    let (rs, t) := locateLanes s w pc .write false as
    match translated rs with
    | .ok ps => all t ps
    | _ =>
      let s := holdTiles s w pc ps
      actSets s w pc act { setsNow s w pc with done := [] } 32 as
  else all s ps

/-- A write that goes on with its sets: none unless all its lanes have been checked. -/
def goOn (s : State) (w : Who) (pc : W64) (act : LaneAct) (as : List LAcc) :
    Option (MemRes (List (Nat × List W32)) × State) :=
  match setsOf s w pc with
  | some e => if e.checked then some (actSets s w pc act e 32 (as.drop e.done.length)) else none
  | none => none

/-- Commits the words of one lane of a store. -/
def storeAct (w : Who) (entry size : Nat) (data : Nat → W64) : LaneAct := fun s p =>
  ([], p.words.foldl (fun s q =>
    if q.2.isPeer then s
    else
      let (en, d) := storeWord p.va size (data p.lane) q.1
      commitWord s w entry q.1 q.2 en d) s)

/-- The data of a lane of a store. -/
def dataOf (xs : List LStore) (lane : Nat) : W64 :=
  match xs.find? fun x => x.lane == lane with
  | some x => x.data
  | none => 0

/-- Some word of a write is the part's own memory. -/
def anyLocal (ps : List Placed) : Bool := ps.any fun p => !p.locs.any Loc.isPeer

/-- The places of a store or another write after the watch and the births (R306). full: it would wait for an entry of a full store queue,
which it does before anything is born. -/
def placeWrite (s : State) (w : Who) (dbg : Dbg) (pc : W64) (size : Nat) (isRead full : Bool) (pre : PreRead) (as : List LAcc) :
    MemRes (List Placed) × State :=
  match placeLanes s w pc .write false pre as with
  | (.ok ps, s) =>
    let ws := watchLanes dbg.d dbg.exempt isRead true size ps
    if ws ≠ [] then (.raise (laneRaise cWATCH 0 ws), s) else if full && anyLocal ps then (.wait, s) else birthLanes s w pc ps
  | r => r

/-- The lanes whose words cannot be read: a write that reads first raises UE for them. A word that has failed as its set was checked is not
requested again. -/
def unreadable (s : State) (w : Who) (pc : W64) (ps : List Placed) : List (Nat × Nat) × State :=
  let e := setsNow s w pc
  let (a, s) := readLanes s w e.bad (ps.filter fun p => p.locs.isEmpty || !p.locs.any Loc.isPeer)
  (a.fails, s)

/-- A store over lanes (R239); a half or byte first obtains its word (R236). It waits for an entry of a full store queue (R125). -/
def storeLanes (s : State) (w : Who) (dbg : Dbg) (pc : W64) (size : Nat) (xs : List LStore) : MemRes Unit × State :=
  let as : List LAcc := xs.map fun x => ⟨x.lane, x.va, size⟩
  let act := storeAct w s.tick size (dataOf xs)
  let fin (r : MemRes (List (Nat × List W32)) × State) : MemRes Unit × State := match r with
    | (.ok _, s) => (.ok (), s)
    | (.raise r, s) => (.raise r, s)
    | (.wait, s) => (.wait, s)
  match goOn s w pc act as with
  | some r => fin r
  | none =>
    match placeWrite s w dbg pc size false (storeQueueFull s w.group) (if size < 4 then .test else .none) as with
    | (.wait, s) => (.wait, s)
    | (.raise r, s) => (.raise r, s)
    | (.ok ps, s) =>
      let (fails, s) := if size < 4 then unreadable s w pc ps else ([], s)
      if fails ≠ [] then (.raise (ueRaise 1 fails), s)
      else
        let (rs, s) := peerStores s w pc size (dataOf xs) ps
        match peerOutcome 1 rs with
        | .wait => (.wait, holdTiles s w pc ps)
        | .raise r => (.raise r, s)
        | .ok _ => fin (performLanes s w pc act as ps)

/-! ### Atomics (R253 to R255) -/

/-- The operation of an atomic: its function of the old value, and its form as a peer request. -/
structure AtOp where
  f : W32 → W32
  code : BitVec 7
  x : W32
  cmp : W32
  /-- FP32 add. -/
  fadd : Bool

/-- One lane of an atomic or an escrow update. -/
structure LAtom where
  lane : Nat
  va : Nat
  op : AtOp

/-- The operation of a lane. -/
def opOf (xs : List LAtom) (lane : Nat) : AtOp :=
  match xs.find? fun x => x.lane == lane with
  | some x => x.op
  | none => ⟨id, 0, 0, 0, false⟩

/-- The peer requests of atomics. -/
def peerAtoms (s : State) (w : Who) (pc : W64) (op : Nat → AtOp) (ps : List Placed) : List (Nat × Nat × PeerRes) × State :=
  ps.foldl (fun (x : List (Nat × Nat × PeerRes) × State) p => match p.locs with
    | [.peer pid asid va] =>
      let o := op p.lane
      let (r, s) := if o.fadd then peerFAdd x.2 w pc p.lane (p.va / 4) pid asid va o.x
        else peerAtomic x.2 w pc p.lane (p.va / 4) pid asid va o.code o.x o.cmp
      (x.1 ++ [(p.lane, p.va, r)], s)
    | _ => x) ([], s)

/-- One lane of an atomic: its old value. -/
def atomAct (w : Who) (sc : Scope) (op : Nat → AtOp) : LaneAct := fun s p => match p.locs with
  | [.peer _ _ _] => ([], s)
  | [l] => match atomicWord s w (p.va / 4) l sc (op p.lane).f with
    | (v, s) => ([v.getD 0], s)
  | _ => ([], s)

/-- Atomics over lanes: the old values by lane (R251, R255). -/
def atomLanes (s : State) (w : Who) (dbg : Dbg) (pc : W64) (sc : Scope) (xs : List LAtom) :
    MemRes (List (Nat × W32)) × State :=
  let as : List LAcc := xs.map fun x => ⟨x.lane, x.va, 4⟩
  let act := atomAct w sc (opOf xs)
  let fin (peers : List (Nat × W32)) (r : MemRes (List (Nat × List W32)) × State) : MemRes (List (Nat × W32)) × State := match r with
    | (.ok vs, s) => (.ok ((vs.filterMap fun v => v.2.head?.map fun x => (v.1, x)) ++ peers), s)
    | (.raise r, s) => (.raise r, s)
    | (.wait, s) => (.wait, s)
  match goOn s w pc act as with
  | some r => fin [] r
  | none =>
    match placeWrite s w dbg pc 4 true false .test as with
    | (.wait, s) => (.wait, s)
    | (.raise r, s) => (.raise r, s)
    | (.ok ps, s) =>
      let ts := tripLanes dbg.d dbg.trips 4 ps
      if ts ≠ [] then (.raise (laneRaise cINJ 0 ts), disarm s w.group)
      else
        let (fails, s) := unreadable s w pc ps
        if fails ≠ [] then (.raise (ueRaise 2 fails), s)
        else
          let (rs, s) := peerAtoms s w pc (opOf xs) ps
          match peerOutcome 2 rs with
          | .wait => (.wait, holdTiles s w pc ps)
          | .raise r => (.raise r, s)
          | .ok _ =>
            fin (rs.filterMap fun r => match r.2.2 with
              | .val v => some (r.1, v)
              | _ => none) (performLanes s w pc act as ps)

/-- One lane of an escrow update. -/
def escAct (w : Who) (entry : Nat) (t : EscTag) (op : Nat → AtOp) : LaneAct := fun s p => match p.locs with
  | [.peer _ _ _] => ([], s)
  | [l] => ([], commitEsc s w entry (p.va / 4) l t (op p.lane).x)
  | _ => ([], s)

/-- Escrow updates over lanes (R256, R257). -/
def escrowLanes (s : State) (w : Who) (dbg : Dbg) (pc : W64) (t : EscTag) (xs : List LAtom) : MemRes Unit × State :=
  let as : List LAcc := xs.map fun x => ⟨x.lane, x.va, 4⟩
  let act := escAct w s.tick t (opOf xs)
  let fin (r : MemRes (List (Nat × List W32)) × State) : MemRes Unit × State := match r with
    | (.ok _, s) => (.ok (), s)
    | (.raise r, s) => (.raise r, s)
    | (.wait, s) => (.wait, s)
  match goOn s w pc act as with
  | some r => fin r
  | none =>
    match placeWrite s w dbg pc 4 false (storeQueueFull s w.group) .base as with
    | (.wait, s) => (.wait, s)
    | (.raise r, s) => (.raise r, s)
    | (.ok ps, s) =>
      let (rs, s) := peerAtoms s w pc (opOf xs) ps
      match peerOutcome 2 (rs.map fun r => (r.1, r.2.1, if r.2.2 = .ue then .val 0 else r.2.2)) with
      | .wait => (.wait, holdTiles s w pc ps)
      | .raise r => (.raise r, s)
      | .ok _ => fin (performLanes s w pc act as ps)

/-! ### Prefetch (R242) -/

/-- Fills a word into a cache level when that needs neither service nor birth nor settlement. A word whose die refreshes is requested, and its
burst fills the shared cache (R226, R230). -/
def prefetchWord (s : State) (w : Who) (core : Bool) (va : Nat) : State :=
  let level : Option Nat := if core then some w.core else none
  if 2 ^ 56 ≤ va ∨ (peerRange w va).isSome = true then s
  else
    let word := va / 4
    match hitLine s w.ctx.asid word with
    | some l => match l.st with
      | .escrow _ _ _ => s
      | _ => if lineServes l .read && core then useLine s (l.readBy w.core) level else s
    | none =>
      match xlate s w.ctx va .read with
      | (.fault _, s) => s
      | (.ok l big, s) =>
        let fill (pa : Nat) (ex : Option Nat) (s : State) : State :=
          let key := lineKey (leafTag w.ctx.asid l) word
          if dieBusy s pa then postReq s ⟨pa, key, ex, leafPerm l, some w.ctxNo, false⟩
          else match dramRead s pa with
          | (some x, s) => useLine s ⟨key, .clean x level.toList, some pa, ex, leafPerm l, some w.ctxNo⟩ level
          | (none, s) => s
        if leafSparse l then
          match readExist s w.ctx (mapEntry l big va) big with
          | (.present f _, s) => fill (f + va % 4096 / 4 * 4) (some (mapEntry l big va)) s
          | (_, s) => s
        else fill (leafPa l big va / 4 * 4) none s

/-! ### Existence of a place (R312) -/

/-- The region of a place on a sparse page. -/
def locRegion (s : State) (l : Loc) : Option (BitVec 8) := (tileOf s l).map (·.1)

/-! ### Fetch (R23, R235, R288) -/

/-- What a fetch of code words gives. -/
inductive FetchRes where
  | ok (ws : List W32)
  | raise (r : Raise)
  | wait

/-- Where a code word lies: a cached word that may be executed needs no translation (R245, R284). -/
def locateCode (s : State) (w : Who) (va : Nat) : LocRes × State :=
  match hitLine s w.ctx.asid (va / 4) with
  | some l => if lineServes l .exec then (.ok (.line l), s) else locateMapped s w va .exec
  | none => locateMapped s w va .exec

/-- A code word read at its slice and filled into the shared cache. -/
def fetchWord (s : State) (w : Who) (word : Nat) (l : Loc) : Option W32 × State :=
  let i := locInfo s l
  match devReadLoc s word l with
  | (some x, s) => match findLine s (l.key word) with
    | some ln => (some x, useLine s ln none)
    | none => (some x, useLine s ⟨l.key word, .clean x [], i.pa, i.ex, i.perm, some w.ctxNo⟩ none)
  | r => r

/-- Fetches n words from an address for a stream. -/
def fetchWords (s : State) (w : Who) (va : Nat) : Nat → FetchRes × State
  | 0 => (.ok [], s)
  | n + 1 =>
    if 2 ^ 56 ≤ va then (.raise (.at cXLAT 4 (BitVec.ofNat 64 va)), s)
    else match locateCode s w va with
      | (.raise c k, s) => (.raise (.xlat c k va), s)
      | (.wait, s) => (.wait, s)
      | (.ok l, s) => match postWaiting s w [(va / 4, l)] with
        | (true, s) => (.wait, s)
        | (false, s) => match fetchWord s w (va / 4) l with
          | (none, s) => (.raise { Raise.at cUE 0 (BitVec.ofNat 64 va) with aux0 := 4 }, s)
          | (some x, s) => match fetchWords s w (va + 4) n with
            | (.ok xs, s) => (.ok (x :: xs), s)
            | r => r

end Sys2Proof.Machine
end

