-- ==== Sys2Proof/Machine/Spad.lean ====
section
/-! DEFINITION. The scratchpad: banks, addresses and their checks, bytes, words and scale bytes
(spec/08_scratchpad_and_copies.md R169 to R174). -/

namespace Sys2Proof.Machine

/-- Bytes in a bank, banks on a core, scale bytes of a bank (R169, R174). -/
def bankBytes : Nat := 12288
def coreBytes : Nat := 393216
def coreScale : Nat := 24576

/-- The banks of a mask in ascending order. -/
def banksOf (m : W32) : List Nat := (List.range 32).filter fun i => m.getLsbD i

/-- The banks that a team holds on a core (R170, R171). -/
def teamBanks (t : Team) (core : Nat) : List Nat :=
  match t.cores.find? fun c => c.1 == core with
  | some c => banksOf c.2
  | none => []

/-- A window on scratchpad: the core and its banks in local order. -/
structure SpadView where
  core : Nat
  banks : List Nat
  deriving DecidableEq, Repr

/-- The physical place of a local offset. -/
def SpadView.addr (v : SpadView) (off : Nat) : Nat :=
  v.core * coreBytes + v.banks.getD (off / bankBytes) 0 * bankBytes + off % bankBytes

/-- The scale byte of the granule of a local offset. -/
def SpadView.scaleAddr (v : SpadView) (off : Nat) : Nat :=
  v.core * coreScale + v.banks.getD (off / bankBytes) 0 * 768 + off % bankBytes / 16

/-- OFFSET of a scratchpad address (R171). -/
def spadOff (p : W32) : Nat := bitsOf p.toNat 18 0

/-- A deed's banks overlap the bytes from an offset on. -/
def Deed.overlaps (d : Deed) (off n : Nat) : Bool :=
  decide (d.first * bankBytes < off + n ∧ off < (d.first + d.count) * bankBytes)

/-- A bank of a team's range on a core lies in its save area: the team is halted, and the range is part of its state (R180, R361). -/
def Team.away (t : Team) (core first count : Nat) : Bool :=
  (((teamBanks t core).drop first).take count).any fun b => t.saved.any fun x => x.core == core && x.bank == b

/-- The view that opens n bytes at a scratchpad address to a team on a core, or none (R172, step 2). DESIGN CHOICE
(log 93): where several deeds would serve an offset, the first of the list does; a deed whose banks are saved opens nothing. -/
def spadView (s : State) (team core : Nat) (p : W32) (n : Nat) : Option SpadView :=
  let off := spadOff p
  let fcore := bitsOf p.toNat 24 19
  if bitsOf p.toNat 31 26 ≠ 0 then none
  else if p.getLsbD 25 then
    let origin := core / 64 * 64 + fcore
    match s.deeds.find? fun d => d.origin == origin && d.st == .held team core &&
        decide (d.first * bankBytes ≤ off ∧ off + n ≤ (d.first + d.count) * bankBytes) with
    | some d => match s.teams[d.creator]? with
      | some t => if t.away d.core d.first d.count then none else some ⟨d.core, teamBanks t d.core⟩
      | none => none
    | none => none
  else if fcore ≠ 0 then none
  else match s.teams[team]? with
    | none => none
    | some t =>
      let bs := teamBanks t core
      if bankBytes * bs.length < off + n then none
      else if s.deeds.any fun d => d.core == core && d.creator == team && d.overlaps off n then none
      else some ⟨core, bs⟩

/-- The checks of R172: ALIGN, then DEED. -/
def spadCheck (s : State) (team core : Nat) (p : W32) (n align : Nat) : Except Cause SpadView :=
  if spadOff p % align ≠ 0 then .error cALIGN
  else match spadView s team core p n with
    | some v => .ok v
    | none => .error cDEED

/-- A scratchpad byte; an undefined one is taken from an undefined value (R3, R170). -/
def spadByte (s : State) (k a : Nat) : Byte :=
  match cellGet s.spad a with
  | some b => b
  | none => (freeAt s k).extractLsb' (8 * (a % 4)) 8

/-- A scratchpad word at a physical place. -/
def spadWord (s : State) (k a : Nat) : W32 :=
  wordOf [spadByte s k a, spadByte s k (a + 1), spadByte s k (a + 2), spadByte s k (a + 3)]

/-- Bytes from a local offset on; the i-th takes its undefined value from number k + i. -/
def spadBytes (s : State) (v : SpadView) (k off : Nat) : Nat → List Byte
  | 0 => []
  | n + 1 => spadByte s k (v.addr off) :: spadBytes s v (k + 1) (off + 1) n

/-- A scratchpad byte written. -/
def spadPut (s : State) (a : Nat) (b : Byte) : State := { s with spad := cellSet s.spad a b }

/-- Bytes written from a local offset on. -/
def spadPutBytes (s : State) (v : SpadView) (off : Nat) : List Byte → State
  | [] => s
  | b :: t => spadPutBytes (spadPut s (v.addr off) b) v (off + 1) t

/-- A scale byte, undefined until written. -/
def scaleByte (s : State) (k a : Nat) : Byte :=
  match cellGet s.scale a with
  | some b => b
  | none => (freeAt s k).setWidth 8

/-- A scale byte written. -/
def scalePut (s : State) (a : Nat) (b : Byte) : State := { s with scale := cellSet s.scale a b }

/-- Two ranges of scratchpad bytes overlap. -/
def rangesMeet (lo hi lo' hi' : Nat) : Bool := decide (lo < hi' ∧ lo' < hi)

/-- The physical ranges, at most one a bank, of n bytes from a local offset on. -/
def SpadView.ranges (v : SpadView) (off n : Nat) : List (Nat × Nat) :=
  (List.range v.banks.length).filterMap fun i =>
    let lo := max off (i * bankBytes)
    let hi := min (off + n) ((i + 1) * bankBytes)
    if lo < hi then some (v.addr lo, v.addr lo + (hi - lo)) else none

/-- Some range meets a range of a list. -/
def anyMeets (rs : List (Nat × Nat)) (lo hi : Nat) : Bool := rs.any fun r => rangesMeet r.1 r.2 lo hi

/-- The n scale bytes of the granules from the one of a local offset on; the i-th takes its undefined value from number k + i. -/
def scaleBytes (s : State) (v : SpadView) (k off n : Nat) : List Byte :=
  (List.range n).map fun i => scaleByte s (k + i) (v.scaleAddr (off + 16 * i))

/-! ### Writes that are not ordered for a matrix unit (R204) -/

/-- What is left of a write when a range has been written since. -/
def PadWrite.minus (w : PadWrite) (lo hi : Nat) : List PadWrite :=
  if rangesMeet w.lo w.hi lo hi then
    (if w.lo < lo then [{ w with hi := lo }] else []) ++ if hi < w.hi then [{ w with lo := hi }] else []
  else [w]

/-- A range has a new last writer. -/
def padWrote (g : Nat) (by_ : PadBy) (seen : List Nat) (ws : List PadWrite) (r : Nat × Nat) : List PadWrite :=
  (ws.flatMap fun w => w.minus r.1 r.2) ++ [⟨r.1, r.2, g, by_, [], seen⟩]

/-- The state with ranges noted as written by a group, and ordered for the units of some groups alone. -/
def loosen (s : State) (g : Nat) (by_ : PadBy) (seen : List Nat) (rs : List (Nat × Nat)) : State :=
  { s with padw := rs.foldl (padWrote g by_ seen) s.padw }

/-- Some write of ranges is not ordered for the matrix unit of a group. -/
def isLoose (s : State) (g : Nat) (rs : List (Nat × Nat)) : Bool :=
  s.padw.any fun w => !w.seen.contains g && anyMeets rs w.lo w.hi

/-- A write is ordered for the unit of a group. -/
def PadWrite.see (w : PadWrite) (g : Nat) : PadWrite := if w.seen.contains g then w else { w with seen := g :: w.seen }

/-- A write precedes the release sides of a group: its own store, or one that is ordered before its scalar stream. A transform that no MWAIT
has covered precedes none (R266, R269). -/
def PadWrite.before (w : PadWrite) (g : Nat) : Bool :=
  match w.by_ with
  | .store => w.writer == g || w.seen.contains g
  | .cmd _ => w.seen.contains g
  | .had _ => w.writer != g && w.seen.contains g

/-- A release side of a group (R268). -/
def padRelease (s : State) (g : Nat) (c : PadSync) : State :=
  { s with padw := s.padw.map fun w => if w.before g && !w.syncs.contains c then { w with syncs := w.syncs ++ [c] } else w }

/-- An acquire side of a group, which synchronises with some release sides (R268): what stands before them is ordered for its matrix unit. -/
def padAcquire (s : State) (g : Nat) (p : PadSync → Bool) : State :=
  { s with padw := s.padw.map fun w => if w.syncs.any p && w.writer != g then w.see g else w }

/-- A release side that no acquire side can reach any longer. -/
def padDrop (s : State) (c : PadSync) : State := { s with padw := s.padw.map fun w => { w with syncs := w.syncs.filter (· ≠ c) } }

/-- An acquire by a group: no read made ahead stands, and what stands before the release sides is ordered for it (R204, R268). -/
def acquired (s : State) (g : Nat) (p : PadSync → Bool) : State := padAcquire (dropEarly s g) g p

/-- A scope of a group's fence includes another group (R264). -/
def Scope.includes (s : State) (sc : Scope) (g h : Nat) : Bool :=
  match sc with
  | .group => g == h
  | .team => match s.group? g, s.group? h with
    | some G, some H => G.bind.team == H.bind.team
    | _, _ => false
  | .cluster => match s.group? g, s.group? h with
    | some G, some H => G.loc.clusterId == H.loc.clusterId
    | _, _ => false
  | _ => true

/-- A FENCE of a group with a release at a scope. -/
def fenceRelease (s : State) (g : Nat) (sc : Scope) : State := padRelease s g (.fence g sc)

/-- A FENCE of a group with an acquire at a scope: it synchronises with the fences whose release sequences the group has read, where each
scope includes the other's party. -/
def fenceAcquire (s : State) (g : Nat) (sc : Scope) : State := acquired s g fun c => match c with
  | .got h g' sc' => h == g && Scope.includes s sc g g' && Scope.includes s sc' g' g
  | _ => false

/-- The state with the writes of some ranges forgotten: their banks change hands. -/
def padForget (s : State) (lo n : Nat) : State := { s with padw := s.padw.flatMap fun w => w.minus lo (lo + n) }

end Sys2Proof.Machine
end

