-- ==== Sys2Proof/Machine/Rows.lean ====
section
/-! DEFINITION. Register rows: budgets, self-spill, victims, refetch and pins (spec/06_registers_and_lane_arithmetic.md R119 to
R124; spec/09_matrix_units.md R207). -/

namespace Sys2Proof.Machine

/-- An unmapped register. -/
def VReg.none : VReg := ⟨.unmapped, splat 0, 0xFFFFFFFF#32, false, 0⟩

/-- A vector register of a group. -/
def Group.vreg (G : Group) (r : VNum) : VReg := G.vec.vregs.toList.getD r.toNat VReg.none

/-- A group with a vector register replaced. -/
def Group.putV (G : Group) (r : VNum) (x : VReg) : Group :=
  { G with vec := { G.vec with vregs := G.vec.vregs.setIfInBounds r.toNat x } }

/-- The registers that operations on the matrix unit pin (R207). -/
def MOp.regs (m : MOp) : List VNum := m.ra ++ m.rb ++ m.rc ++ m.rk
/-- The pinned registers of a group; a halt lifts the pins (R221). -/
def Group.pinned (G : Group) : List VNum := if G.halt.isSome then [] else (G.eng.mops.flatMap MOp.regs).eraseDups

/-- Registers of a state. -/
def countSt (st : RowState) (l : List VReg) : Nat := (l.filter fun v => v.st == st).length
/-- Rows that the rename map names (R120). -/
def Group.mapped (G : Group) : Nat := countSt .mapped G.vec.vregs.toList
/-- Rows that a group holds, committed and in flight (R121). -/
def Group.held (G : Group) : Nat := G.mapped + G.lane.flight + G.lane.aheadRows
/-- Registers in the spill state (R121). -/
def Group.spilled (G : Group) : Nat := countSt .spilled G.vec.vregs.toList

/-- The budget that caps a group's rows: at most 192 has effect, and 1 to 7 acts as 8 while an instruction is in flight (R120). -/
def rowCap (budget : Nat) : Nat := max 8 (min budget 192)

/-- The coldest mapped register that is not excluded (R120). -/
def coldestOf (excl : List Nat) (l : List (VReg × Nat)) : Option (Nat × Nat) :=
  l.foldl (fun m p =>
    if p.1.st ≠ .mapped ∨ excl.contains p.2 then m
    else match m with
      | none => some (p.2, p.1.stamp)
      | some (i, t) => if p.1.stamp < t then some (p.2, p.1.stamp) else some (i, t)) none

/-- The coldest row of a group that may go: not excluded, not pinned, and not read by an instruction in flight. -/
def Group.coldest (G : Group) (excl : List VNum) : Option VNum :=
  (coldestOf ((excl ++ G.pinned ++ G.lane.keeps).map (·.toNat)) G.vec.vregs.toList.zipIdx).map fun p => BitVec.ofNat 7 p.1

/-! ### Spill slots (R119, R123, R124) -/

/-- The spill-slot address of a lane of a register. -/
def slotAddr (G : Group) (r : VNum) (lane : Nat) : Nat := G.bind.area.toNat + 128 * r.toNat + 4 * lane

/-- The words that a spill of a register stores: a lane without a defined value stores an undefined one (R3). -/
def spillWords (s : State) (v : VReg) : List W32 :=
  (List.finRange 32).map fun i => if v.undef.getLsbD i.val then (freeAt s i.val).setWidth 32 else v.val[i]

/-- A register's value written to its spill slot, and its entry spilled. -/
def spillRow (s : State) (g : Nat) (r : VNum) : State :=
  match s.group? g with
  | none => s
  | some G =>
    let put (s : State) : State := match s.ctxOf G with
      | some c => areaPut (s.useFree 32) G.loc.coreId c (slotAddr G r 0) (spillWords s (G.vreg r))
      | none => s
    (put s).modGroup g fun G => G.putV r { G.vreg r with st := .spilled }

/-- The words of a register's spill slot. -/
def slotWords (s : State) (G : Group) (r : VNum) : List (Option W32) × State :=
  match s.ctxOf G with
  | some c => areaGet s G.loc.coreId c (slotAddr G r 0) 32
  | none => ([], s)

/-- The words of a register's spill slot must wait for their dies. -/
def slotBusy (s : State) (G : Group) (r : VNum) : Bool × State :=
  match s.ctxOf G with
  | some c => areaBusy s c (slotAddr G r 0) 32
  | none => (false, s)

/-- The lanes of a slot whose word could not be read. -/
def lostLanes (ws : List (Option W32)) : List Nat := (List.range 32).filter fun i => (ws.getD i none).isNone

/-- A register with the words of its slot in a row; a lane whose word could not be read is undefined. -/
def VReg.fetched (v : VReg) (ws : List (Option W32)) : VReg :=
  { v with st := .mapped, val := Vector.ofFn fun i => (ws.getD i.val Option.none).getD 0, undef := maskOf (lostLanes ws) }

/-- The UE of a refetch (R124, R335). -/
def refetchRaise (G : Group) (r : VNum) (lost : List Nat) : Raise :=
  { laneRaise cUE 0 (lost.map fun i => (i, slotAddr G r i)) with aux0 := BitVec.ofNat 64 (3 + 256 * r.toNat) }

/-- A handler serves the failed refetch of a register: what it writes there maps a fresh row and discards the spilled value (R124). -/
def servesRefetch (G : Group) (r : VNum) : Bool :=
  G.trap.hmode && G.trap.cur == cUE && match G.trap.recs.toList.getD cUE none with
    | some x => x.aux0 == BitVec.ofNat 64 (3 + 256 * r.toNat)
    | none => false

/-! ### Victims (R122) -/

/-- Groups of a quadrant. -/
def quadGroups (s : State) (q : Nat) : List Group := s.groups.filter fun G => G.loc.quadId == q

/-- Rows in use in a quadrant, committed and in flight. -/
def quadRows (s : State) (q : Nat) : Nat := (quadGroups s q).foldl (fun n G => n + G.held) 0

/-- Rows pinned in a quadrant. -/
def quadPinned (s : State) (q : Nat) : Nat := (quadGroups s q).foldl (fun n G => n + G.pinned.length) 0

/-- Rows of a quadrant that are not available: pinned, in flight, or read by an instruction that waits. -/
def quadBusy (s : State) (q : Nat) : Nat :=
  (quadGroups s q).foldl (fun n G => n + (G.pinned ++ G.lane.keeps).eraseDups.length + G.lane.flight + G.lane.aheadRows) 0

/-- Fewer than 96 rows of a quadrant would stay available after an issue that takes n of them (R122). -/
def reserveShort (s : State) (q n : Nat) : Bool := decide (672 < quadBusy s q + n)

/-- When a group was halted in place: by HALT or by a cause (R330, R350), or by firmware (R360). -/
def Group.haltNo (G : Group) : Option Nat :=
  match G.status with
  | .trapped _ => some G.stopNo
  | .stopped => some G.stopNo
  | _ => G.halt

/-- Groups of a quadrant as victims (R122): halted ones first, oldest halt first, then running ones, youngest team first. Each with
its rank; a lower rank goes first. -/
def victimRank (G : Group) : Nat × Nat :=
  match G.haltNo with
  | some n => (0, n)
  | none => (1, 2 ^ 40 - G.bind.team)

/-- One rank comes before another. -/
def rankLt (a b : Nat × Nat) : Bool := decide (a.1 < b.1) || (a.1 == b.1 && decide (a.2 < b.2))

/-- The victim row of a quadrant: a group and a register. excl holds registers of group g that its instruction reads. DESIGN CHOICE
(log 49): of groups of one rank, which are groups of one team or groups halted in one step, the lowest in State.groups goes first. -/
def victim (s : State) (q g : Nat) (excl : List VNum) : Option (Nat × VNum) :=
  (s.groups.zipIdx.foldl (fun (m : Option ((Nat × Nat) × Nat × VNum)) p =>
    if p.1.loc.quadId ≠ q then m
    else match p.1.coldest (if p.2 = g then excl else []) with
      | none => m
      | some r => match m with
        | none => some (victimRank p.1, p.2, r)
        | some b => if rankLt (victimRank p.1) b.1 then some (victimRank p.1, p.2, r) else m) none).map (·.2)

/-- An older group of a quadrant waits for a row: waiting writes are served oldest group first. -/
def olderWaits (s : State) (q g : Nat) : Bool :=
  s.groups.zipIdx.any fun p => decide (p.2 < g) && p.1.loc.quadId == q && p.1.lane.stall == .rows && p.1.running

/-- What looking for a row gives: the state with one free, or a wait, for the group's own rows or for the quadrant's. -/
inductive RoomRes where
  | ok (s : State)
  | wait (quad : Bool)

/-- A row of its quadrant for a group whose instruction holds n rows in flight: a free one, or a victim's. -/
def quadSpace (s : State) (q g n : Nat) (excl : List VNum) : RoomRes :=
  if quadRows s q + n + 1 ≤ 768 then .ok s
  else match victim s q g excl with
    | some (h, r) => .ok (spillRow s h r)
    | none => .wait true

/-- Room in its quadrant for one more row of a group while its instruction holds n rows in flight: an older group that waits for a row goes
first, also where one has become free. -/
def quadRoom (s : State) (q g n : Nat) (excl : List VNum) : RoomRes :=
  if olderWaits s q g then .wait true else quadSpace s q g n excl

/-- Room for one more row of a group while its instruction holds n rows in flight (R120, R122). At its budget it takes the row that its own
spill frees. -/
def roomFor (s : State) (g n : Nat) (excl : List VNum) : RoomRes :=
  match s.group? g with
  | none => .wait false
  | some G =>
    if G.held + n + 1 ≤ rowCap G.bind.budget then quadRoom s G.loc.quadId g n excl
    else match G.coldest excl with
      | some r => quadSpace (spillRow s g r) G.loc.quadId g n excl
      | none => .wait false

/-- Rows for n new values beside k already in flight. -/
def roomForAll (s : State) (g k : Nat) (excl : List VNum) : Nat → RoomRes
  | 0 => .ok s
  | n + 1 => match roomFor s g k excl with
    | .ok s => roomForAll s g (k + 1) excl n
    | r => r

/-- What getting registers ready gives: a wait is for the group's own rows or for the quadrant's. -/
inductive RowsRes where
  | ok (s : State)
  | wait (s : State) (quad : Bool)
  | trap (s : State) (r : Raise)

/-- A spilled register refetched into a new row (R119, R124). -/
def refetch (s : State) (g : Nat) (excl : List VNum) (r : VNum) : RowsRes :=
  match s.group? g with
  | none => .wait s false
  | some G =>
    if (G.vreg r).st ≠ .spilled then .ok s
    else match slotBusy s G r with
      | (true, s) => .wait s true
      | (false, s) => match slotWords s G r with
        | (ws, s) =>
          if lostLanes ws ≠ [] then .trap s (refetchRaise G r (lostLanes ws))
          else match roomFor s g 0 excl with
            | .wait q => .wait s q
            | .ok s => .ok (s.modGroup g fun G => G.putV r ((G.vreg r).fetched ws))

/-- The spilled registers of a list refetched. The rows of excl stay. -/
def refetchAll (s : State) (g : Nat) (excl : List VNum) : List VNum → RowsRes
  | [] => .ok s
  | r :: t =>
    match refetch s g excl r with
    | .ok s => refetchAll s g excl t
    | r => r

/-- The spilled registers of a list refetched one after the other, so that they need not be resident together. -/
def refetchEach (s : State) (g : Nat) : List VNum → RowsRes
  | [] => .ok s
  | r :: t =>
    match refetch s g [r] r with
    | .ok s => refetchEach s g t
    | r => r

/-- The registers that an instruction reads or partly writes are refetched, and rows are found for the registers it writes. The old row
of a register that it writes may go once its value has been copied to the new one (R119, R120). What a handler writes to the register whose
refetch it serves takes a fresh row (R124). -/
def ensureRows (s : State) (g : Nat) (reads writes : List VNum) (partly : Bool) : RowsRes :=
  let fresh (r : VNum) : Bool := match s.group? g with
    | some G => servesRefetch G r
    | none => false
  let need := reads ++ if partly then writes.filter fun r => !fresh r else []
  match refetchAll s g need need with
  | .ok s => match roomForAll s g 0 reads writes.length with
    | .ok s => .ok s
    | .wait q => .wait s q
  | r => r

/-- A group with budget 1 to 7 spills down to it at commit (R120). -/
def spillDown (s : State) (g : Nat) : Nat → State
  | 0 => s
  | n + 1 => match s.group? g with
    | none => s
    | some G =>
      if 8 ≤ G.bind.budget ∨ G.mapped ≤ G.bind.budget then s
      else match G.coldest [] with
        | some r => spillDown (spillRow s g r) g n
        | none => s

/-- A register released: its row is free and its value undefined (R51). -/
def Group.release (G : Group) (r : VNum) : Group := G.putV r VReg.none

/-- The stamps of touched registers (R120). -/
def Group.touch (G : Group) (t : Nat) (rs : List VNum) : Group :=
  rs.foldl (fun G r => if (G.vreg r).st = .mapped then G.putV r { G.vreg r with stamp := t } else G) G

end Sys2Proof.Machine
end

