-- ==== Sys2Proof/Machine/Operands.lean ====
section
/-! DEFINITION. The operand forms of lane instructions: where each source comes from, its permutation and value modifier, constants
and immediates, masks and active lanes (spec/02_streams_and_encoding.md R29, R37 to R46; spec/06 R131, R144). -/

namespace Sys2Proof.Machine

/-- A value of a lane: the low bits that its type has, zero above; 64 bits under a pair type. -/
abbrev LVal := W64

/-- A pattern cut to a width. -/
def lowBits (n : Nat) (x : W64) : W64 := if n = 64 then x else x &&& ((1#64 <<< n) - 1)

/-- The IEEE format of a type. -/
def fmtOf (t : LTy) : FFmt :=
  match t with
  | .h16 => fmtH16
  | .b16 => fmtB16
  | _ => fmtF32

/-- The integer that a value stands for: signed under .i types, natural otherwise (R131). -/
def intOf (t : LTy) (x : LVal) : Int :=
  let n := t.width
  let v := x.toNat % 2 ^ n
  if t.isSigned && decide (2 ^ (n - 1) ≤ v) then (v : Int) - (2 ^ n : Nat) else v

/-- The low bits of an integer under a type, modulo its width. -/
def ofIntTy (t : LTy) (i : Int) : LVal := BitVec.ofNat 64 (i % (2 ^ t.width : Nat)).toNat

/-- The exact value of a pattern under a type: a real, or a special value (R72 to R81). -/
def fvalOf (t : LTy) (x : LVal) : FVal :=
  if t.isTaper then decodeTaper t.width (x.toNat % 2 ^ t.width)
  else if t.isIeee then decodeIeee (fmtOf t) (x.toNat % 2 ^ t.width)
  else ofInt (intOf t x)

/-! ### Constants and immediates (R40, R46) -/

/-- The integer column of the constant table, by code − 192. -/
def constInt (c : Nat) : Int :=
  if c < 32 then c
  else match c with
    | 32 => -1
    | 33 => -2
    | 34 => 32
    | 35 => 64
    | 36 => 128
    | 37 => 255
    | 38 => 256
    | 39 => 1024
    | 40 => 65535
    | 41 => 65536
    | 42 => 0x7FFFFFFF
    | 43 => 0x80000000
    | 44 => 0xFFFF0000
    | 45 => 0x0F0F0F0F
    | 46 => 0x33333333
    | _ => 0x55555555

/-- The float column, rounded RNE into a format (R40): ln 2, log2 e, π and 1/√2 from 96-bit fractions. -/
def constFloat (f : FFmt) (c : Nat) : Nat :=
  let r (m : Nat) (e : Int) : Nat := (toIeee f .rne (.fin false m e)).1
  if c < 32 then r c 0
  else match c with
    | 32 => r 1 0 + f.signBit
    | 33 => r 2 0 + f.signBit
    | 34 => r 1 (-1)
    | 35 => r 1 (-2)
    | 36 => r 1 (-3)
    | 37 => r 3 (-1)
    | 38 => r 0xb17217f7d1cf79abc9e3b398 (-96)
    | 39 => r 0x171547652b82fe1777d0ffda1 (-96)
    | 40 => r 0x3243f6a8885a308d313198a2e (-96)
    | 41 => r 0xb504f333f9de6484597d89b3 (-96)
    | 42 => f.infBits
    | 43 => f.infBits + f.signBit
    | 44 => f.infBits - 1
    | 45 => 1
    | 46 => 2 ^ f.fb
    | _ => f.nanBits

/-- A constant in the type in which the source is read. -/
def constVal (t : LTy) (c : BitVec 6) : LVal :=
  if t.isIeee then BitVec.ofNat 64 (constFloat (fmtOf t) c.toNat) else ofIntTy t (constInt c.toNat)

/-- An immediate in a type. -/
def immVal (t : LTy) (x : W32) : LVal :=
  match t with
  | .i64 => sext64 x
  | .n64 => zext64 x
  | _ => lowBits t.width (zext64 x)

/-! ### Sources -/

/-- The scalar registers of a snapshot: base and how many (R27, R29). -/
def snapCount (base : SReg) : Nat := if base = 0#6 then 0 else min 4 (64 - base.toNat)

/-- A scalar source: zero for s0, a snapshot value, or none for any other register (R29). -/
def snapVal (r : Run) (x : SReg) : Option W64 :=
  if x = 0#6 then some 0
  else if r.base.toNat ≤ x.toNat ∧ x.toNat < r.base.toNat + snapCount r.base then
    some (r.snap.toList.getD (x.toNat - r.base.toNat) 0)
  else none

/-- The lane that supplies lane i under a permutation (R42). -/
def permLane (p : Perm) (i : Nat) : Nat :=
  match p with
  | .none => i
  | .rot g d => let S := 2 ^ g.toNat; i - i % S + (i % S + d.toNat) % S
  | .bfly _ d => Nat.xor i d.toNat
  | .bcast g d => let S := 2 ^ g.toNat; i - i % S + d.toNat

/-- What a lane instruction reads from. -/
structure LaneEnv where
  s : State
  G : Group
  run : Run
  /-- Registers whose values are undefined for this instruction: released in the chain, or pinned (R51, R207). -/
  lost : List VNum
  /-- Its active lanes: from a latch, an inactive lane supplies an undefined value (R42). -/
  act : Mask

/-- One lane of a vector register; k numbers the undefined value it stands for where it has none (R3). -/
def laneOfReg (x : LaneEnv) (k : Nat) (r : VNum) (i : Nat) : W32 :=
  let v := x.G.vreg r
  if x.lost.contains r ∨ v.st = .unmapped ∨ v.undef.getLsbD i = true then (freeAt x.s k).setWidth 32
  else v.val.toList.getD i 0

/-- One lane of a latch (R42). -/
def laneOfLatch (x : LaneEnv) (k : Nat) (n : BitVec 3) (i : Nat) : W64 :=
  let l : LatchLane := if x.act.getLsbD i then (x.G.lane.latches.toList.getD n.toNat (splat ⟨none, none⟩)).toList.getD i ⟨none, none⟩
    else ⟨none, none⟩
  l.hi.getD ((freeAt x.s (k + 1)).setWidth 32) ++ l.lo.getD ((freeAt x.s k).setWidth 32)

/-- The raw 64 bits of lane i of a source read in a type; j numbers its source for undefined values. DESIGN CHOICE (log 90): the lane
index and EM are bit patterns in every type, also in a floating-point or tapered one: R38 gives no number format for them. -/
def rawLane (x : LaneEnv) (t : LTy) (j : Nat) (src : Src) (i : Nat) : W64 :=
  let k := 64 * j + 2 * i
  match src with
  | .v r => if t.isPair then laneOfReg x (k + 1) (r + 1) i ++ laneOfReg x k r i else zext64 (laneOfReg x k r i)
  | .s r => (snapVal x.run r).getD 0
  | .const c => constVal t c
  | .em => zext64 x.G.lane.em
  | .lane => BitVec.ofNat 64 i
  | .latch n => laneOfLatch x k n i
  | .imm y => immVal t y
  | _ => 0

/-- The value modifier (R42, R80): a sign change on the decoded value, wrapping on integers. A NaN or NaR stays as it is. -/
def applyVMod (t : LTy) (m : VMod) (x : LVal) : LVal :=
  match m with
  | .none => x
  | _ =>
    if t.isIeee then
      let f := fmtOf t
      if f.isNaN x.toNat then x
      else
        let sgn := BitVec.ofNat 64 f.signBit
        match m with
        | .neg => x ^^^ sgn
        | .abs => x &&& ~~~sgn
        | _ => x ||| sgn
    else if t.isTaper then
      let n := t.width
      let sgn : W64 := 1#64 <<< (n - 1)
      if x = 0 ∨ x = sgn then x
      else match m with
        | .neg => x ^^^ sgn
        | .abs => x &&& ~~~sgn
        | _ => x ||| sgn
    else
      let i := intOf t x
      let a : Int := i.natAbs
      ofIntTy t (match m with
        | .neg => -i
        | .abs => a
        | _ => -a)

/-- A source operand in a type, over all lanes. -/
def readOpnd (x : LaneEnv) (t : LTy) (j : Nat) (o : Opnd) : Lanes LVal :=
  Vector.ofFn fun i => applyVMod t o.vmod (lowBits t.width (rawLane x t j o.src (permLane o.perm i.val)))

/-- A mask operand (R144). -/
def readMask (x : LaneEnv) (src : Src) : Mask :=
  match src with
  | .mask k => if k = 7#3 then 0xFFFFFFFF#32 else x.G.vec.kregs.toList.getD k.toNat 0
  | .em => x.G.lane.em
  | .s r => ((snapVal x.run r).getD 0).setWidth 32
  | _ => 0

/-- The active lanes (R37). -/
def activeMask (G : Group) (p : Pred) : Mask :=
  match p with
  | .always => G.lane.em
  | .on k neg =>
    let m := G.vec.kregs.toList.getD k.toNat 0
    G.lane.em &&& (if neg then ~~~m else m)

/-- The lanes of a mask, ascending. -/
def lanesOf (m : Mask) : List Nat := (List.range 32).filter fun i => m.getLsbD i

/-! ### What a form names -/

/-- The registers of a source read in a type. -/
def Opnd.regs (t : LTy) (o : Opnd) : List VNum :=
  match o.src with
  | .v r => if t.isPair then [r, r + 1] else [r]
  | _ => []

/-- The type in which a source of a kind is read, if it is an ordinary one. -/
def kindTy (k : SrcKind) (f : LForm) : Option LTy :=
  match k with
  | .data r => some (readTy r f)
  | .plain r => some (readTy r f)
  | .base => some .n64
  | .offset => some .i32
  | _ => none

/-- The registers that a source of a kind reads. -/
def srcRegs (k : SrcKind) (f : LForm) (o : Opnd) : List VNum :=
  match kindTy k f with
  | some t => Opnd.regs t o
  | none => []

/-- The registers that an instruction reads (R119). -/
def readRegs (row : LaneRow) (f : LForm) : List VNum := srcRegs row.a f f.a ++ srcRegs row.b f f.b ++ srcRegs row.c f f.c

/-- The registers that its last-use marks release (R51). -/
def markedRegs (row : LaneRow) (f : LForm) : List VNum :=
  (if f.a.last then srcRegs row.a f f.a else []) ++ (if f.b.last then srcRegs row.b f f.b else []) ++
    (if f.c.last then srcRegs row.c f f.c else [])

/-- The vector registers that its destination names: a pair under a 64-bit result (R41, R134). -/
def destRegs (row : LaneRow) (f : LForm) : List VNum :=
  match f.dest with
  | .v r => if row.dest = .pair ∨ (row.dest = .v ∧ f.ty.isPair = true) then [r, r + 1] else [r]
  | _ => []

/-- The latches that its sources name. -/
def latchReads (f : LForm) : List (BitVec 3) :=
  [f.a, f.b, f.c].filterMap fun o => match o.src with
    | .latch n => some n
    | _ => none

/-- The scalar registers that its sources name. -/
def scalarReads (f : LForm) : List SReg :=
  [f.a, f.b, f.c].filterMap fun o => match o.src with
    | .s r => some r
    | _ => none

/-- A source has a permutation, or is EM (R161). -/
def usesPermOrEm (f : LForm) : Bool :=
  [f.a, f.b, f.c].any fun o => o.perm != .none || o.src == .em

end Sys2Proof.Machine
end

