-- ==== Sys2Proof/Machine/Flags.lean ====
section
/-! DEFINITION. Results and flags: placement of a result, FPSTAT and FPX (spec/04_number_formats.md R71 to R76;
spec/06_registers_and_lane_arithmetic.md R141 to R143). -/

namespace Sys2Proof.Machine

/-- A result of a lane with the flags it raises. -/
structure LaneRes where
  val : LVal
  fl : FFlags
  deriving DecidableEq, Repr

/-- A result that raises no flag. -/
def LaneRes.of (x : LVal) : LaneRes := ⟨x, 0⟩

/-- A result under a type as it sits in a lane register (R71): .i8 and .i16 sign-extended to 32 bits, the others zero-extended. -/
def place (t : LTy) (x : LVal) : LVal :=
  match t with
  | .i8 => ((x.setWidth 8).signExtend 32).setWidth 64
  | .i16 => ((x.setWidth 16).signExtend 32).setWidth 64
  | _ => lowBits t.width x

/-- An exact result rounded into an IEEE type. -/
def roundTo (t : LTy) (md : Rnd) (x : Exact) : LaneRes :=
  let r := x.round (fmtOf t) md
  ⟨BitVec.ofNat 64 r.1, r.2⟩

/-- The rounding mode of VAR (R45). -/
def rndOf (v : BitVec 3) : Rnd :=
  match v.toNat with
  | 1 => .rtz
  | 2 => .rdn
  | 3 => .rup
  | _ => .rne

/-- The flags that the lanes of a mask raise together. -/
def flagsOf (m : Mask) (rs : Lanes LaneRes) : FFlags :=
  (lanesOf m).foldl (fun fl i => fl ||| (rs.toList.getD i ⟨0, 0⟩).fl) 0

/-- The lanes of a mask that raise an enabled flag. -/
def fpxLanes (m : Mask) (en : BitVec 4) (rs : Lanes LaneRes) : List Nat :=
  (lanesOf m).filter fun i => (rs.toList.getD i ⟨0, 0⟩).fl &&& en ≠ 0

/-- FPX (R142): its lanes and the enabled flags raised. -/
def fpxRaise (m : Mask) (en : BitVec 4) (rs : Lanes LaneRes) : Raise :=
  { Raise.plain cFPX with lanes := maskOf (fpxLanes m en rs), aux0 := zext64 (flagsOf m rs &&& en) }

end Sys2Proof.Machine
end

