-- ==== Sys2Proof/Machine/Lane.lean ====
section
/-! DEFINITION. How a lane instruction begins and ends: the checks common to all, rows, chains, latches, marks, results and STEP
(spec/02_streams_and_encoding.md R25, R29, R37, R47 to R51, R57; spec/06 R119 to R125; spec/07 R161; spec/09 R207; spec/16 R338,
R348, R349). -/

namespace Sys2Proof.Machine

/-- What the meaning of a lane instruction works on: the state with its rows ready, its group, sources and active lanes. -/
structure LaneIn where
  s : State
  g : Nat
  G : Group
  w : Who
  f : LForm
  row : LaneRow
  env : LaneEnv
  pc : W64
  act : Mask
  a : Lanes LVal
  b : Lanes LVal
  c : Lanes LVal
  dbg : Dbg
  /-- It touches a pinned register (R207). -/
  clash : Bool

/-- The address of the next lane instruction. -/
def LaneIn.next (x : LaneIn) : W64 := x.pc + 12

/-! ### Compacted regions (R161) -/

/-- The open, compacted meeting that a group is a member of. -/
def meetOf (s : State) (g : Nat) : Option (Nat × Meet) :=
  (s.meets.zipIdx.find? fun p => !p.1.closed && p.1.members.any fun m => m.group == g).map fun p => (p.2, p.1)

/-- A group runs compacted threads of the program. DESIGN CHOICE (log 91): the ILLs of R161 are those of the program's threads, not of a
handler's own runs on a member, of which the rule does not speak. -/
def compacted (s : State) (g : Nat) (G : Group) : Bool :=
  !G.trap.hmode && match meetOf s g with
    | some (_, m) => !m.admitting
    | none => false

/-- Opcodes that a compacted region does not allow: VOTE, ELECT, ISECT, SCANK, SEGRED, ITEM, STOP. -/
def banned (op : Nat) : Bool := [0x085, 0x086, 0x0C0, 0x0C1, 0x0C2, 0x084, 0x083].contains op

/-- What R161 refuses in a compacted region. -/
def regionBad (op : Nat) (f : LForm) : Bool := banned op || usesPermOrEm f || f.dest == .em

/-! ### Chains (R48, R49) -/

/-- A follower may stand where it does: in a chain, at a position up to 8, reading latches written inside it. -/
def followerOk (c : Option Chain) (f : LForm) : Bool :=
  match latchReads f with
  | [] => true
  | ls => match c with
    | none => false
    | some c => decide (c.pos ≤ 8) && ls.all fun n => decide (n.toNat < c.pos)

/-- Whether the instruction at an address reads a latch: none when it cannot be fetched yet. DESIGN CHOICE (log 121): a word that does not decode
reads none, also where its bits name a latch. -/
def peekFollower (s : State) (g : Nat) (pc : W64) : Option Bool :=
  match s.group? g with
  | none => some false
  | some G => match whoLane s g G with
    | none => some false
    | some w => match fetchWords s w pc.toNat 3 with
      | (.ok [x, y, z], _) => match decodeLane (z ++ y ++ x) with
        | .ok i => match laneParts i with
          | some (_, f) => some (latchReads f != [])
          | none => some false
        | .error _ => some false
      | _ => none

/-- The chain after an instruction: a fixed-latency one opens or extends it while the next instruction reads a latch, or may (R48). -/
def chainAfter (s : State) (g : Nat) (old : Option Chain) (latch : Bool) (follows : Bool) (pc next : W64) : Option Chain :=
  if !latch then none
  else
    let c : Chain := match follows, old with
      | true, some c => ⟨c.head, c.pos + 1⟩
      | _, _ => ⟨pc, 1⟩
    if peekFollower s g next = some false then none else some c

/-! ### Clashes with the matrix unit (R207) -/

/-- Operations that pin a register of a list. -/
def clashes (G : Group) (rs : List VNum) : List MOp := G.eng.mops.filter fun m => m.regs.any rs.contains

/-- Registers with undefined values in every lane: the elements that an operation writes. -/
def Group.spoilRegs (G : Group) (rs : List VNum) : Group :=
  rs.foldl (fun G r => G.putV r { G.vreg r with undef := 0xFFFFFFFF#32 }) G

/-- Operations that clash write undefined values: those already complete have their results undefined now. -/
def Group.spoilOps (G : Group) (ns : List Nat) : Group :=
  let hit : MOp → Bool := fun m => ns.contains m.num
  let G := (G.eng.mops.filter fun m => hit m && m.st != .flight).foldl (fun G m => G.spoilRegs (m.rc ++ m.rk)) G
  { G with eng := { G.eng with mops := G.eng.mops.map fun m => if hit m then { m with spoiled := true } else m } }

/-! ### Results (R39, R41, R47, R71) -/

/-- A register with new words in some lanes; the others keep their old value (R10, R119), if it had a row. forget: the old row has been released
by a mark of an earlier member of the chain (R51). -/
def mergeReg (old : VReg) (forget : Bool) (act : Mask) (res : Lanes W32) (t : Nat) : VReg :=
  let gone := forget || old.st != .mapped
  { st := .mapped
    val := Vector.ofFn fun i => if act.getLsbD i then res[i] else old.val[i]
    undef := (if gone then 0xFFFFFFFF#32 else old.undef) &&& ~~~act
    loose := true
    stamp := t }

/-- A group with words written to some lanes of a destination register: undefined ones where the instruction touches a pinned register
(R207). -/
def LaneIn.writeReg (x : LaneIn) (G : Group) (r : VNum) (m : Mask) (res : Lanes W32) : Group :=
  let v := mergeReg (G.vreg r) (x.env.lost.contains r) m res x.s.tick
  G.putV r { v with undef := v.undef ||| (if x.clash then m else 0) }

/-- A group with the words of a destination register written in the active lanes. -/
def LaneIn.putReg (x : LaneIn) (G : Group) (r : VNum) (res : Lanes W32) : Group := x.writeReg G r x.act res

/-- Low and high words. -/
def loWords (v : Lanes LVal) : Lanes W32 := v.map fun (y : W64) => y.setWidth 32
def hiWords (v : Lanes LVal) : Lanes W32 := v.map fun (y : W64) => (y >>> 32).setWidth 32

/-- A group with a result written to a vector destination; a mask or no destination leaves it. -/
def LaneIn.putDest (x : LaneIn) (G : Group) (res : Lanes LVal) : Group :=
  match destRegs x.row x.f with
  | [r] => x.putReg G r (loWords res)
  | [r, r'] => x.putReg (x.putReg G r (loWords res)) r' (hiWords res)
  | _ => G

/-- The latches shifted with a new L0 (R47): undefined in inactive lanes; a 32-bit result leaves the upper half undefined. -/
def pushLatch (ls : Vector (Lanes LatchLane) 8) (act : Mask) (pair : Bool) (res : Lanes LVal) : Vector (Lanes LatchLane) 8 :=
  Vector.ofFn fun n =>
    if n.val = 0 then Vector.ofFn fun i =>
      if act.getLsbD i then ⟨some (res[i].setWidth 32), if pair then some ((res[i] >>> 32).setWidth 32) else none⟩
      else ⟨none, none⟩
    else ls.toList.getD (n.val - 1) (splat ⟨none, none⟩)

/-- A group with a result in L0: an undefined one where the instruction touches a pinned register (R207). -/
def LaneIn.putL0 (x : LaneIn) (G : Group) (pair : Bool) (res : Lanes LVal) : Group :=
  { G with lane := { G.lane with latches := pushLatch G.lane.latches (if x.clash then 0 else x.act) pair res } }

/-- The mask register of a destination with the bits of the active lanes written. -/
def putMaskBits (G : Group) (k : BitVec 3) (act m : Mask) : Group :=
  let old := G.vec.kregs.toList.getD k.toNat 0
  { G with vec := { G.vec with kregs := G.vec.kregs.setIfInBounds k.toNat ((old &&& ~~~act) ||| (m &&& act)) } }

/-- A group with a mask result in the active lanes: an undefined one where the instruction touches a pinned register (R207). -/
def LaneIn.putMask (x : LaneIn) (G : Group) (k : BitVec 3) (m : Mask) : Group :=
  putMaskBits G k x.act (if x.clash then (freeAt x.s 192).setWidth 32 else m)

/-- An instruction works on numbers whose arithmetic can raise a flag: in its own type, or in the type of its first source. -/
def LaneIn.mayFlag (x : LaneIn) : Bool := x.f.ty.isIeee || match kindTy x.row.a x.f with
  | some t => t.isIeee || t.isTaper
  | none => false

/-- The flags that an arithmetic instruction sets (R142): undefined ones where it touches a pinned register (R207). -/
def LaneIn.flags (x : LaneIn) (rs : Lanes LaneRes) : FFlags :=
  if x.clash && x.mayFlag then (freeAt x.s 193).setWidth 4 else flagsOf x.act rs

/-- A group with those flags in FPSTAT. -/
def LaneIn.flagged (x : LaneIn) (rs : Lanes LaneRes) : Group :=
  { x.G with sc := { x.G.sc with fpstat := x.G.sc.fpstat ||| x.flags rs } }

/-- FPX is raised (R142). What touches a pinned register raises no trap for it (R207). -/
def LaneIn.fpx (x : LaneIn) (rs : Lanes LaneRes) : Bool := !x.clash && !(fpxLanes x.act x.G.sc.fpctl rs).isEmpty

/-- Ends with the group as given. -/
def LaneIn.done (x : LaneIn) (G : Group) : LRes := .done (x.s.setGroup x.g G) x.next

/-- Ends an arithmetic instruction: FPX, or the flags, the destination and L0 (R47, R142). -/
def LaneIn.result (x : LaneIn) (t : LTy) (rs : Lanes LaneRes) : LRes :=
  let G := x.flagged rs
  if x.fpx rs then .trap (x.s.setGroup x.g G) (fpxRaise x.act G.sc.fpctl rs)
  else
    let res := rs.map fun r => place t r.val
    x.done (x.putL0 (x.putDest G res) t.isPair res)

/-- Ends a comparison: a mask or a vector of all ones and zeros, and L0 (R134, R139). -/
def LaneIn.compare (x : LaneIn) (m : Mask) (fl : Lanes LaneRes) : LRes :=
  let G := x.flagged fl
  if x.fpx fl then .trap (x.s.setGroup x.g G) (fpxRaise x.act G.sc.fpctl fl)
  else
    let res : Lanes LVal := Vector.ofFn fun i => if m.getLsbD i then 0xFFFFFFFF#64 else 0
    let G := match x.f.dest with
      | .k k => x.putMask G k m
      | _ => x.putDest G res
    x.done (x.putL0 G false res)

/-! ### Begin and end -/

/-- STEP of a lane step (R335, R348). -/
def laneStep (s : State) (g : Nat) (G : Group) (pc : W64) : State :=
  let r := stepRaise G.lane.em
  takeCause (writeCause s G r true pc pc false) g (noteCause G r true pc pc false) cSTEP

/-- A group whose instruction has touched pinned registers: what their operations write is undefined (R207). The results of the
instruction itself are undefined where they are written (log 114). -/
def LaneIn.spoil (x : LaneIn) (G : Group) (dests : List VNum) : Group :=
  G.spoilOps ((clashes x.G (readRegs x.row x.f ++ dests)).map (·.num))

/-- A retired lane instruction: the lane PC moves on, marks and the chain are settled, and with MODE 2 STEP is raised when a step
ends (R51, R120, R149, R338, R339, R348). -/
def laneRetire (x : LaneIn) (s : State) (next : W64) : State :=
  let s := syncStack (clearParty s (.lane x.g) x.pc) x.g x.G.lane.stack
  match s.group? x.g with
  | none => s
  | some G =>
    let dests := destRegs x.row x.f
    let marks := (markedRegs x.row x.f).filter fun r => !dests.contains r
    let chain := chainAfter s x.g x.G.lane.chain x.row.latch (latchReads x.f != []) x.pc next
    let rel := G.lane.rel.filter (fun r => !dests.contains r) ++ marks
    let G := if x.clash then x.spoil G dests else G
    let G := match chain with
      | some _ => { G with lane := { G.lane with rel := rel } }
      | none => rel.foldl Group.release { G with lane := { G.lane with rel := [] } }
    let ended := chain.isNone
    let prog := !x.G.trap.hmode
    let G := { G with
      lane := { G.lane.letGo with lpc := next, chain := chain, stall := .none }
      trap := { G.trap with
        firstL := if ended && prog then false else G.trap.firstL
        supplied := if ended && prog then splat none else G.trap.supplied } }
    let G := G.touch x.s.tick (readRegs x.row x.f ++ dests)
    let s := spillDown { (s.setGroup x.g G).useFree 256 with tick := s.tick + 1 } x.g 8
    if G.dbg.stepm = 2#2 ∧ ended = true ∧ prog = true ∧ G.trap.hmode = false ∧ G.gone = false then
      match s.group? x.g with
      | some G => laneStep s x.g G x.pc
      | none => s
    else s

/-- KIND 3 of the watch: a lane fetch (R349). -/
def fetchWatched (G : Group) (pc : W64) : Bool :=
  !G.trap.hmode && !G.trap.firstL && G.dbg.wctl.getLsbD 7 && bitsOf G.dbg.wctl.toNat 6 5 == 3 &&
    watched G.dbg pc.toNat 4

/-- The WATCH of a lane fetch. -/
def fetchWatchRaise (G : Group) (pc : W64) : Raise :=
  laneRaise cWATCH 0 ((lanesOf G.lane.em).map fun i => (i, pc.toNat))

/-- A cause of the lane stream with the answers to its instruction spent. -/
def trapLane (s : State) (g : Nat) (pc : W64) (r : Raise) : Host.Outcome State Fault Refusal :=
  let s := clearParty s (.lane g) pc
  match s.group? g with
  | none => .fault .noGroup
  | some G => .next (laneTrap s g G r)

/-- What a lane instruction checks before it obtains rows: its privilege, then what depends on its run, its chain and its region (R29,
R48, R57, R58, R161). -/
def laneCheck (s : State) (g : Nat) (G : Group) (run : Run) (op : Nat) (f : LForm) (handler : Bool) : Option Raise :=
  if handler && !G.trap.hmode then some (.plain cPRIV)
  else if handler && !lateOk f then some (.plain cILL)
  else if !followerOk G.lane.chain f || !((scalarReads f).all fun r => (snapVal run r).isSome) ||
      (compacted s g G && regionBad op f) then some (.plain cILL)
  else none

/-! ### The operand log (R127) -/

/-- The entry of a party's instruction. -/
def loggedOps (s : State) (p : Party) (pc : W64) : Option OpEntry := s.oplog.find? fun e => e.party == p && e.pc == pc

/-- A fault of a party is being served. -/
def inService (s : State) (p : Party) : Bool := s.faults.any fun f => !f.closed && f.joined.any fun x => x.1 == p

/-- An instruction whose fault is being served takes an entry, if its quadrant has one free of its 16. -/
def logOps (s : State) (e : OpEntry) : State :=
  if inService s e.party && (loggedOps s e.party e.pc).isNone && decide ((s.oplog.filter fun x => x.quad == e.quad).length < 16) then
    { s with oplog := s.oplog ++ [e] }
  else s

/-- The sources of a lane instruction, and what it works on. An instruction that executes again takes its sources from the operand
log. -/
def laneIn (s : State) (g : Nat) (G : Group) (w : Who) (run : Run) (row : LaneRow) (f : LForm) : LaneIn :=
  let regs := readRegs row f ++ destRegs row f
  let cl := clashes G regs
  let act := activeMask G f.pred
  let env : LaneEnv := ⟨s, G, run, G.lane.rel ++ cl.flatMap MOp.regs, act⟩
  let rd (k : SrcKind) (j : Nat) (o : Opnd) : Lanes LVal := match kindTy k f with
    | some t => readOpnd env t j o
    | none => splat 0
  let x : LaneIn :=
    { s := s, g := g, G := G, w := w, f := f, row := row, env := env, pc := G.lane.lpc
      act := act
      a := rd row.a 0 f.a, b := rd row.b 1 f.b, c := rd row.c 2 f.c
      dbg := ⟨G.dbg, G.trap.hmode || G.trap.firstL, !G.trap.firstL⟩
      clash := !cl.isEmpty }
  match loggedOps s (.lane g) x.pc with
  | some e => { x with act := e.act, a := e.a, b := e.b, c := e.c }
  | none => x

/-- The opcode of an atomic: it never enters the operand log (R252). -/
def isAtom (op : Nat) : Bool := decide (0x0B0 ≤ op ∧ op ≤ 0x0B7)

/-- A lane instruction that may enter the operand log. -/
def logsOps (i : Instr) : Bool := match laneParts i with
  | some (op, _) => !isAtom (op % 512)
  | none => true

/-- A lane instruction that waits: it takes an entry of the operand log where its fault is being served and log says that it may, and
without one keeps its source rows; the rows for its results are in flight (R120, R126, R127). -/
def laneWait (x : LaneIn) (log : Bool) (s : State) : State :=
  let head := if latchReads x.f = [] then none else x.G.lane.chain.map (·.head)
  let put (s : State) : State := if log then logOps s ⟨x.G.loc.quadId, .lane x.g, x.pc, head, x.act, x.a, x.b, x.c⟩ else s
  let s := syncStack (put s) x.g x.G.lane.stack
  let keeps := if (loggedOps s (.lane x.g) x.pc).isSome then [] else readRegs x.row x.f
  s.modGroup x.g fun G => { G with lane := { G.lane with keeps := keeps, flight := (destRegs x.row x.f).length } }

/-- A group whose lane instruction begins: one that reads no latch begins a new chain, and the marks left by the last one are settled first
(R48, R51), with the end of what serves the resumed instruction alone (R338, R339); what the instruction held while it waited is found
anew. -/
def Group.laneBegin (G : Group) (f : LForm) : Group :=
  let G := { G with lane := G.lane.letGo }
  if latchReads f = [] then
    let past := G.lane.chain.isSome && !G.trap.hmode
    let G := G.lane.rel.foldl Group.release G
    { G with
      lane := { G.lane with chain := none, rel := [] }
      trap := { G.trap with
        firstL := !past && G.trap.firstL, supplied := if past then splat none else G.trap.supplied } }
  else G

/-- The registers that must be resident for an instruction: one that executes again from the operand log reads none (R127). -/
def rowReads (s : State) (g : Nat) (pc : W64) (row : LaneRow) (f : LForm) : List VNum :=
  if (loggedOps s (.lane g) pc).isSome then [] else readRegs row f

/-- Executes a lane meaning on the current group. op is its opcode without the immediate bit; handler says that it is legal in
handler mode only. DESIGN CHOICE (log 70): the watch of a fetch stands before the checks of laneCheck, with which the spec does not order
it. -/
def runLane (s : State) (op : Nat) (f : LForm) (handler : Bool) (body : LaneIn → LRes) : Host.Outcome State Fault Refusal :=
  let g := s.cur
  match s.group? g, laneRow op with
  | some G, some row =>
    match G.lane.run, whoLane s g G with
    | some run, some w =>
      let pc := G.lane.lpc
      let G := G.laneBegin f
      let s := s.setGroup g G
      if fetchWatched G pc then trapLane s g pc (fetchWatchRaise G pc)
      else match laneCheck s g G run op f handler with
        | some r => trapLane s g pc r
        | none =>
          match ensureRows s g (rowReads s g pc row f) (destRegs row f) (activeMask G f.pred != 0xFFFFFFFF#32 || op == 0x084) with
          | .wait s quad => .next (s.modGroup g fun G => { G with lane := { G.lane with stall := if quad then .rows else .none } })
          | .trap s r => trapLane s g pc r
          | .ok s =>
            match s.group? g with
            | none => .fault .noGroup
            | some G =>
              let x := laneIn s g G w run row f
              match body x with
              | .done s' next => .next (laneRetire x s' next)
              | .wait s' => .next (laneWait x (!isAtom op) s')
              | .trap s' r => trapLane s' g pc r
    | _, _ => .fault .noGroup
  | _, _ => .fault .noGroup

end Sys2Proof.Machine
end

