-- ==== Sys2Proof/Machine/LaneAlu.lean ====
section
/-! DEFINITION. Lane integer, bit-field, comparison, select and move instructions
(spec/06_registers_and_lane_arithmetic.md R131 to R135). -/

namespace Sys2Proof.Machine

/-- A result of each lane from source a. -/
def LaneIn.map1 (x : LaneIn) (f : LVal → LaneRes) : Lanes LaneRes := x.a.map f
/-- A result of each lane from sources a and b. -/
def LaneIn.map2 (x : LaneIn) (f : LVal → LVal → LaneRes) : Lanes LaneRes := Vector.zipWith f x.a x.b
/-- A result of each lane from its three sources. -/
def LaneIn.map3 (x : LaneIn) (f : LVal → LVal → LVal → LaneRes) : Lanes LaneRes :=
  Vector.ofFn fun i => f x.a[i] x.b[i] x.c[i]
/-- The lanes, from 0 on, of which a test holds. -/
def maskWhere (p : Fin 32 → Bool) : Mask :=
  (List.finRange 32).foldl (fun m i => if p i then m ||| (1#32 <<< i.val) else m) 0

/-- An integer result under the instruction's type (R131). -/
def intRes (t : LTy) (i : Int) : LaneRes := .of (ofIntTy t i)

/-- The reversal of the low n bits of a value (BREV). -/
def revBits (x : Nat) : Nat → Nat
  | 0 => 0
  | n + 1 => 2 * revBits x n + (if Nat.testBit x n then 1 else 0)

/-- Leading zeros of the low n bits of a value (CLZ). -/
def leadZeros (x : Nat) : Nat → Nat
  | 0 => 0
  | n + 1 => if Nat.testBit x n then 0 else 1 + leadZeros x n

/-- A shift left of w bits (SHL). -/
def shlVal (t : LTy) (a n : LVal) : LVal := if t.width ≤ n.toNat then 0 else lowBits t.width (a <<< n.toNat)
/-- A logical shift right of w bits (SHR). -/
def shrVal (t : LTy) (a n : LVal) : LVal := if t.width ≤ n.toNat then 0 else lowBits t.width a >>> n.toNat
/-- A shift right of w bits that fills with bit w − 1 (SRA). -/
def sraVal (t : LTy) (a n : LVal) : LVal :=
  let w := t.width
  let v := a.toNat % 2 ^ w
  let i : Int := if 2 ^ (w - 1) ≤ v then (v : Int) - (2 ^ w : Nat) else v
  ofIntTy t (i / (2 ^ (min n.toNat w) : Nat))

/-- POS and LEN of a bit-field position (R133). -/
def fieldPos (b : LVal) : Nat := bitsOf b.toNat 7 0
def fieldLen (b : LVal) : Nat := min (bitsOf b.toNat 15 8) 32

/-- BFE (R133): the field of a, whose bits above 31 are copies of its sign under .i32, else 0. -/
def bfeVal (t : LTy) (a b : LVal) : LVal :=
  let len := fieldLen b
  let x : Int := intOf t a
  let f := x / (2 ^ fieldPos b : Nat) % (2 ^ len : Nat)
  if len = 0 then 0
  else if t.isSigned ∧ (2 ^ (len - 1) : Nat) ≤ f then ofIntTy t (f - (2 ^ len : Nat))
  else ofIntTy t f

/-- BFI (R133): the low bits of a inserted into c. -/
def bfiVal (a b c : LVal) : LVal :=
  let pos := fieldPos b
  let ones : W64 := lowBits 32 (((1#64 <<< fieldLen b) - 1) <<< pos)
  lowBits 32 ((a <<< pos) &&& ones ||| (c &&& ~~~ones))

/-- One byte of BSWZ by its 5-bit selector (R133). -/
def swzByte (y : Nat) (sel : Nat) : Nat :=
  let b := bitsOf y (8 * (sel % 8) + 7) (8 * (sel % 8))
  match sel / 8 with
  | 0 => b
  | 1 => 0
  | 2 => 0xFF
  | _ => revBits b 8

/-- BSWZ (R133). -/
def bswzVal (a b c : LVal) : LVal :=
  let y := (lowBits 32 b).toNat * 2 ^ 32 + (lowBits 32 a).toNat
  BitVec.ofNat 64 (ofLe ((List.range 4).map fun n => BitVec.ofNat 8 (swzByte y (bitsOf c.toNat (5 * n + 4) (5 * n)))))

/-- The condition of VAR on two values in order (R65). -/
def condHolds (v : BitVec 3) (lt eq : Bool) : Bool :=
  match v.toNat with
  | 0 => eq
  | 1 => !eq
  | 2 => lt
  | 3 => lt || eq
  | 4 => !lt && !eq
  | _ => !lt

/-! ### Effects -/

/-- IADD. -/
def iaddBody (x : LaneIn) : LRes :=
  let t := x.f.ty
  x.result t (x.map2 fun a b => intRes t (intOf t a + intOf t b))
/-- ISUB. -/
def isubBody (x : LaneIn) : LRes :=
  let t := x.f.ty
  x.result t (x.map2 fun a b => intRes t (intOf t a - intOf t b))
/-- IMUL. -/
def imulBody (x : LaneIn) : LRes :=
  let t := x.f.ty
  x.result t (x.map2 fun a b => intRes t (intOf t a * intOf t b))
/-- IMULH. -/
def imulhBody (x : LaneIn) : LRes :=
  let t := x.f.ty
  x.result t (x.map2 fun a b => intRes t (intOf t a * intOf t b / (2 ^ t.width : Nat)))
/-- IMAD. -/
def imadBody (x : LaneIn) : LRes :=
  let t := x.f.ty
  x.result t (x.map3 fun a b c => intRes t (intOf t a * intOf t b + intOf t c))
/-- IMIN. -/
def iminBody (x : LaneIn) : LRes :=
  let t := x.f.ty
  x.result t (x.map2 fun a b => intRes t (min (intOf t a) (intOf t b)))
/-- IMAX. -/
def imaxBody (x : LaneIn) : LRes :=
  let t := x.f.ty
  x.result t (x.map2 fun a b => intRes t (max (intOf t a) (intOf t b)))
/-- AND. -/
def laneAndBody (x : LaneIn) : LRes :=
  let t := x.f.ty
  x.result t (x.map2 fun a b => .of (a &&& b))
/-- OR. -/
def laneOrBody (x : LaneIn) : LRes :=
  let t := x.f.ty
  x.result t (x.map2 fun a b => .of (a ||| b))
/-- XOR. -/
def laneXorBody (x : LaneIn) : LRes :=
  let t := x.f.ty
  x.result t (x.map2 fun a b => .of (a ^^^ b))
/-- SHL. -/
def laneShlBody (x : LaneIn) : LRes :=
  let t := x.f.ty
  x.result t (x.map2 fun a b => .of (shlVal t a b))
/-- SHR. -/
def laneShrBody (x : LaneIn) : LRes :=
  let t := x.f.ty
  x.result t (x.map2 fun a b => .of (shrVal t a b))
/-- SRA. -/
def laneSraBody (x : LaneIn) : LRes :=
  let t := x.f.ty
  x.result t (x.map2 fun a b => .of (sraVal t a b))
/-- CLZ. -/
def laneClzBody (x : LaneIn) : LRes :=
  let t := x.f.ty
  x.result t (x.map1 fun a => .of (BitVec.ofNat 64 (leadZeros a.toNat t.width)))
/-- POPC. -/
def lanePopcBody (x : LaneIn) : LRes :=
  let t := x.f.ty
  x.result t (x.map1 fun a => .of (BitVec.ofNat 64 (popCount a.toNat t.width)))
/-- BREV. -/
def brevBody (x : LaneIn) : LRes :=
  let t := x.f.ty
  x.result t (x.map1 fun a => .of (BitVec.ofNat 64 (revBits a.toNat t.width)))
/-- BFE. -/
def bfeBody (x : LaneIn) : LRes :=
  let t := x.f.ty
  x.result t (x.map2 fun a b => .of (bfeVal t a b))
/-- BFI. -/
def bfiBody (x : LaneIn) : LRes :=
  let t := x.f.ty
  x.result t (x.map3 fun a b c => .of (bfiVal a b c))
/-- BSWZ. -/
def bswzBody (x : LaneIn) : LRes :=
  let t := x.f.ty
  x.result t (x.map3 fun a b c => .of (bswzVal a b c))
/-- ICMP (R134). -/
def icmpBody (x : LaneIn) : LRes :=
  let t := x.f.ty
  let m := maskWhere fun i =>
    let a := intOf t x.a[i]
    let b := intOf t x.b[i]
    condHolds x.f.var (decide (a < b)) (decide (a = b))
  x.compare m (splat ⟨0, 0⟩)
/-- SEL (R135): the mask that VAR names selects. -/
def laneSelBody (x : LaneIn) : LRes :=
  let k := x.G.vec.kregs.toList.getD x.f.var.toNat 0
  x.result x.f.ty (Vector.ofFn fun i => .of (if k.getLsbD i then x.a[i] else x.b[i]))
/-- MOV and MOVI (R135). -/
def movBody (x : LaneIn) : LRes := x.result x.f.ty (x.map1 .of)

/-! ### Meanings -/

def execIadd (f : LForm) (s : State) : Host.Outcome State Fault Refusal := runLane s 0x001 f false iaddBody
def execIaddImm (f : LForm) (s : State) : Host.Outcome State Fault Refusal := runLane s 0x001 f false iaddBody
def execIsub (f : LForm) (s : State) : Host.Outcome State Fault Refusal := runLane s 0x002 f false isubBody
def execIsubImm (f : LForm) (s : State) : Host.Outcome State Fault Refusal := runLane s 0x002 f false isubBody
def execImul (f : LForm) (s : State) : Host.Outcome State Fault Refusal := runLane s 0x003 f false imulBody
def execImulImm (f : LForm) (s : State) : Host.Outcome State Fault Refusal := runLane s 0x003 f false imulBody
def execImulh (f : LForm) (s : State) : Host.Outcome State Fault Refusal := runLane s 0x004 f false imulhBody
def execImulhImm (f : LForm) (s : State) : Host.Outcome State Fault Refusal := runLane s 0x004 f false imulhBody
def execImad (f : LForm) (s : State) : Host.Outcome State Fault Refusal := runLane s 0x005 f false imadBody
def execImadImm (f : LForm) (s : State) : Host.Outcome State Fault Refusal := runLane s 0x005 f false imadBody
def execImin (f : LForm) (s : State) : Host.Outcome State Fault Refusal := runLane s 0x006 f false iminBody
def execIminImm (f : LForm) (s : State) : Host.Outcome State Fault Refusal := runLane s 0x006 f false iminBody
def execImax (f : LForm) (s : State) : Host.Outcome State Fault Refusal := runLane s 0x007 f false imaxBody
def execImaxImm (f : LForm) (s : State) : Host.Outcome State Fault Refusal := runLane s 0x007 f false imaxBody
def execLaneAnd (f : LForm) (s : State) : Host.Outcome State Fault Refusal := runLane s 0x008 f false laneAndBody
def execLaneAndImm (f : LForm) (s : State) : Host.Outcome State Fault Refusal := runLane s 0x008 f false laneAndBody
def execLaneOr (f : LForm) (s : State) : Host.Outcome State Fault Refusal := runLane s 0x009 f false laneOrBody
def execLaneOrImm (f : LForm) (s : State) : Host.Outcome State Fault Refusal := runLane s 0x009 f false laneOrBody
def execLaneXor (f : LForm) (s : State) : Host.Outcome State Fault Refusal := runLane s 0x00a f false laneXorBody
def execLaneXorImm (f : LForm) (s : State) : Host.Outcome State Fault Refusal := runLane s 0x00a f false laneXorBody
def execLaneShl (f : LForm) (s : State) : Host.Outcome State Fault Refusal := runLane s 0x00b f false laneShlBody
def execLaneShlImm (f : LForm) (s : State) : Host.Outcome State Fault Refusal := runLane s 0x00b f false laneShlBody
def execLaneShr (f : LForm) (s : State) : Host.Outcome State Fault Refusal := runLane s 0x00c f false laneShrBody
def execLaneShrImm (f : LForm) (s : State) : Host.Outcome State Fault Refusal := runLane s 0x00c f false laneShrBody
def execLaneSra (f : LForm) (s : State) : Host.Outcome State Fault Refusal := runLane s 0x00d f false laneSraBody
def execLaneSraImm (f : LForm) (s : State) : Host.Outcome State Fault Refusal := runLane s 0x00d f false laneSraBody
def execLaneClz (f : LForm) (s : State) : Host.Outcome State Fault Refusal := runLane s 0x00e f false laneClzBody
def execLanePopc (f : LForm) (s : State) : Host.Outcome State Fault Refusal := runLane s 0x00f f false lanePopcBody
def execBrev (f : LForm) (s : State) : Host.Outcome State Fault Refusal := runLane s 0x010 f false brevBody
def execBfe (f : LForm) (s : State) : Host.Outcome State Fault Refusal := runLane s 0x011 f false bfeBody
def execBfeImm (f : LForm) (s : State) : Host.Outcome State Fault Refusal := runLane s 0x011 f false bfeBody
def execBfi (f : LForm) (s : State) : Host.Outcome State Fault Refusal := runLane s 0x012 f false bfiBody
def execBfiImm (f : LForm) (s : State) : Host.Outcome State Fault Refusal := runLane s 0x012 f false bfiBody
def execBswz (f : LForm) (s : State) : Host.Outcome State Fault Refusal := runLane s 0x013 f false bswzBody
def execBswzImm (f : LForm) (s : State) : Host.Outcome State Fault Refusal := runLane s 0x013 f false bswzBody
def execIcmp (f : LForm) (s : State) : Host.Outcome State Fault Refusal := runLane s 0x014 f false icmpBody
def execIcmpImm (f : LForm) (s : State) : Host.Outcome State Fault Refusal := runLane s 0x014 f false icmpBody
def execLaneSel (f : LForm) (s : State) : Host.Outcome State Fault Refusal := runLane s 0x015 f false laneSelBody
def execLaneSelImm (f : LForm) (s : State) : Host.Outcome State Fault Refusal := runLane s 0x015 f false laneSelBody
def execMov (f : LForm) (s : State) : Host.Outcome State Fault Refusal := runLane s 0x016 f false movBody
def execMovi (f : LForm) (s : State) : Host.Outcome State Fault Refusal := runLane s 0x016 f false movBody

end Sys2Proof.Machine
end

