-- ==== Sys2Proof/Machine/LaneFloat.lean ====
section
/-! DEFINITION. Lane floating-point instructions (spec/06_registers_and_lane_arithmetic.md R136 to R140). -/

namespace Sys2Proof.Machine

/-- An operation of one source, rounded once (R136). -/
def LaneIn.round1 (x : LaneIn) (op : Rnd → FVal → Exact) : LRes :=
  let t := x.f.ty
  let md := rndOf x.f.var
  x.result t (x.map1 fun a => roundTo t md (op md (fvalOf t a)))

/-- An operation of two sources, rounded once. -/
def LaneIn.round2 (x : LaneIn) (op : Rnd → FVal → FVal → Exact) : LRes :=
  let t := x.f.ty
  let md := rndOf x.f.var
  x.result t (x.map2 fun a b => roundTo t md (op md (fvalOf t a) (fvalOf t b)))

/-- An operation of three sources, rounded once. -/
def LaneIn.round3 (x : LaneIn) (op : Rnd → FVal → FVal → FVal → Exact) : LRes :=
  let t := x.f.ty
  let md := rndOf x.f.var
  x.result t (x.map3 fun a b c => roundTo t md (op md (fvalOf t a) (fvalOf t b) (fvalOf t c)))

/-- Order of two values for FMIN and FMAX: −0 below +0 (R138). -/
def minOrder (a b : FVal) : Bool := fvalLt a b || (fvalEq a b && a.neg? && !b.neg?)

/-- FMIN and FMAX (R138): one of the operands, exactly. -/
def minMax (t : LTy) (wantMax : Bool) (a b : LVal) : LaneRes :=
  let x := fvalOf t a
  let y := fvalOf t b
  let fl := if x.isSNaN || y.isSNaN then flagNV else 0
  let v := if x.isNaN && y.isNaN then BitVec.ofNat 64 (fmtOf t).nanBits
    else if x.isNaN then b
    else if y.isNaN then a
    else if wantMax then (if minOrder x y then b else a)
    else (if minOrder y x then b else a)
  ⟨v, fl⟩

/-- FCMP (R139): the condition of VAR, and invalid. -/
def fcmpOne (t : LTy) (v : BitVec 3) (a b : LVal) : Bool × FFlags :=
  let x := fvalOf t a
  let y := fvalOf t b
  let un := x.isNaN || y.isNaN
  let r := match v.toNat with
    | 0 => fvalEq x y
    | 1 => un || !fvalEq x y
    | 2 => !un && fvalLt x y
    | 3 => !un && (fvalLt x y || fvalEq x y)
    | 4 => !un && fvalLt y x
    | 5 => !un && (fvalLt y x || fvalEq x y)
    | _ => un
  let quiet := v.toNat == 0 || v.toNat == 1 || v.toNat == 6
  (r, if x.isSNaN || y.isSNaN || (un && !quiet) then flagNV else 0)

/-- FCLASS (R140): the bit of a value's class. -/
def classBit (t : LTy) (a : LVal) : Nat :=
  let f := fmtOf t
  let e := a.toNat / 2 ^ f.fb % 2 ^ f.eb
  match fvalOf t a with
  | .nan s => if s then 8 else 9
  | .inf n => if n then 0 else 7
  | .fin n m _ =>
    if m = 0 then (if n then 3 else 4)
    else if e = 0 then (if n then 2 else 5)
    else (if n then 1 else 6)

/-! ### Effects -/

def faddBody (x : LaneIn) : LRes := x.round2 exactAdd
def fsubBody (x : LaneIn) : LRes := x.round2 fun md a b => exactAdd md a b.negate
def fmulBody (x : LaneIn) : LRes := x.round2 fun _ => exactMul
def ffmaBody (x : LaneIn) : LRes := x.round3 exactFma
def fminBody (x : LaneIn) : LRes := x.result x.f.ty (x.map2 (minMax x.f.ty false))
def fmaxBody (x : LaneIn) : LRes := x.result x.f.ty (x.map2 (minMax x.f.ty true))
def fcmpBody (x : LaneIn) : LRes :=
  let r (i : Fin 32) := fcmpOne x.f.ty x.f.var x.a[i] x.b[i]
  x.compare (maskWhere fun i => (r i).1) (Vector.ofFn fun i => ⟨0, (r i).2⟩)
def frcpBody (x : LaneIn) : LRes := x.round1 fun _ => exactRcp
def frsqBody (x : LaneIn) : LRes := x.round1 fun _ => exactRsq
def fsqrtBody (x : LaneIn) : LRes := x.round1 fun _ => exactSqrt
def fexp2Body (x : LaneIn) : LRes := x.round1 fun _ => exactExp2
def flog2Body (x : LaneIn) : LRes := x.round1 fun _ => exactLog2
def fsinBody (x : LaneIn) : LRes := x.round1 fun _ => exactSin
def fcosBody (x : LaneIn) : LRes := x.round1 fun _ => exactCos
def frndBody (x : LaneIn) : LRes := x.round1 exactRnd
/-- The result is 32 bits under every type. -/
def fclassBody (x : LaneIn) : LRes :=
  x.result .x32 (x.map1 fun a => .of (1#64 <<< classBit x.f.ty a))

/-! ### Meanings -/

def execFadd (f : LForm) (s : State) : Host.Outcome State Fault Refusal := runLane s 0x040 f false faddBody
def execFaddImm (f : LForm) (s : State) : Host.Outcome State Fault Refusal := runLane s 0x040 f false faddBody
def execFsub (f : LForm) (s : State) : Host.Outcome State Fault Refusal := runLane s 0x041 f false fsubBody
def execFsubImm (f : LForm) (s : State) : Host.Outcome State Fault Refusal := runLane s 0x041 f false fsubBody
def execFmul (f : LForm) (s : State) : Host.Outcome State Fault Refusal := runLane s 0x042 f false fmulBody
def execFmulImm (f : LForm) (s : State) : Host.Outcome State Fault Refusal := runLane s 0x042 f false fmulBody
def execFfma (f : LForm) (s : State) : Host.Outcome State Fault Refusal := runLane s 0x043 f false ffmaBody
def execFfmaImm (f : LForm) (s : State) : Host.Outcome State Fault Refusal := runLane s 0x043 f false ffmaBody
def execFmin (f : LForm) (s : State) : Host.Outcome State Fault Refusal := runLane s 0x044 f false fminBody
def execFminImm (f : LForm) (s : State) : Host.Outcome State Fault Refusal := runLane s 0x044 f false fminBody
def execFmax (f : LForm) (s : State) : Host.Outcome State Fault Refusal := runLane s 0x045 f false fmaxBody
def execFmaxImm (f : LForm) (s : State) : Host.Outcome State Fault Refusal := runLane s 0x045 f false fmaxBody
def execFcmp (f : LForm) (s : State) : Host.Outcome State Fault Refusal := runLane s 0x046 f false fcmpBody
def execFcmpImm (f : LForm) (s : State) : Host.Outcome State Fault Refusal := runLane s 0x046 f false fcmpBody
def execFrcp (f : LForm) (s : State) : Host.Outcome State Fault Refusal := runLane s 0x047 f false frcpBody
def execFrsq (f : LForm) (s : State) : Host.Outcome State Fault Refusal := runLane s 0x048 f false frsqBody
def execFsqrt (f : LForm) (s : State) : Host.Outcome State Fault Refusal := runLane s 0x049 f false fsqrtBody
def execFexp2 (f : LForm) (s : State) : Host.Outcome State Fault Refusal := runLane s 0x04a f false fexp2Body
def execFlog2 (f : LForm) (s : State) : Host.Outcome State Fault Refusal := runLane s 0x04b f false flog2Body
def execFsin (f : LForm) (s : State) : Host.Outcome State Fault Refusal := runLane s 0x04c f false fsinBody
def execFcos (f : LForm) (s : State) : Host.Outcome State Fault Refusal := runLane s 0x04d f false fcosBody
def execFrnd (f : LForm) (s : State) : Host.Outcome State Fault Refusal := runLane s 0x04e f false frndBody
def execFclass (f : LForm) (s : State) : Host.Outcome State Fault Refusal := runLane s 0x04f f false fclassBody

end Sys2Proof.Machine
end

