-- ==== Sys2Proof/Machine/Convert.lean ====
section
/-! DEFINITION. Conversions between types (spec/04_number_formats.md R90 to R93). -/

namespace Sys2Proof.Machine

/-- The least and greatest value of an integer type. -/
def intMin (t : LTy) : Int := if t.isSigned then -(2 ^ (t.width - 1) : Nat) else 0
def intMax (t : LTy) : Int := if t.isSigned then (2 ^ (t.width - 1) : Nat) - 1 else (2 ^ t.width : Nat) - 1

/-- An exact value converted to a type (R90). fromInt: the source is an integer type. -/
def convertTo (t : LTy) (md : Rnd) (fromInt : Bool) (v : FVal) : LaneRes :=
  if t.isInt then
    let r := toIntSat md (intMin t) (intMax t) fromInt v
    ⟨ofIntTy t r.1, r.2⟩
  else if t.isTaper then
    let r := toTaper t.width md v
    ⟨BitVec.ofNat 64 r.1, r.2⟩
  else
    let r := toIeee (fmtOf t) md v
    ⟨BitVec.ofNat 64 r.1, r.2⟩

/-- A value times 2 to the −t. -/
def scaleDown (v : FVal) (t : Int) : FVal :=
  match v with
  | .fin n m e => .fin n m (e - t)
  | v => v

/-- CVTQ of one lane (R91). -/
def cvtqVal (d : LTy) (md : Rnd) (src : LTy) (a b : LVal) : LaneRes :=
  let t := intOf .i32 b
  if t < -64 ∨ 63 < t then ⟨1#64 <<< (d.width - 1), flagNV⟩
  else convertTo d md false (scaleDown (fvalOf src a) t)

/-- PACK of one lane (R92). -/
def packVal (d : LTy) (md : Rnd) (a b : LVal) : LaneRes :=
  let c : LaneRes :=
    if d.isInt then .of (ofIntTy d (max (intMin d) (min (intMax d) (intOf .i32 a))))
    else convertTo d md false (fvalOf .f32 a)
  let r := lowBits 32 ((b <<< d.width) + c.val)
  ⟨if d = .t6 then lowBits 30 r else r, c.fl⟩

/-- UNPACK of one lane (R93). -/
def unpackVal (d : LTy) (p : Nat) (a : LVal) : LaneRes :=
  let w := d.width
  let f := lowBits w (lowBits 32 a >>> (w * p))
  if d.isInt then .of (ofIntTy .i32 (intOf d f)) else convertTo .f32 .rne false (fvalOf d f)

def cvtBody (x : LaneIn) : LRes :=
  let src := readTy .cvt x.f
  x.result x.f.ty (x.map1 fun a => convertTo x.f.ty (rndOf x.f.var) src.isInt (fvalOf src a))
def cvtqBody (x : LaneIn) : LRes :=
  x.result x.f.ty (x.map2 (cvtqVal x.f.ty (rndOf x.f.var) (readTy .cvt x.f)))
def packBody (x : LaneIn) : LRes := x.result .x32 (x.map2 (packVal x.f.ty (rndOf x.f.var)))
def unpackBody (x : LaneIn) : LRes := x.result .x32 (x.map1 (unpackVal x.f.ty x.f.var.toNat))

def execCvt (f : LForm) (s : State) : Host.Outcome State Fault Refusal := runLane s 0x060 f false cvtBody
def execCvtq (f : LForm) (s : State) : Host.Outcome State Fault Refusal := runLane s 0x061 f false cvtqBody
def execPack (f : LForm) (s : State) : Host.Outcome State Fault Refusal := runLane s 0x062 f false packBody
def execUnpack (f : LForm) (s : State) : Host.Outcome State Fault Refusal := runLane s 0x063 f false unpackBody

end Sys2Proof.Machine
end

