-- ==== Sys2Proof/Machine/LaneMask.lean ====
section
/-! DEFINITION. Mask instructions (spec/06_registers_and_lane_arithmetic.md R144, R145). -/

namespace Sys2Proof.Machine

/-- The mask operands a and b. -/
def LaneIn.ka (x : LaneIn) : Mask := readMask x.env x.f.a.src
def LaneIn.kb (x : LaneIn) : Mask := readMask x.env x.f.b.src

/-- Writes a mask register in the active lanes. -/
def LaneIn.maskResult (x : LaneIn) (m : Mask) : LRes :=
  match x.f.dest with
  | .k k => x.done (putMaskBits x.G k x.act m)
  | _ => x.done x.G

/-- MOVEM writes all 32 bits, or EM. -/
def movemBody (x : LaneIn) : LRes :=
  match x.f.dest with
  | .k k => x.done (putMaskBits x.G k 0xFFFFFFFF#32 x.ka)
  | .em => x.done { x.G with lane := { x.G.lane with em := x.ka } }
  | _ => x.done x.G

/-- The same number in every lane. -/
def LaneIn.count (x : LaneIn) (n : Nat) : LRes := x.result .x32 (splat (.of (BitVec.ofNat 64 n)))

def kandBody (x : LaneIn) : LRes := x.maskResult (x.ka &&& x.kb)
def korBody (x : LaneIn) : LRes := x.maskResult (x.ka ||| x.kb)
def kxorBody (x : LaneIn) : LRes := x.maskResult (x.ka ^^^ x.kb)
def knotBody (x : LaneIn) : LRes := x.maskResult (~~~x.ka)
def popkBody (x : LaneIn) : LRes := x.count (popCount x.ka.toNat 32)
def ffskBody (x : LaneIn) : LRes := x.count (lowestFrom x.ka.toNat 0 32)

def execKand (f : LForm) (s : State) : Host.Outcome State Fault Refusal := runLane s 0x070 f false kandBody
def execKor (f : LForm) (s : State) : Host.Outcome State Fault Refusal := runLane s 0x071 f false korBody
def execKxor (f : LForm) (s : State) : Host.Outcome State Fault Refusal := runLane s 0x072 f false kxorBody
def execKnot (f : LForm) (s : State) : Host.Outcome State Fault Refusal := runLane s 0x073 f false knotBody
def execMovem (f : LForm) (s : State) : Host.Outcome State Fault Refusal := runLane s 0x074 f false movemBody
def execPopk (f : LForm) (s : State) : Host.Outcome State Fault Refusal := runLane s 0x075 f false popkBody
def execFfsk (f : LForm) (s : State) : Host.Outcome State Fault Refusal := runLane s 0x076 f false ffskBody

end Sys2Proof.Machine
end

