-- ==== Sys2Proof/Machine/Meet.lean ====
section
/-! DEFINITION. Divergence and compaction: lane offsets, the reconvergence stack, BRL, and the meetings of BRC from admission to
close (spec/07_control_flow_and_barriers.md R149 to R151, R159 to R163). -/

namespace Sys2Proof.Machine

/-! ### Offsets and the stack -/

/-- The lane offset of an address of a group (R148). -/
def laneOff (G : Group) (pc : W64) : BitVec 19 := BitVec.ofNat 19 ((pc - G.bind.lbase).toNat / 12)
/-- The address of a lane offset. -/
def laneAddr (G : Group) (o : BitVec 19) : W64 := G.bind.lbase + 12 * zext64 o

/-- TARGET of a branch. -/
def targetOf (f : LForm) : BitVec 19 :=
  match f.c.src with
  | .imm x => x.setWidth 19
  | _ => 0

/-- A group with an entry pushed, or none when the stack is full (R149). -/
def Group.push (G : Group) (e : StackEntry) : Option Group :=
  if 32 ≤ G.lane.stack.length then none
  else some { G with lane := { G.lane with stack := e :: G.lane.stack } }

/-- A group with EM and its stack set. -/
def Group.setFlow (G : Group) (em : Mask) (stack : List StackEntry) : Group :=
  { G with lane := { G.lane with em := em, stack := stack } }

/-- BRL (R151): the group and the next offset, or none for STACK. -/
def brl (G : Group) (p : Pred) (act : Mask) (pc target : BitVec 19) : Option (Group × BitVec 19) :=
  let em := G.lane.em
  let n := em &&& ~~~act
  let push : Option (Group × BitVec 19) :=
    let e : StackEntry := ⟨.branch, pc + 1, 0, false, if act ≠ 0 then n else 0, em⟩
    match G.push e with
    | none => none
    | some G => if act ≠ 0 then some (G.setFlow act G.lane.stack, target) else some (G, pc + 1)
  match p with
  | .always => some (G, target)
  | _ => match G.lane.stack with
    | e :: t =>
      if e.kind = .branch ∧ e.ppc = pc + 1 then
        if act ≠ 0 then some (G.setFlow act ({ e with pend := e.pend ||| n } :: t), target)
        else some (G.setFlow (e.pend ||| n) ({ e with pend := 0 } :: t), pc + 1)
      else push
    | [] => push

/-! ### Retiring an instruction that has waited -/

/-- A lane control instruction that another event lets retire: as laneRetire, for an instruction without sources. -/
def ctlRetire (s : State) (g : Nat) (pc next : W64) : State :=
  let s := clearParty s (.lane g) pc
  match s.group? g with
  | none => s
  | some G =>
    let prog := !G.trap.hmode
    let G := { G with
      lane := { G.lane.letGo with lpc := next, chain := none, stall := .none }
      trap := { G.trap with
        firstL := if prog then false else G.trap.firstL
        supplied := if prog then splat none else G.trap.supplied } }
    let s := { s with tick := s.tick + 1 }
    if G.dbg.stepm = 2#2 ∧ prog = true ∧ G.running = true then laneStep s g G pc else s.setGroup g G

/-! ### Meetings -/

/-- The state with a meeting changed. -/
def State.modMeet (s : State) (m : Nat) (f : Meet → Meet) : State := { s with meets := s.meets.modify m f }

/-- The admitting meeting that a group at a BRC may join (R159). -/
def openMeet (s : State) (G : Group) (pc : W64) : Option Nat :=
  s.meets.findIdx? fun m => m.quad == G.loc.quadId && m.admitting && !m.closed && m.team == G.bind.team && m.pc == pc

/-- The meeting slots of a quadrant in use; the meeting of a halted team is team state (R163). -/
def slotsUsed (s : State) (q : Nat) : List Bool :=
  (s.meets.filter fun m => m.quad == q && !m.closed && !(m.members.any fun x => match s.group? x.group with
    | some G => G.halt.isSome
    | none => false)).map (·.mslot)

/-- Two groups run with equal snapshots: base and all four values. -/
def sameSnap (G H : Group) : Bool :=
  match G.lane.run, H.lane.run with
  | some r, some q => r.base == q.base && r.snap == q.snap
  | _, _ => false

/-- A compaction entry stands on the stack. -/
def Group.hasCompaction (G : Group) : Bool := G.lane.stack.any fun e => e.kind == .compaction

/-- The lanes of members that hold a thread at a position: T, then N. -/
def holders (ms : List MMember) (i : Nat) (taken : Bool) : List Nat :=
  (ms.zipIdx.filter fun p =>
    (if taken then p.1.act else p.1.em &&& ~~~p.1.act).getLsbD i).map (·.2)

/-- The most members that hold a thread of a kind at one position. -/
def mostAt (ms : List MMember) (taken : Bool) : Nat :=
  (List.range 32).foldl (fun n i => max n (holders ms i taken).length) 0

/-- Where the lanes of a position go (R160): T threads to members 0 on, N threads to members a on, and the lanes without a thread to
the places that are left, so that the close can put every lane back. -/
def lanePairs (ms : List MMember) (a i : Nat) : List (Nat × Nat) :=
  let t := (holders ms i true).zipIdx
  let n := (holders ms i false).zipIdx.map fun p => (p.1, a + p.2)
  let moved := t ++ n
  let all := List.range ms.length
  let rest := all.filter fun k => !moved.any fun p => p.1 == k
  let free := all.filter fun k => !moved.any fun p => p.2 == k
  moved ++ rest.zip free

/-- The moves of every lane of a meeting, by group. -/
def meetMoves (ms : List MMember) (a : Nat) : List MThread :=
  let gid (k : Nat) : Nat := (ms[k]?.map (·.group)).getD 0
  (List.range 32).flatMap fun i => (lanePairs ms a i).map fun p => ⟨gid p.1, gid p.2, i⟩

/-- The group whose lane i comes to group h. -/
def sourceOf (ts : List MThread) (h i : Nat) : Nat :=
  match ts.find? fun t => t.host == h && t.lane == i with
  | some t => t.home
  | none => h

/-- The vector registers of a group as its threads carry them: the value of a spilled one is read from its slot (R119), with the lanes
that could not be read. -/
abbrev Carried := Nat × Vector (VReg × Mask) 128

/-- The registers of a group from a list of numbers, the spilled ones read. -/
def carryRegs (s : State) (G : Group) : List Nat → List (VReg × Mask) × State
  | [] => ([], s)
  | i :: t =>
    let r : VNum := BitVec.ofNat 7 i
    let v := G.vreg r
    let ((v, lost), s) : (VReg × Mask) × State :=
      if v.st = .spilled then
        match slotWords s G r with
        | (ws, s) => (({ v.fetched ws with st := .spilled }, maskOf (lostLanes ws)), s)
      else ((v, 0), s)
    let (rs, s) := carryRegs s G t
    ((v, lost) :: rs, s)

/-- What the listed groups carry. -/
def carryAll (s : State) : List Nat → List Carried × State
  | [] => ([], s)
  | g :: t =>
    match s.group? g with
    | none => carryAll s t
    | some G =>
      let (rs, s) := carryRegs s G (List.range 128)
      let (cs, s) := carryAll s t
      ((g, Vector.ofFn fun r => rs.getD r.val (VReg.none, 0)) :: cs, s)

/-- A register as a group of a list carries it. -/
def carriedReg (cs : List Carried) (g : Nat) (r : Fin 128) : VReg × Mask := match cs.find? fun c => c.1 == g with
  | some c => c.2[r]
  | none => (VReg.none, 0)

/-- A register gathered lane by lane from the groups that a map names (R160: mapped or spilled), with the lanes whose word could not be
read. It stays in a row where its host has one; else its slot takes it. -/
def gatherReg (cs : List Carried) (src : Fin 32 → Nat) (own : VReg) (r : Fin 128) : VReg × Mask :=
  let from_ (i : Fin 32) : VReg × Mask := carriedReg cs (src i) r
  let gone := maskWhere fun i => (from_ i).1.st == .unmapped
  let lost := maskWhere fun i => (from_ i).2.getLsbD i.val
  ({ st := if gone = 0xFFFFFFFF#32 then own.st else if lost ≠ 0 ∨ own.st = .unmapped then .spilled else own.st
     val := Vector.ofFn fun i => (from_ i).1.val[i]
     undef := gone ||| maskWhere fun i => (from_ i).1.undef.getLsbD i.val
     loose := (List.finRange 32).any fun i => (from_ i).1.loose
     stamp := own.stamp }, lost)

/-- Mask bits gathered lane by lane. -/
def gatherBits (s : State) (src : Fin 32 → Nat) (f : Group → Mask) : Mask :=
  maskWhere fun i => match s.group? (src i) with
    | some H => (f H).getLsbD i.val
    | none => false

/-- A group with its lanes taken from other groups: registers, mask bits and the item-holding mask. -/
def gatherGroup (s : State) (cs : List Carried) (src : Fin 32 → Nat) (G : Group) : Group :=
  { G with
    vec :=
      { vregs := Vector.ofFn fun r => (gatherReg cs src (G.vreg (BitVec.ofNat 7 r.val)) r).1
        kregs := Vector.ofFn fun k => gatherBits s src fun H => H.vec.kregs[k] }
    lane := { G.lane with ih := gatherBits s src fun H => H.lane.ih } }

/-- A register's spill slot written, but for lanes whose word could not be read, which are poisoned there (R118, R234). -/
def putSlot (s : State) (g : Nat) (r : VNum) (lost : Mask) : State :=
  match s.group? g with
  | none => s
  | some G =>
    let s := spillRow s g r
    if lost = 0 then s
    else match s.ctxOf G with
      | none => s
      | some c => (lanesOf lost).foldl (fun s i => areaPoison s c (slotAddr G r i)) s

/-- The slots of a group that its moved registers lie in, written. -/
def putSlots (s : State) (cs : List Carried) (src : Fin 32 → Nat) (g : Nat) : State :=
  (List.finRange 128).foldl (fun s r => match s.group? g with
    | some G => if (G.vreg (BitVec.ofNat 7 r.val)).st = .spilled then
        putSlot s g (BitVec.ofNat 7 r.val) (gatherReg cs src VReg.none r).2 else s
    | none => s) s

/-- Every listed group with its lanes moved. -/
def moveLanes (s : State) (ts : List MThread) (gs : List Nat) : State :=
  let (cs, s) := carryAll s gs
  let src (g : Nat) (i : Fin 32) : Nat := sourceOf ts g i.val
  let s := gs.foldl (fun s' g => s'.modGroup g (gatherGroup s cs (src g))) s
  gs.foldl (fun s g => putSlots s cs (src g) g) s

/-- The moves undone. -/
def undoMoves (ts : List MThread) : List MThread := ts.map fun t => ⟨t.host, t.home, t.lane⟩

/-- A member takes up the BRC as a BRL (R160). -/
def memberBrl (s : State) (m : Meet) (b : MMember) : State :=
  match s.group? b.group with
  | none => s
  | some G =>
    match brl G (.on 0 false) b.act (laneOff G m.pc) (laneOff G m.target) with
    | none => laneTrap s b.group { G with lane := { G.lane with stall := .none } } (.plain cSTACK)
    | some (G', o) => ctlRetire (syncStack (s.setGroup b.group G') b.group G.lane.stack) b.group m.pc (laneAddr G' o)

/-- A member goes on after a compaction, by its place k: a group at TARGET, b groups at PC + 1, the rest wait. -/
def memberGo (s : State) (no : Nat) (m : Meet) (a b k : Nat) (ms : List MMember) (mem : MMember) : State :=
  match s.group? mem.group with
  | none => s
  | some G =>
    let em := maskWhere fun i =>
      if k < a then decide (k < (holders ms i.val true).length)
      else decide (k < a + b ∧ k - a < (holders ms i.val false).length)
    let e : StackEntry := ⟨.compaction, laneOff G m.pc + 1, laneOff G m.pc, m.mslot, 0, mem.em⟩
    let H := { G with lane := { G.lane with em := em, stack := e :: G.lane.stack, latches := noLatches } }
    let next := if k < a then m.target else m.pc + 12
    let s := ctlRetire (syncStack (s.setGroup mem.group H) mem.group G.lane.stack) mem.group m.pc next
    if k < a + b then s
    else s.modGroup mem.group fun G =>
      if G.trap.hmode then { G with trap := { G.trap with aside := G.trap.aside.map fun x => { x with stall := .parked no } } }
      else { G with lane := { G.lane with stall := .parked no } }

/-- The members that still wait at the BRC, in ascending slot order. -/
def waitingMembers (s : State) (no : Nat) (m : Meet) : List MMember :=
  let slot (x : MMember) : Nat := match s.group? x.group with
    | some G => G.loc.slot.toNat
    | none => 0
  sortBy (fun b c => decide (slot b ≤ slot c)) (m.members.filter fun b => match s.group? b.group with
    | some G => G.lane.stall == .admission no && !G.trap.hmode && G.running
    | none => false)

/-- A group that has joined a meeting and is stopped when its admission closes takes up its BRC anew once it runs again (R159). -/
def Group.missed (no : Nat) (G : Group) : Group :=
  if G.lane.stall = .admission no then { G with lane := { G.lane with stall := .none } } else G

/-- Admission closes (R160). -/
def closeAdmission (s : State) (no : Nat) (m : Meet) : State :=
  let ms := waitingMembers s no m
  let s := (m.members.filter fun x => !ms.contains x).foldl (fun s x => s.modGroup x.group (Group.missed no)) s
  let a := mostAt ms true
  let b := mostAt ms false
  if ms.length ≤ 1 ∨ ms.length ≤ a + b then
    let s := ms.foldl (fun s x => memberBrl s m x) s
    s.modMeet no fun m => { m with admitting := false, closed := true, members := [] }
  else
    let ts := meetMoves ms a
    let s := moveLanes s ts (ms.map (·.group))
    let s := s.modMeet no fun m => { m with
      admitting := false, threads := ts
      members := ms.zipIdx.map fun p => { p.1 with parked := decide (a + b ≤ p.2) } }
    ms.zipIdx.foldl (fun s p => memberGo s no m a b p.2 ms p.1) s

/-- A member's set-aside stream is the one at the meeting: its handler runs, and has not come to the JOIN itself. -/
def Group.away (no : Nat) (G : Group) : Bool := G.trap.hmode && G.lane.stall != .parked no

/-- A group leaves a closed meeting: EM is restored, the entry popped, and its lane stream goes on; set-aside state is changed
instead where that is the one at the meeting. -/
def Group.leaveMeet (G : Group) (away : Bool) (next : W64) : Group :=
  let above := match G.trap.aside with
    | some a => if away then G.lane.stack.length - a.depth else 0
    | none => 0
  let em := match G.lane.stack[above]? with
    | some e => e.orig
    | none => 0
  let stack := G.lane.stack.eraseIdx above
  if away then
    { G with
      lane := { G.lane with stack := stack }
      trap := { G.trap with aside := G.trap.aside.map fun a =>
        { a with em := em, lpc := next, headPc := next, depth := a.depth - 1, stall := .none } } }
  else { G with lane := { G.lane with em := em, stack := stack } }

/-- The meeting closes at an address (R162): lanes return, and every member but g, which retires by itself, goes on. -/
def closeMeet (s : State) (no g : Nat) (m : Meet) (pc : W64) : State :=
  let gs := m.members.map (·.group)
  let s := moveLanes s (undoMoves m.threads) gs
  let s := gs.foldl (fun s h =>
    let s := readDeep s h
    match s.group? h with
    | none => s
    | some H =>
      let away := h != g && H.away no
      let s := s.setGroup h (H.leaveMeet away (pc + 12))
      let s := if h = g then s else writeDeep s h
      if h = g ∨ away = true then s
      else if H.lane.em = 0 then s.modGroup h fun H => { H with lane := { H.lane with lpc := pc + 12, stall := .none } }
      else ctlRetire s h pc (pc + 12)) s
  s.modMeet no fun m => { m with closed := true, threads := [], members := [] }

end Sys2Proof.Machine
end

