-- ==== Sys2Proof/Machine/LaneControl.lean ====
section
/-! DEFINITION. Lane control: BRL, BRC, JOIN, STOP, ITEM, VOTE and ELECT (spec/07_control_flow_and_barriers.md R151 to R163;
spec/02_streams_and_encoding.md R28, R30; spec/05_slots_and_launches.md R114, R115). -/

namespace Sys2Proof.Machine

/-- The lane offset of the instruction. -/
def LaneIn.off (x : LaneIn) : BitVec 19 := laneOff x.G x.pc

/-- Ends at a lane offset. -/
def LaneIn.jump (x : LaneIn) (G : Group) (o : BitVec 19) : LRes := .done (x.s.setGroup x.g G) (laneAddr G o)

/-- BRL (R151). -/
def brlBody (x : LaneIn) : LRes :=
  match brl x.G x.f.pred x.act x.off (targetOf x.f) with
  | some (G, o) => x.jump G o
  | none => .trap x.s (.plain cSTACK)

/-- The group waits at its BRC for a meeting's admission to close. -/
def LaneIn.letIn (x : LaneIn) (s : State) (m : Nat) : LRes :=
  .wait (s.modGroup x.g fun G => { G with lane := { G.lane with stall := .admission m } })

/-- BRC (R159): joins or opens a meeting, or acts as BRL: in handler mode (R331), inside a meeting (R161), with a compaction entry or a
full stack, with another snapshot than the opener's, or with both slots busy. DESIGN CHOICE (log 92): of two free slots the meeting takes
slot 0; the rule says only 'a free slot'. -/
def brcBody (x : LaneIn) : LRes :=
  let mem : MMember := ⟨x.g, x.act, x.G.lane.em, false⟩
  let inside := match meetOf x.s x.g with
    | some (_, m) => !m.admitting
    | none => false
  if x.G.trap.hmode || inside || x.G.hasCompaction || decide (32 ≤ x.G.lane.stack.length) then brlBody x
  else match openMeet x.s x.G x.pc with
    | some n =>
      let s := x.s.modMeet n fun m => { m with members := m.members.filter fun b => b.group != x.g }
      let opener := (s.meets[n]?.bind fun m => m.members.head?).bind fun b => s.group? b.group
      if (match opener with
        | some H => sameSnap x.G H
        | none => true) then
        x.letIn (s.modMeet n fun m => { m with members := m.members ++ [mem] }) n
      else brlBody { x with s := s }
    | none =>
      let q := x.G.loc.quadId
      let used := slotsUsed x.s q
      if used.contains false && used.contains true then brlBody x
      else
        let m : Meet := ⟨q, used.contains false, x.G.bind.team, x.pc, laneAddr x.G (targetOf x.f), true, false, [mem], [], none⟩
        x.letIn { x.s with meets := x.s.meets ++ [m] } x.s.meets.length

/-- A JOIN at a compaction entry parks its group; the last one closes the meeting (R162). -/
def joinMeet (x : LaneIn) : LRes :=
  match meetOf x.s x.g with
  | none => .trap x.s (.plain cILL)
  | some (n, m) =>
    if (match m.closeAt with
      | some pc => pc != x.pc
      | none => false) then .trap x.s (.plain cILL)
    else
      let park (m : Meet) : Meet := { m with
        closeAt := some x.pc
        members := m.members.map fun b => if b.group = x.g then { b with parked := true } else b }
      let s := x.s.modMeet n park
      let m := park m
      if m.members.all (·.parked) then .done (closeMeet s n x.g m x.pc) x.next
      else .wait (s.modGroup x.g fun G => { G with lane := { G.lane with stall := .parked n } })

/-- JOIN (R152). -/
def joinBody (x : LaneIn) : LRes :=
  match x.G.lane.stack with
  | [] => .trap x.s (.plain cILL)
  | e :: t =>
    match e.kind with
    | .item => .trap x.s (.plain cILL)
    | .compaction => joinMeet x
    | .branch =>
      if e.pend ≠ 0 then x.jump (x.G.setFlow e.pend ({ e with pend := 0 } :: t)) e.ppc
      else x.done (x.G.setFlow e.orig t)

/-- STOP (R155): ends the run. -/
def stopBody (x : LaneIn) : LRes :=
  if x.G.hasCompaction then .trap x.s (.plain cILL)
  else x.done { x.G with lane := { x.G.lane with run := none } }

/-! ### ITEM (R156) -/

/-- The first item of a queue, and the queue after it is taken. -/
def ItemQueue.take (q : ItemQueue) : Option (W32 × ItemQueue) :=
  match q.ranges with
  | [] => none
  | (lo, n) :: t => some (lo, { q with ranges := if n ≤ 1 then t else (lo + 1, n - 1) :: t })

/-- Gives items to lanes, ascending: the queue left, the items given. -/
def giveItems (q : ItemQueue) : List Nat → ItemQueue × List (Nat × W32)
  | [] => (q, [])
  | i :: t => match q.take with
    | none => (q, [])
    | some (x, q) =>
      let (q, r) := giveItems q t
      (q, (i, x) :: r)

/-- The state with the item queue of a team on a core replaced. -/
def State.setQueue (s : State) (team : Nat) (q : ItemQueue) : State :=
  s.modTeam team fun t => { t with queues := t.queues.map fun p => if p.core = q.core then q else p }

/-- The launch of a group has items. -/
def hasItems (s : State) (G : Group) : Bool :=
  match s.launches[G.bind.launch]? with
  | some l => l.rcd.items != 0
  | none => false

/-- A group with items written to the lanes that received them. -/
def LaneIn.writeItems (x : LaneIn) (G : Group) (xs : List (Nat × W32)) : Group :=
  match xs, x.f.dest with
  | [], _ => G
  | _, .v r =>
    let m := maskOf (xs.map (·.1))
    let vals : Lanes W32 := xs.foldl (fun v p => v.setIfInBounds p.1 p.2) (splat 0)
    x.writeReg G r m vals
  | _, _ => G

/-- ITEM. -/
def itemBody (x : LaneIn) : LRes :=
  match x.s.teamOf x.G with
  | none => .trap x.s (.plain cILL)
  | some team =>
    if x.G.trap.hmode || !hasItems x.s x.G then .trap x.s (.plain cILL)
    else
      let fresh : StackEntry := ⟨.item, (targetOf x.f), x.off, false, 0, x.G.lane.em⟩
      let opened : Option (StackEntry × List StackEntry) := match x.G.lane.stack with
        | e :: t => if e.kind = .item ∧ e.hpc = x.off then some (e, t)
          else if 32 ≤ x.G.lane.stack.length then none else some (fresh, e :: t)
        | [] => some (fresh, [])
      match opened with
      | none => .trap x.s (.plain cSTACK)
      | some (e, t) =>
        let em := x.G.lane.em ||| e.pend
        let ih := x.G.lane.ih
        let q := x.act ||| (em &&& ~~~ih)
        let queue := (itemQueue team x.G.loc.coreId).getD ⟨x.G.loc.coreId, [], true⟩
        let (queue', got) := giveItems queue (lanesOf q)
        let ih' := (ih &&& ~~~q) ||| maskOf (got.map (·.1))
        let u := q &&& ~~~ih'
        let em' := em &&& ~~~u
        let retired := popCount (q &&& ih).toNat 32
        let s := (x.s.setQueue x.G.bind.team queue')
        let s := { s with launches := s.launches.modify x.G.bind.launch fun l => { l with retired := l.retired + BitVec.ofNat 64 retired } }
        let G := x.writeItems { x.G with lane := { x.G.lane with
          em := em', ih := ih', stack := { e with pend := u } :: t } } got
        if em' ≠ 0 then .done (s.setGroup x.g G) x.next
        else if queue'.closed && queue'.ranges.isEmpty then
          .done (s.setGroup x.g (G.setFlow e.orig t)) (laneAddr G (targetOf x.f))
        else .wait (s.setGroup x.g { G with lane := { G.lane with stall := .item } })

/-! ### VOTE and ELECT (R157, R158) -/

/-- Appends an entry to the vote port, or stalls on a full one (R30). It is undefined where the instruction touches a pinned register
(R207). -/
def LaneIn.append (x : LaneIn) (s : State) (G : Group) (e : W64) : LRes :=
  let e := if x.clash then freeAt x.s 194 else e
  if 4 ≤ G.lane.vp.length then .wait (x.s.setGroup x.g { x.G with lane := { x.G.lane with stall := .port } })
  else .done (s.setGroup x.g { G with lane := { G.lane with vp := G.lane.vp ++ [e] } }) x.next

/-- The ballot of a source: its nonzero active lanes. -/
def LaneIn.ballot (x : LaneIn) : Mask := x.act &&& maskWhere fun i => x.a[i] != 0

def voteBallotBody (x : LaneIn) : LRes := x.append x.s x.G (zext64 x.ballot)
def voteAnyBody (x : LaneIn) : LRes := x.append x.s x.G (if x.ballot ≠ 0 then 1 else 0)
def voteAllBody (x : LaneIn) : LRes := x.append x.s x.G (if x.ballot = x.act then 1 else 0)

/-- ELECT: only the lowest active lane. -/
def electBody (x : LaneIn) : LRes :=
  match x.f.dest with
  | .k k => x.done (putMaskBits x.G k 0xFFFFFFFF#32 (x.act &&& (0 - x.act)))
  | _ => x.done x.G

/-! ### Meanings -/

def execBrl (f : LForm) (s : State) : Host.Outcome State Fault Refusal := runLane s 0x080 f false brlBody
def execBrc (f : LForm) (s : State) : Host.Outcome State Fault Refusal := runLane s 0x081 f false brcBody
def execJoin (s : State) : Host.Outcome State Fault Refusal := runLane s 0x082 LForm.plain false joinBody
def execStop (s : State) : Host.Outcome State Fault Refusal := runLane s 0x083 LForm.plain false stopBody
def execItem (f : LForm) (s : State) : Host.Outcome State Fault Refusal := runLane s 0x084 f false itemBody
def execVoteBallot (f : LForm) (s : State) : Host.Outcome State Fault Refusal := runLane s 0x085 f false voteBallotBody
def execVoteAny (f : LForm) (s : State) : Host.Outcome State Fault Refusal := runLane s 0x085 f false voteAnyBody
def execVoteAll (f : LForm) (s : State) : Host.Outcome State Fault Refusal := runLane s 0x085 f false voteAllBody
def execElect (f : LForm) (s : State) : Host.Outcome State Fault Refusal := runLane s 0x086 f false electBody

end Sys2Proof.Machine
end

