-- ==== Sys2Proof/Machine/LaneLoad.lean ====
section
/-! DEFINITION. Lane loads, stores, prefetch, atomics, escrow updates and REPLACE (spec/10_memory_words.md R236 to R242;
spec/11_caches_atomics_escrow.md R253 to R257; spec/14_existence_tiles.md R312; spec/16_traps_and_calls.md R342). -/

namespace Sys2Proof.Machine

/-- Ends an instruction in another state, with its group changed. -/
def LaneIn.finish (x : LaneIn) (s : State) (f : Group → Group) : LRes := .done (s.modGroup x.g f) x.next

/-- The address of a lane: base plus sign-extended offset (R238). -/
def LaneIn.ea (x : LaneIn) (i : Nat) : Nat :=
  (x.a.toList.getD i 0 + sext64 ((x.b.toList.getD i 0).setWidth 32)).toNat

/-- The address of a lane that uses the base alone. -/
def LaneIn.base (x : LaneIn) (i : Nat) : Nat := (x.a.toList.getD i 0).toNat

/-- The active lanes, ascending. -/
def LaneIn.lanes (x : LaneIn) : List Nat := lanesOf x.act

/-- What the handler supplied for a lane of the resumed instruction (R241, R339). -/
def LaneIn.supplied (x : LaneIn) (i : Nat) : Option W32 :=
  if x.G.trap.hmode then none else x.G.trap.supplied.toList.getD i none

/-- The active lanes that access memory. -/
def LaneIn.fetching (x : LaneIn) : List Nat := x.lanes.filter fun i => (x.supplied i).isNone
/-- The active lanes with a supplied value. -/
def LaneIn.given (x : LaneIn) : List (Nat × W32) := x.lanes.filterMap fun i => (x.supplied i).map fun v => (i, v)

/-- Values by lane as a vector. -/
def byLane (vs : List (Nat × LVal)) : Lanes LVal := vs.foldl (fun v p => v.setIfInBounds p.1 p.2) (splat 0)

/-! ### Loads -/

/-- A double of its two words. -/
def dblOf (ws : List W32) : LVal := ws.getD 1 0 ++ ws.getD 0 0

/-- A load of one word or less of each lane, as conv makes a result of the word and the address. -/
def LaneIn.load (x : LaneIn) (size : Nat) (conv : Nat → W32 → LVal) : LRes :=
  match loadLanes x.s x.w x.dbg x.pc size false (x.fetching.map fun i => ⟨i, x.ea i, size⟩) with
  | (.wait, s) => .wait s
  | (.raise r, s) => .trap s r
  | (.ok (vs, _), s) =>
    let got := vs.map fun p => (p.1, conv (x.ea p.1) (p.2.headD 0))
    let giv := x.given.map fun p => (p.1, place x.f.ty (zext64 p.2))
    x.finish s fun G => x.putDest G (byLane (got ++ giv))

/-- The bytes of a sub-word load, placed under R71. -/
def subWord (t : LTy) (va : Nat) (w : W32) : LVal := place t (zext64 (w >>> (8 * (va % 4))))

def ldwBody (x : LaneIn) : LRes := x.load 4 fun _ w => zext64 w
def ldhBody (x : LaneIn) : LRes := x.load 2 (subWord x.f.ty)
def ldbBody (x : LaneIn) : LRes := x.load 1 (subWord x.f.ty)

/-- The word of a pair that a lane with a supplied value still reads, if the value stands for the other one (R342). -/
def LaneIn.otherWord (x : LaneIn) (i : Nat) : Option Nat :=
  let at_ := (x.G.trap.supAt.toList.getD i 0).toNat
  if at_ = x.ea i then some (x.ea i + 4) else if at_ = x.ea i + 4 then some (x.ea i) else none

/-- What LDD accesses in a lane: both words, or the one for which no supplied value stands. -/
def LaneIn.pairAcc (x : LaneIn) (i : Nat) : Option LAcc :=
  match x.supplied i with
  | none => some ⟨i, x.ea i, 8⟩
  | some _ => (x.otherWord i).map fun a => ⟨i, a, 4⟩

/-- The double of a lane: the words that it has read, with a supplied value v for those that it has not. -/
def LaneIn.pairOf (x : LaneIn) (i : Nat) (ws : Option (List W32)) : LVal :=
  match x.supplied i, ws with
  | none, some ws => dblOf ws
  | some v, some ws => if x.otherWord i = some (x.ea i) then dblOf [ws.headD 0, v] else dblOf [v, ws.headD 0]
  | some v, none => dblOf [v, v]
  | none, none => 0

/-- LDD: in a lane with a supplied value, the value stands for each word that fails, and the other is read (R342). Under INJ it stands for the
tripped word alone. -/
def lddBody (x : LaneIn) : LRes :=
  match loadRead x.s x.w x.dbg x.pc 8 false [] (x.lanes.filterMap x.pairAcc) with
  | (.wait, s) => .wait s
  | (.raise r, s) => .trap s r
  | (.ok (a, _), s) =>
    let fails := a.fails.filter fun f => (x.supplied f.1).isNone || x.G.trap.supInj.getLsbD f.1
    if fails ≠ [] then .trap s (ueRaise 0 fails)
    else
      let val (i : Nat) : Nat × LVal := (i, x.pairOf i ((a.vals.find? fun v => v.1 == i).map (·.2)))
      x.finish s fun G => x.putDest G (byLane (x.lanes.map val))

/-- The existence word of a placed lane (R312). -/
def existWord (p : Placed) : W32 :=
  match p.locs with
  | l :: _ => if l.present then 0xFFFFFFFF#32 else 0
  | [] => 0

/-- The first region that placed lanes name, lowest lane first. -/
def firstRegion (s : State) (ps : List Placed) : Option (BitVec 8) :=
  ps.findSome? fun p => match p.locs with
    | l :: _ => locRegion s l
    | [] => none

/-- LDX: the word and whether its tile exists. A supplied lane takes its word without reading it. -/
def ldxBody (x : LaneIn) : LRes :=
  match loadRead x.s x.w x.dbg x.pc 4 true (x.given.map (·.1)) (x.lanes.map fun i => ⟨i, x.ea i, 4⟩) with
  | (.wait, s) => .wait s
  | (.raise r, s) => .trap s r
  | (.ok (a, ps), s) =>
    if a.fails ≠ [] then .trap s (ueRaise 0 a.fails)
    else
      let ex (i : Nat) : W32 := match ps.find? fun p => p.lane == i with
        | some p => existWord p
        | none => 0
      let words := (a.vals.map fun p => (p.1, p.2.headD 0)) ++ x.given
      x.finish s fun G =>
        let G := x.putDest G (byLane (words.map fun p => (p.1, (ex p.1 ++ p.2 : LVal))))
        match firstRegion s ps with
        | some r => { G with wait := { G.wait with region := some r } }
        | none => G

/-! ### Stores -/

/-- Ends an access that writes no register. -/
def LaneIn.ended (x : LaneIn) (r : MemRes Unit × State) : LRes :=
  match r with
  | (.wait, s) => .wait s
  | (.raise r, s) => .trap s r
  | (.ok _, s) => x.finish s id

/-- A store of a size (R239). -/
def LaneIn.store (x : LaneIn) (size : Nat) : LRes :=
  x.ended (storeLanes x.s x.w x.dbg x.pc size (x.lanes.map fun i => ⟨i, x.ea i, x.c.toList.getD i 0⟩))

def stwBody (x : LaneIn) : LRes := x.store 4
def sthBody (x : LaneIn) : LRes := x.store 2
def stbBody (x : LaneIn) : LRes := x.store 1
def stdBody (x : LaneIn) : LRes := x.store 8

/-! ### Prefetch (R242) -/

/-- PREF: each word once, however many lanes name it (R226). -/
def prefBody (x : LaneIn) : LRes :=
  let words := (x.lanes.map fun i => x.ea i / 4 * 4).eraseDups
  x.finish (words.foldl (fun s a => prefetchWord s x.w (x.f.var == 0#3) a) x.s) id

/-! ### Atomics (R255) and escrow updates (R256) -/

/-- The scope of VAR (R61). -/
def scopeOf (v : BitVec 3) : Scope := (Scope.ofCode v).getD .domain

/-- The operation of a lane of an atomic: where the instruction touches a pinned register, what it leaves in the word is undefined
(R207). -/
def LaneIn.atOp (x : LaneIn) (i : Nat) (o : AtOp) : AtOp :=
  let y : W32 := (freeAt x.s (200 + i)).setWidth 32
  if x.clash then ⟨fun _ => y, 0x40, y, 0, false⟩ else o

/-- An atomic over the active lanes; addr gives a lane's address and op its operation. -/
def LaneIn.atom (x : LaneIn) (addr : Nat → Nat) (op : Nat → AtOp) : LRes :=
  match atomLanes x.s x.w x.dbg x.pc (scopeOf x.f.var) (x.fetching.map fun i => ⟨i, addr i, x.atOp i (op i)⟩) with
  | (.wait, s) => .wait s
  | (.raise r, s) => .trap s r
  | (.ok vs, s) =>
    x.finish s fun G => x.putDest G (byLane ((vs ++ x.given).map fun p => (p.1, zext64 p.2)))

/-- Operand c of a lane as a word. -/
def LaneIn.cw (x : LaneIn) (i : Nat) : W32 := (x.c.toList.getD i 0).setWidth 32

/-- An atomic of two operands with its code of R63. -/
def LaneIn.atom2 (x : LaneIn) (code : BitVec 7) (f : W32 → W32 → W32) : LRes :=
  x.atom x.ea fun i => ⟨fun old => f old (x.cw i), code, x.cw i, 0, false⟩

def atomAddBody (x : LaneIn) : LRes :=
  if x.f.ty = .f32 then x.atom x.ea fun i => ⟨fun old => f32Add old (x.cw i), 0, x.cw i, 0, true⟩
  else x.atom2 0x00 fun a b => a + b
def atomMinBody (x : LaneIn) : LRes := if x.f.ty = .n32 then x.atom2 0x18 wMinN else x.atom2 0x08 wMinI
def atomMaxBody (x : LaneIn) : LRes := if x.f.ty = .n32 then x.atom2 0x20 wMaxN else x.atom2 0x10 wMaxI
def atomAndBody (x : LaneIn) : LRes := x.atom2 0x28 fun a b => a &&& b
def atomOrBody (x : LaneIn) : LRes := x.atom2 0x30 fun a b => a ||| b
def atomXorBody (x : LaneIn) : LRes := x.atom2 0x38 fun a b => a ^^^ b
def atomSwapBody (x : LaneIn) : LRes := x.atom2 0x40 fun _ b => b
def atomCasBody (x : LaneIn) : LRes :=
  x.atom x.base fun i =>
    let cmp : W32 := (x.b.toList.getD i 0).setWidth 32
    ⟨fun old => if old = cmp then x.cw i else old, opCas, x.cw i, cmp, false⟩

/-- An escrow update with its tag and its code as a peer request. -/
def LaneIn.eop (x : LaneIn) (t : EscTag) (code : BitVec 7) (fadd : Bool) : LRes :=
  x.ended (escrowLanes x.s x.w x.dbg x.pc t (x.lanes.map fun i => ⟨i, x.ea i, ⟨id, code, x.cw i, 0, fadd⟩⟩))

def eopAddBody (x : LaneIn) : LRes := if x.f.ty = .f32 then x.eop .addF 0 true else x.eop .addI 0x00 false
def eopMinBody (x : LaneIn) : LRes := if x.f.ty = .n32 then x.eop .minN 0x18 false else x.eop .minI 0x08 false
def eopMaxBody (x : LaneIn) : LRes := if x.f.ty = .n32 then x.eop .maxN 0x20 false else x.eop .maxI 0x10 false
def eopAndBody (x : LaneIn) : LRes := x.eop .and 0x28 false
def eopOrBody (x : LaneIn) : LRes := x.eop .or 0x30 false
def eopXorBody (x : LaneIn) : LRes := x.eop .xor 0x38 false

/-! ### REPLACE (R342) -/

/-- The lanes that the current cause's record lets the handler supply. -/
def supplyLanes (G : Group) : Mask :=
  match G.trap.recs.toList.getD G.trap.cur none with
  | none => 0
  | some r =>
    if G.trap.cur = cINJ ∨ (G.trap.cur = cUE ∧ (r.aux0 = 0 ∨ r.aux0 = 2)) then r.info.extractLsb' 32 32 else 0

/-- The word for which a lane's supplied value stands: the failing word that the record names, or the tripped word (R241, R342, R350). -/
def suppliedWord (G : Group) (i : Nat) : W64 :=
  if G.trap.cur = cINJ then G.dbg.tripped.getD 0
  else match G.trap.recs.toList.getD G.trap.cur none with
    | some r => r.addr.toList.getD i 0
    | none => 0

/-- Supplies values. -/
def replaceSupplyBody (x : LaneIn) : LRes :=
  let m := x.act &&& supplyLanes x.G
  x.finish x.s fun G => { G with trap := { G.trap with
    supplied := Vector.ofFn fun i => if m.getLsbD i.val then some (x.b[i].setWidth 32) else G.trap.supplied[i]
    supAt := Vector.ofFn fun i => if m.getLsbD i.val then suppliedWord G i.val else G.trap.supAt[i]
    supInj := if G.trap.cur = cINJ then G.trap.supInj ||| m else G.trap.supInj &&& ~~~m } }

/-- REPLACE's store as an accessor: it may also clear a word of the group's own spill slots. -/
def repairer (x : LaneIn) : Who := { x.w with slots := some x.G.bind.area.toNat }

/-- A full-word store at the base. -/
def replaceStoreBody (x : LaneIn) : LRes :=
  x.ended (storeLanes x.s (repairer x) x.dbg x.pc 4 (x.lanes.map fun i => ⟨i, x.base i, x.b.toList.getD i 0⟩))

/-! ### Meanings -/

def execLdw (f : LForm) (s : State) : Host.Outcome State Fault Refusal := runLane s 0x0a0 f false ldwBody
def execLdwImm (f : LForm) (s : State) : Host.Outcome State Fault Refusal := runLane s 0x0a0 f false ldwBody
def execLdh (f : LForm) (s : State) : Host.Outcome State Fault Refusal := runLane s 0x0a1 f false ldhBody
def execLdhImm (f : LForm) (s : State) : Host.Outcome State Fault Refusal := runLane s 0x0a1 f false ldhBody
def execLdb (f : LForm) (s : State) : Host.Outcome State Fault Refusal := runLane s 0x0a2 f false ldbBody
def execLdbImm (f : LForm) (s : State) : Host.Outcome State Fault Refusal := runLane s 0x0a2 f false ldbBody
def execLdd (f : LForm) (s : State) : Host.Outcome State Fault Refusal := runLane s 0x0a3 f false lddBody
def execLddImm (f : LForm) (s : State) : Host.Outcome State Fault Refusal := runLane s 0x0a3 f false lddBody
def execStw (f : LForm) (s : State) : Host.Outcome State Fault Refusal := runLane s 0x0a4 f false stwBody
def execSth (f : LForm) (s : State) : Host.Outcome State Fault Refusal := runLane s 0x0a5 f false sthBody
def execStb (f : LForm) (s : State) : Host.Outcome State Fault Refusal := runLane s 0x0a6 f false stbBody
def execStd (f : LForm) (s : State) : Host.Outcome State Fault Refusal := runLane s 0x0a7 f false stdBody
def execLdx (f : LForm) (s : State) : Host.Outcome State Fault Refusal := runLane s 0x0a8 f false ldxBody
def execLdxImm (f : LForm) (s : State) : Host.Outcome State Fault Refusal := runLane s 0x0a8 f false ldxBody
def execPref (f : LForm) (s : State) : Host.Outcome State Fault Refusal := runLane s 0x0ab f false prefBody
def execPrefImm (f : LForm) (s : State) : Host.Outcome State Fault Refusal := runLane s 0x0ab f false prefBody
def execAtomAdd (f : LForm) (s : State) : Host.Outcome State Fault Refusal := runLane s 0x0b0 f false atomAddBody
def execAtomMin (f : LForm) (s : State) : Host.Outcome State Fault Refusal := runLane s 0x0b1 f false atomMinBody
def execAtomMax (f : LForm) (s : State) : Host.Outcome State Fault Refusal := runLane s 0x0b2 f false atomMaxBody
def execAtomAnd (f : LForm) (s : State) : Host.Outcome State Fault Refusal := runLane s 0x0b3 f false atomAndBody
def execAtomOr (f : LForm) (s : State) : Host.Outcome State Fault Refusal := runLane s 0x0b4 f false atomOrBody
def execAtomXor (f : LForm) (s : State) : Host.Outcome State Fault Refusal := runLane s 0x0b5 f false atomXorBody
def execAtomSwap (f : LForm) (s : State) : Host.Outcome State Fault Refusal := runLane s 0x0b6 f false atomSwapBody
def execAtomCas (f : LForm) (s : State) : Host.Outcome State Fault Refusal := runLane s 0x0b7 f false atomCasBody
def execEopAdd (f : LForm) (s : State) : Host.Outcome State Fault Refusal := runLane s 0x0b8 f false eopAddBody
def execEopMin (f : LForm) (s : State) : Host.Outcome State Fault Refusal := runLane s 0x0b9 f false eopMinBody
def execEopMax (f : LForm) (s : State) : Host.Outcome State Fault Refusal := runLane s 0x0ba f false eopMaxBody
def execEopAnd (f : LForm) (s : State) : Host.Outcome State Fault Refusal := runLane s 0x0bb f false eopAndBody
def execEopOr (f : LForm) (s : State) : Host.Outcome State Fault Refusal := runLane s 0x0bc f false eopOrBody
def execEopXor (f : LForm) (s : State) : Host.Outcome State Fault Refusal := runLane s 0x0bd f false eopXorBody
def execReplaceSupply (f : LForm) (s : State) : Host.Outcome State Fault Refusal := runLane s 0x0e1 f true replaceSupplyBody
def execReplaceStore (f : LForm) (s : State) : Host.Outcome State Fault Refusal := runLane s 0x0e1 f true replaceStoreBody

end Sys2Proof.Machine
end

