-- ==== Sys2Proof/Machine/LaneSegment.lean ====
section
/-! DEFINITION. Lane reductions, prefix counts and intersections, and CALLV (spec/15_clearing_engine.md R326 to R328;
spec/04_number_formats.md R88; spec/16_traps_and_calls.md R343 to R346). -/

namespace Sys2Proof.Machine

/-! ### SEGRED (R88, R327) -/

/-- The segment size of SELC. -/
def segSize (f : LForm) : Nat :=
  match f.c.src with
  | .raw x => 2 ^ (x.toNat % 8)
  | _ => 2

/-- One level of the pairwise tree. -/
def pairUp (op : LaneRes → LaneRes → LaneRes) : List LaneRes → List LaneRes
  | x :: y :: t => op x y :: pairUp op t
  | l => l

/-- The result of a pairwise tree of at most n levels. -/
def treeFold (op : LaneRes → LaneRes → LaneRes) (l : List LaneRes) : Nat → LaneRes
  | 0 => l.headD (.of 0)
  | n + 1 => treeFold op (pairUp op l) n

/-- A reduction over segments: ident in inactive lanes. DESIGN CHOICE (log 122): each active lane of a segment has raised the flags of its tree. -/
def LaneIn.segred (x : LaneIn) (ident : LVal) (op : LVal → LVal → LaneRes) : LRes :=
  let S := segSize x.f
  let leaf (i : Nat) : LaneRes := .of (if x.act.getLsbD i then x.a.toList.getD i 0 else ident)
  let both (p q : LaneRes) : LaneRes :=
    let r := op p.val q.val
    ⟨r.val, p.fl ||| q.fl ||| r.fl⟩
  let seg (k : Nat) : LaneRes := treeFold both ((List.range S).map fun j => leaf (S * k + j)) 5
  let segs := (List.range (32 / S)).map seg
  x.result x.f.ty (Vector.ofFn fun i => segs.getD (i.val / S) (.of 0))

/-- A reduction of words that raises no flag. -/
def LaneIn.segInt (x : LaneIn) (ident : LVal) (op : W32 → W32 → W32) : LRes :=
  x.segred ident fun a b => .of (zext64 (op (a.setWidth 32) (b.setWidth 32)))

def segredAddBody (x : LaneIn) : LRes :=
  if x.f.ty = .f32 then
    x.segred 0x80000000#64 fun a b => roundTo .f32 .rne (exactAdd .rne (fvalOf .f32 a) (fvalOf .f32 b))
  else x.segInt 0 fun a b => a + b
def segredMinBody (x : LaneIn) : LRes :=
  if x.f.ty = .f32 then x.segred 0x7F800000#64 (minMax .f32 false)
  else if x.f.ty = .n32 then x.segInt 0xFFFFFFFF#64 wMinN
  else x.segInt 0x7FFFFFFF#64 wMinI
def segredMaxBody (x : LaneIn) : LRes :=
  if x.f.ty = .f32 then x.segred 0xFF800000#64 (minMax .f32 true)
  else if x.f.ty = .n32 then x.segInt 0 wMaxN
  else x.segInt 0x80000000#64 wMaxI
def segredAndBody (x : LaneIn) : LRes := x.segInt 0xFFFFFFFF#64 fun a b => a &&& b
def segredOrBody (x : LaneIn) : LRes := x.segInt 0 fun a b => a ||| b
def segredXorBody (x : LaneIn) : LRes := x.segInt 0 fun a b => a ^^^ b

/-! ### SCANK (R328) -/

/-- Counts of mask bits from the base of a lane's segment to the lane, or to the one before it. -/
def LaneIn.scank (x : LaneIn) (incl : Bool) : LRes :=
  let S := segSize x.f
  x.result .x32 (Vector.ofFn fun i =>
    let base := i.val - i.val % S
    .of (BitVec.ofNat 64 (popCount (x.ka.toNat / 2 ^ base) (i.val % S + if incl then 1 else 0))))

def scankInclBody (x : LaneIn) : LRes := x.scank true
def scankExclBody (x : LaneIn) : LRes := x.scank false

/-! ### ISECT (R326) -/

/-- The entries of a list in the active lanes: lane and value, padding left out. -/
def realEntries (act : Mask) (v : Lanes LVal) : List (Nat × Nat) :=
  (lanesOf act).filterMap fun i =>
    let y := ((v.toList.getD i 0).setWidth 32).toNat
    if y = 0xFFFFFFFF then none else some (i, y)

/-- The pairs of equal entries, ascending in the first lane, then the second. -/
def matches_ (xs ys : List (Nat × Nat)) : List (Nat × Nat) :=
  xs.flatMap fun p => ys.filterMap fun q => if p.2 = q.2 then some (p.1, q.1) else none

/-- The vote entry of ISECT. -/
def isectEntry (xs ys m : List (Nat × Nat)) : Nat :=
  let top (l : List (Nat × Nat)) : Nat := l.foldl (fun n p => max n p.2) 0
  let mu := min (top xs) (top ys)
  let upTo (l : List (Nat × Nat)) : Nat := (l.filter fun p => decide (p.2 ≤ mu)).length
  let both := !xs.isEmpty && !ys.isEmpty
  let ax := if both then upTo xs else xs.length
  let ay := if both then upTo ys else ys.length
  ax + 2 ^ 8 * ay + 2 ^ 16 * min m.length 32 + 2 ^ 22 * (if 32 < m.length then 1 else 0)

/-- ISECT writes all 32 lanes of both registers. -/
def isectBody (x : LaneIn) : LRes :=
  let xs := realEntries x.act x.a
  let ys := realEntries x.act x.b
  let m := matches_ xs ys
  let res : Lanes LVal := Vector.ofFn fun t => match m[t.val]? with
    | some p => BitVec.ofNat 32 p.2 ++ BitVec.ofNat 32 p.1
    | none => 0xFFFFFFFFFFFFFFFF#64
  let all : LaneIn := { x with act := 0xFFFFFFFF#32 }
  x.append x.s (all.putDest x.G res) (BitVec.ofNat 64 (isectEntry xs ys m))

/-! ### CALLV (R343 to R346) -/

/-- FN of a request. -/
def callFn (req : W32) : Nat := bitsOf req.toNat 31 24

/-- The physical address of a byte of a call record (R344). -/
def callPa (c : Context) (n off : Nat) : Nat :=
  c.callFrames.getD ((512 * n + off) / 65536) 0 + (512 * n + off) % 65536

/-- A word of a call record written by the physical path. -/
def callPut (s : State) (c : Context) (n off : Nat) (x : W32) : State := dramWrite s (callPa c n off) x

/-- Words of a call record written from an offset on. -/
def callPuts (s : State) (c : Context) (n off : Nat) : List W32 → State
  | [] => s
  | x :: t => callPuts (callPut s c n off x) c n (off + 4) t

/-- The record as posted (R344); REP0 to REP31 keep their bytes until the responder writes them. -/
def callFill (s : State) (c : Context) (r : CallRec) (fn : Nat) : State :=
  let s := callPuts s c r.index 4 [BitVec.ofNat 32 fn, r.gidx.setWidth 32, (r.gidx >>> 32).setWidth 32,
    r.loc.setWidth 32, (r.loc >>> 32).setWidth 32, r.mask, r.seq]
  let s := callPuts s c r.index 32 (List.replicate 8 0)
  let s := callPuts s c r.index 64 r.req.toList
  let s := callPuts s c r.index 320 (List.replicate 48 0)
  callPut s c r.index 0 1

/-- A record as answered. -/
def callAnswer (s : State) (c : Context) (n : Nat) (rep : Lanes W32) (timeout : Bool) : State :=
  let s := callPuts s c n 192 rep.toList
  callPut s c n 0 (if timeout then 5 else 3)

/-- The lowest call record of a context that no call holds. -/
def freeCall (c : Context) : Option Nat := (List.range 1024).find? fun n => !c.calls.any fun r => r.index == n

/-- The replies as the lanes receive them: all ones in a lane whose FN is not the selected one (R345). -/
def callReplies (r : CallRec) : Lanes W32 :=
  let fn := match lanesOf r.mask with
    | [] => 0
    | i :: _ => callFn (r.req.toList.getD i 0)
  Vector.ofFn fun i => if callFn r.req[i] = fn ∧ r.timeout = false then r.rep[i] else 0xFFFFFFFF#32

/-- The call record that a group's CALLV at an address waits for. -/
def waitingCall (G : Group) (c : Context) (pc : W64) : Option CallRec :=
  match G.wait.call with
  | some (p, n) => if p = pc then c.calls.find? fun r => r.index == n && !r.dropped else none
  | none => none

/-- Posts a call. -/
def postCall (x : LaneIn) (c : Context) (n fn : Nat) : LRes :=
  let req : Lanes W32 := Vector.ofFn fun i => if x.act.getLsbD i.val then x.a[i].setWidth 32 else 0
  let r : CallRec := ⟨n, x.g, x.act, req, x.G.bind.gidx, x.G.loc.reg, c.callSeq, splat 0, false, false, false⟩
  let s := callFill x.s c r fn
  let s := s.modCtx x.G.bind.ctx fun c => { c with callSeq := c.callSeq + 1 }
  if 0x22 ≤ fn then
    let ones : Lanes W32 := splat 0xFFFFFFFF#32
    x.finish (dropEarly (callAnswer s c n ones false) x.g) fun G => x.putDest G (ones.map zext64)
  else
    let kept (q : CallRec) : Bool := q.group != x.g || match x.G.trap.aside.bind (·.call) with
      | some (_, k) => k == q.index
      | none => false
    let s := s.modCtx x.G.bind.ctx fun c => { c with calls := dropRecs (fun q => !kept q) c.calls ++ [r] }
    let s := if fn < 0x20 then noticeCtx s x.G.bind.ctx (.callPost n r.seq) else s
    .wait (s.modGroup x.g fun G => { G with wait := { G.wait with call := some (x.pc, n) } })

/-- CALLV. -/
def callvBody (x : LaneIn) : LRes :=
  match lanesOf x.act, x.s.ctxOf x.G with
  | i :: _, some c =>
    match waitingCall x.G c x.pc with
    | some r =>
      if r.answered || r.timeout then
        let s := x.s.modCtx x.G.bind.ctx fun c => { c with calls := c.calls.filter fun q => q.index != r.index }
        x.finish (dropEarly s x.g) fun G => { x.putDest G ((callReplies r).map zext64) with wait := { G.wait with call := none } }
      else .wait x.s
    | none =>
      if !visibleAt x.s x.g .domain then .wait x.s
      else match freeCall c with
        | none => .wait x.s
        | some n => postCall x c n (callFn ((x.a.toList.getD i 0).setWidth 32))
  | _, _ => x.done x.G

/-! ### Meanings -/

def execIsect (f : LForm) (s : State) : Host.Outcome State Fault Refusal := runLane s 0x0c0 f false isectBody
def execScankIncl (f : LForm) (s : State) : Host.Outcome State Fault Refusal := runLane s 0x0c1 f false scankInclBody
def execScankExcl (f : LForm) (s : State) : Host.Outcome State Fault Refusal := runLane s 0x0c1 f false scankExclBody
def execSegredAdd (f : LForm) (s : State) : Host.Outcome State Fault Refusal := runLane s 0x0c2 f false segredAddBody
def execSegredMin (f : LForm) (s : State) : Host.Outcome State Fault Refusal := runLane s 0x0c2 f false segredMinBody
def execSegredMax (f : LForm) (s : State) : Host.Outcome State Fault Refusal := runLane s 0x0c2 f false segredMaxBody
def execSegredAnd (f : LForm) (s : State) : Host.Outcome State Fault Refusal := runLane s 0x0c2 f false segredAndBody
def execSegredOr (f : LForm) (s : State) : Host.Outcome State Fault Refusal := runLane s 0x0c2 f false segredOrBody
def execSegredXor (f : LForm) (s : State) : Host.Outcome State Fault Refusal := runLane s 0x0c2 f false segredXorBody
def execCallv (f : LForm) (s : State) : Host.Outcome State Fault Refusal := runLane s 0x0e0 f false callvBody

end Sys2Proof.Machine
end

