-- ==== Sys2Proof/Machine/ScalarAlu.lean ====
section
/-! DEFINITION. Scalar arithmetic and logic (spec/06_registers_and_lane_arithmetic.md R128, R129; spec/02_streams_and_encoding.md
R34; spec/03_opcode_map.md R60). -/

namespace Sys2Proof.Machine

/-- Writes a function of two registers. -/
def alu2 (s : State) (d a b : SReg) (f : W64 → W64 → W64) : Host.Outcome State Fault Refusal :=
  runScalar s fun g G => sWrite s g G d (f (G.sreg a) (G.sreg b))

/-- Writes a function of one register. -/
def alu1 (s : State) (d a : SReg) (f : W64 → W64) : Host.Outcome State Fault Refusal :=
  runScalar s fun g G => sWrite s g G d (f (G.sreg a))

/-- Writes a function of two registers, or raises DIVZ when the second is zero (R129). -/
def aluDiv (s : State) (d a b : SReg) (f : W64 → W64 → W64) : Host.Outcome State Fault Refusal :=
  runScalar s fun g G =>
    if G.sreg b = 0 then .trap s (.plain cDIVZ) else sWrite s g G d (f (G.sreg a) (G.sreg b))

/-- Shifts by a natural amount. -/
def shl64 (a : W64) (n : Nat) : W64 := if 64 ≤ n then 0 else a <<< n
def shr64 (a : W64) (n : Nat) : W64 := if 64 ≤ n then 0 else a >>> n
def sra64 (a : W64) (n : Nat) : W64 := a.sshiftRight (min n 63)

/-- 1 or 0. -/
def bit64 (p : Bool) : W64 := if p then 1 else 0

/-- Quotient truncated toward zero, and the remainder with the sign of a (R128, R129). -/
def divS (a b : W64) : W64 := BitVec.ofInt 64 (Int.tdiv a.toInt b.toInt)
def remS (a b : W64) : W64 := BitVec.ofInt 64 (Int.tmod a.toInt b.toInt)

def execAdd (d a b : SReg) (s : State) : Host.Outcome State Fault Refusal := alu2 s d a b fun x y => x + y
def execSub (d a b : SReg) (s : State) : Host.Outcome State Fault Refusal := alu2 s d a b fun x y => x - y
def execMul (d a b : SReg) (s : State) : Host.Outcome State Fault Refusal := alu2 s d a b fun x y => x * y
def execMulh (d a b : SReg) (s : State) : Host.Outcome State Fault Refusal := alu2 s d a b fun x y => BitVec.ofInt 64 (x.toInt * y.toInt / (2 ^ 64 : Nat))
def execMulhn (d a b : SReg) (s : State) : Host.Outcome State Fault Refusal := alu2 s d a b fun x y => BitVec.ofNat 64 (x.toNat * y.toNat / 2 ^ 64)
def execDiv (d a b : SReg) (s : State) : Host.Outcome State Fault Refusal := aluDiv s d a b fun x y => divS x y
def execDivn (d a b : SReg) (s : State) : Host.Outcome State Fault Refusal := aluDiv s d a b fun x y => x.udiv y
def execRem (d a b : SReg) (s : State) : Host.Outcome State Fault Refusal := aluDiv s d a b fun x y => remS x y
def execRemn (d a b : SReg) (s : State) : Host.Outcome State Fault Refusal := aluDiv s d a b fun x y => x.umod y
def execAnd (d a b : SReg) (s : State) : Host.Outcome State Fault Refusal := alu2 s d a b fun x y => x &&& y
def execOr (d a b : SReg) (s : State) : Host.Outcome State Fault Refusal := alu2 s d a b fun x y => x ||| y
def execXor (d a b : SReg) (s : State) : Host.Outcome State Fault Refusal := alu2 s d a b fun x y => x ^^^ y
def execShl (d a b : SReg) (s : State) : Host.Outcome State Fault Refusal := alu2 s d a b fun x y => shl64 x y.toNat
def execShr (d a b : SReg) (s : State) : Host.Outcome State Fault Refusal := alu2 s d a b fun x y => shr64 x y.toNat
def execSra (d a b : SReg) (s : State) : Host.Outcome State Fault Refusal := alu2 s d a b fun x y => sra64 x y.toNat
def execMin (d a b : SReg) (s : State) : Host.Outcome State Fault Refusal := alu2 s d a b fun x y => if x.toInt ≤ y.toInt then x else y
def execMax (d a b : SReg) (s : State) : Host.Outcome State Fault Refusal := alu2 s d a b fun x y => if x.toInt ≤ y.toInt then y else x
def execMinn (d a b : SReg) (s : State) : Host.Outcome State Fault Refusal := alu2 s d a b fun x y => if x.toNat ≤ y.toNat then x else y
def execMaxn (d a b : SReg) (s : State) : Host.Outcome State Fault Refusal := alu2 s d a b fun x y => if x.toNat ≤ y.toNat then y else x
def execSlt (d a b : SReg) (s : State) : Host.Outcome State Fault Refusal := alu2 s d a b fun x y => bit64 (x.slt y)
def execSltn (d a b : SReg) (s : State) : Host.Outcome State Fault Refusal := alu2 s d a b fun x y => bit64 (x.ult y)
def execClz (d a : SReg) (s : State) : Host.Outcome State Fault Refusal := alu1 s d a fun x => BitVec.ofNat 64 (leadZeros x.toNat 64)
def execPopc (d a : SReg) (s : State) : Host.Outcome State Fault Refusal := alu1 s d a fun x => BitVec.ofNat 64 (popCount x.toNat 64)
/-- SEL reads sd as its condition (R60). -/
def execSel (d a b : SReg) (s : State) : Host.Outcome State Fault Refusal :=
  runScalar s fun g G => sWrite s g G d (if G.sreg d ≠ 0 then G.sreg a else G.sreg b)
def execAddi (d a : SReg) (imm : BitVec 13) (s : State) : Host.Outcome State Fault Refusal := alu1 s d a fun x => x + sext64 imm
def execAndi (d a : SReg) (imm : BitVec 13) (s : State) : Host.Outcome State Fault Refusal := alu1 s d a fun x => x &&& zext64 imm
def execSlti (d a : SReg) (imm : BitVec 13) (s : State) : Host.Outcome State Fault Refusal := alu1 s d a fun x => bit64 (x.slt (sext64 imm))
def execOri (d a : SReg) (imm : BitVec 13) (s : State) : Host.Outcome State Fault Refusal := alu1 s d a fun x => x ||| zext64 imm
def execXori (d a : SReg) (imm : BitVec 13) (s : State) : Host.Outcome State Fault Refusal := alu1 s d a fun x => x ^^^ zext64 imm
def execShli (d a : SReg) (n : BitVec 6) (s : State) : Host.Outcome State Fault Refusal := alu1 s d a fun x => shl64 x n.toNat
def execShri (d a : SReg) (n : BitVec 6) (s : State) : Host.Outcome State Fault Refusal := alu1 s d a fun x => shr64 x n.toNat
def execSrai (d a : SReg) (n : BitVec 6) (s : State) : Host.Outcome State Fault Refusal := alu1 s d a fun x => sra64 x n.toNat
/-- SETHI (R34): the immediate shifted left by 13 as 32 bits, sign-extended. -/
def execSethi (d : SReg) (imm : BitVec 19) (s : State) : Host.Outcome State Fault Refusal :=
  runScalar s fun g G => sWrite s g G d (sext64 (imm ++ 0#13))

end Sys2Proof.Machine
end

