-- ==== Sys2Proof/Machine/ScalarMem.lean ====
section
/-! DEFINITION. Scalar loads, stores and atomics (spec/06_registers_and_lane_arithmetic.md R130;
spec/11_caches_atomics_escrow.md R254). -/

namespace Sys2Proof.Machine

/-- A group with scalar sources as an entry of the operand log gives them. -/
def Group.withSources (G : Group) (rs : List SReg) (e : OpEntry) : Group :=
  (rs.zip [e.a, e.b, e.c]).foldl (fun G p => G.setS p.1 (p.2.toList.headD 0)) G

/-- The group as its scalar instruction reads it: with the sources of the operand log where the instruction executes again (R127). -/
def Group.logged (s : State) (g : Nat) (G : Group) (srcs : List SReg) : Group :=
  match loggedOps s (.scalar g) G.sc.spc with
  | some e => G.withSources srcs e
  | none => G

/-- Executes a scalar meaning that may meet a fault, given its sources: while the fault is being served they stand in the operand log, and the
instruction executes again from there (R127). -/
def runLogged (s : State) (srcs : List SReg) (f : Nat → Group → SRes) : Host.Outcome State Fault Refusal :=
  runScalar s fun g G =>
    let G := G.logged s g srcs
    let src (i : Nat) : Lanes W64 := splat (match srcs[i]? with
      | some r => G.sreg r
      | none => 0)
    match f g G with
    | .wait s' => .wait (logOps s' ⟨G.loc.quadId, .scalar g, G.sc.spc, none, 0, src 0, src 1, src 2⟩)
    | r => r

/-- What a scalar access is checked against: the debug state and the exemption of R338. No trip meets it (R350). -/
def scalarDbg (G : Group) : Dbg := ⟨G.dbg, G.trap.hmode || G.trap.firstS, false⟩

/-- An access of the scalar stream: done, waiting or trapped, with a register written from the result. -/
def sEnd {α : Type} (g : Nat) (pc : W64) (r : MemRes α × State) (k : α → Group → Group) : SRes :=
  match r with
  | (.wait, s) => .wait s
  | (.raise r, s) => .trap s r.scalar
  | (.ok x, s) => .done (s.modGroup g (k x)) pc

/-- A scalar load of a size into d. -/
def scalarLoad (s : State) (d a : SReg) (off : BitVec 13) (size : Nat) : Host.Outcome State Fault Refusal :=
  runLogged s [a] fun g G =>
    match whoScalar s g G with
    | none => .wait s
    | some w =>
      let ea := (G.sreg a + sext64 off).toNat
      sEnd g G.nextPc (loadLanes s w (scalarDbg G) G.sc.spc size false [⟨0, ea, size⟩]) fun x G =>
        let ws := match x.1 with
          | p :: _ => p.2
          | [] => []
        G.setS d (if size = 8 then dblOf ws else zext64 (ws.headD 0))

/-- A scalar store of a size. -/
def scalarStore (s : State) (x a : SReg) (off : BitVec 13) (size : Nat) : Host.Outcome State Fault Refusal :=
  runLogged s [x, a] fun g G =>
    match whoScalar s g G with
    | none => .wait s
    | some w =>
      let ea := (G.sreg a + sext64 off).toNat
      sEnd g G.nextPc (storeLanes s w (scalarDbg G) G.sc.spc size [⟨0, ea, G.sreg x⟩]) fun _ G => G

/-- A scalar atomic: op makes the operation of the operand and the compare value. It never enters the operand log (R252). -/
def scalarAtom (s : State) (d a b : SReg) (sc : Scope) (op : W32 → W32 → AtOp) : Host.Outcome State Fault Refusal :=
  runScalar s fun g G =>
    match whoScalar s g G with
    | none => .wait s
    | some w =>
      let o := op ((G.sreg b).setWidth 32) ((G.sreg d).setWidth 32)
      sEnd g G.nextPc (atomLanes s w (scalarDbg G) G.sc.spc sc [⟨0, (G.sreg a).toNat, o⟩]) fun vs G =>
        G.setS d (match vs with
          | p :: _ => zext64 p.2
          | [] => 0)

/-- An operation of old value and operand with its code of R63. -/
def atop2 (code : BitVec 7) (f : W32 → W32 → W32) (x _y : W32) : AtOp := ⟨fun old => f old x, code, x, 0, false⟩

def execLds (d a : SReg) (off : BitVec 13) (s : State) : Host.Outcome State Fault Refusal := scalarLoad s d a off 8
def execLds32 (d a : SReg) (off : BitVec 13) (s : State) : Host.Outcome State Fault Refusal := scalarLoad s d a off 4
def execSts (x a : SReg) (off : BitVec 13) (s : State) : Host.Outcome State Fault Refusal := scalarStore s x a off 8
def execSts32 (x a : SReg) (off : BitVec 13) (s : State) : Host.Outcome State Fault Refusal := scalarStore s x a off 4
def execAmosAdd (d a b : SReg) (sc : Scope) (s : State) : Host.Outcome State Fault Refusal := scalarAtom s d a b sc (atop2 0x00 (fun a b => a + b))
def execAmosMin (d a b : SReg) (sc : Scope) (s : State) : Host.Outcome State Fault Refusal := scalarAtom s d a b sc (atop2 0x08 wMinI)
def execAmosMax (d a b : SReg) (sc : Scope) (s : State) : Host.Outcome State Fault Refusal := scalarAtom s d a b sc (atop2 0x10 wMaxI)
def execAmosMinn (d a b : SReg) (sc : Scope) (s : State) : Host.Outcome State Fault Refusal := scalarAtom s d a b sc (atop2 0x18 wMinN)
def execAmosMaxn (d a b : SReg) (sc : Scope) (s : State) : Host.Outcome State Fault Refusal := scalarAtom s d a b sc (atop2 0x20 wMaxN)
def execAmosAnd (d a b : SReg) (sc : Scope) (s : State) : Host.Outcome State Fault Refusal := scalarAtom s d a b sc (atop2 0x28 (fun a b => a &&& b))
def execAmosOr (d a b : SReg) (sc : Scope) (s : State) : Host.Outcome State Fault Refusal := scalarAtom s d a b sc (atop2 0x30 (fun a b => a ||| b))
def execAmosXor (d a b : SReg) (sc : Scope) (s : State) : Host.Outcome State Fault Refusal := scalarAtom s d a b sc (atop2 0x38 (fun a b => a ^^^ b))
def execAmosSwap (d a b : SReg) (sc : Scope) (s : State) : Host.Outcome State Fault Refusal := scalarAtom s d a b sc (atop2 0x40 (fun _ b => b))
def execAmosCas (d a b : SReg) (sc : Scope) (s : State) : Host.Outcome State Fault Refusal :=
  scalarAtom s d a b sc fun x y => ⟨fun old => if old = y then x else old, opCas, x, y, false⟩

end Sys2Proof.Machine
end

