-- ==== Sys2Proof/Machine/ScalarFlow.lean ====
section
/-! DEFINITION. Scalar control flow, the decision queue, fences and team barriers (spec/02_streams_and_encoding.md R27, R31, R32;
spec/07_control_flow_and_barriers.md R146, R147, R164 to R167; spec/12_ordering.md R274, R276; spec/05 R108). -/

namespace Sys2Proof.Machine

/-! ### Branches (R146, R147) -/

/-- The target of a branch offset. -/
def branchTo (G : Group) (off : W64) : W64 := G.sc.spc + 4 * off

/-- A conditional branch. -/
def branchIf (s : State) (a b : SReg) (off : BitVec 13) (p : W64 → W64 → Bool) : Host.Outcome State Fault Refusal :=
  runScalar s fun _ G => .done s (if p (G.sreg a) (G.sreg b) then branchTo G (sext64 off) else G.nextPc)

def execB (off : BitVec 19) (s : State) : Host.Outcome State Fault Refusal :=
  runScalar s fun _ G => .done s (branchTo G (sext64 off))
def execBeq (a b : SReg) (off : BitVec 13) (s : State) : Host.Outcome State Fault Refusal := branchIf s a b off fun x y => x == y
def execBne (a b : SReg) (off : BitVec 13) (s : State) : Host.Outcome State Fault Refusal := branchIf s a b off fun x y => x != y
def execBlt (a b : SReg) (off : BitVec 13) (s : State) : Host.Outcome State Fault Refusal := branchIf s a b off fun x y => x.slt y
def execBge (a b : SReg) (off : BitVec 13) (s : State) : Host.Outcome State Fault Refusal := branchIf s a b off fun x y => !x.slt y
def execBltn (a b : SReg) (off : BitVec 13) (s : State) : Host.Outcome State Fault Refusal := branchIf s a b off fun x y => x.ult y
def execBgen (a b : SReg) (off : BitVec 13) (s : State) : Host.Outcome State Fault Refusal := branchIf s a b off fun x y => !x.ult y
def execCall (l : SReg) (off : BitVec 19) (s : State) : Host.Outcome State Fault Refusal :=
  runScalar s fun g G => .done (s.setGroup g (G.setS l G.nextPc)) (branchTo G (sext64 off))

/-- An indirect jump to t that writes a link. -/
def jumpTo (s : State) (g : Nat) (G : Group) (d : SReg) (t : W64) : SRes :=
  if t.extractLsb' 0 2 ≠ 0#2 then .trap s (.at cALIGN 0 t)
  else if 2 ^ 56 ≤ t.toNat then .trap s (.at cXLAT 4 t)
  else .done (s.setGroup g (G.setS d G.nextPc)) t

def execJr (d a : SReg) (s : State) : Host.Outcome State Fault Refusal := runScalar s fun g G => jumpTo s g G d (G.sreg a)
def execRet (a : SReg) (s : State) : Host.Outcome State Fault Refusal := runScalar s fun g G => jumpTo s g G 0 (G.sreg a)

/-! ### Runs and the vote port (R27, R31, R32) -/

/-- The snapshot of a RUN. -/
def snapshotOf (G : Group) (b : SReg) : Vector W64 4 :=
  Vector.ofFn fun j => if j.val < snapCount b then G.sreg (b + BitVec.ofNat 6 j.val) else 0

def execRun (b : SReg) (off : BitVec 19) (s : State) : Host.Outcome State Fault Refusal :=
  runScalar s fun g G =>
    if 8 ≤ G.lane.dq.length then
      (if laneStuck s g G then .trap s (.plain cILL) else .wait s)
    else
      let r : Run := ⟨laneAddr G off, b, snapshotOf G b⟩
      .done (s.setGroup g { G with lane := { G.lane with dq := G.lane.dq ++ [r] } }) G.nextPc

def execTakev (d : SReg) (s : State) : Host.Outcome State Fault Refusal :=
  runScalar s fun g G =>
    match G.lane.vp with
    | e :: t => sWrite s g { G with lane := { G.lane with vp := t } } d e
    | [] => if G.laneIdle || laneStuck s g G then .trap s (.plain cILL) else .wait s

/-! ### SYNCQ and FENCE (R274, R276) -/

/-- SYNCQ: what the streams have read ahead is read again after it (R267). -/
def execSyncq (s : State) : Host.Outcome State Fault Refusal :=
  runScalar s fun g G => whenLaneIdle s g G (.done (dropEarly s g) G.nextPc)

/-- Waits until every older write of the group is visible at a scope. -/
def whenVisible (s : State) (g : Nat) (sc : Scope) (k : SRes) : SRes := if visibleAt s g sc then k else .wait s

/-- A fence without a release waits for the lane stream: every older read has returned its value then. -/
def execFenceAcq (sc : Scope) (s : State) : Host.Outcome State Fault Refusal :=
  runScalar s fun g G => whenLaneIdle s g G (.done (fenceAcquire s g sc) G.nextPc)
def execFenceRel (sc : Scope) (s : State) : Host.Outcome State Fault Refusal :=
  runScalar s fun g G => whenLaneIdle s g G (whenVisible s g sc (.done (fenceRelease (dropEarly s g) g sc) G.nextPc))
def execFenceAcqrel (sc : Scope) (s : State) : Host.Outcome State Fault Refusal :=
  runScalar s fun g G => whenLaneIdle s g G (whenVisible s g sc (.done (fenceRelease (fenceAcquire s g sc) g sc) G.nextPc))
/-- FENCE.sc: a word that has been performed is one word for every reader (R249), so that the order in which these fences retire is the one of
the Fence order axiom (R270). -/
def execFenceSc (sc : Scope) (s : State) : Host.Outcome State Fault Refusal :=
  runScalar s fun g G => whenLaneIdle s g G (whenVisible s g sc (.done (fenceRelease (fenceAcquire s g sc) g sc) G.nextPc))

/-! ### Team barriers (R164 to R167) -/

/-- A completed phase: EXPECT and the count operand stand until the next phase opens. -/
def Barrier.complete (b : Barrier) : Barrier :=
  { b with phase := b.phase + 1, isOpen := false, arrived := 0, arr := [] }

/-- Completes the phase when enough have arrived. -/
def Barrier.settle (b : Barrier) : Barrier := if b.isOpen ∧ b.expect ≤ b.arrived then b.complete else b

/-- ARR[g]. -/
def Barrier.arrOf (b : Barrier) (g : Nat) : Mask :=
  match b.arr.find? fun p => p.1 == g with
  | some p => p.2
  | none => 0

/-- A barrier after the arrival of a group with an EM under a count, given the team's live threads; none when the count differs from
the one recorded. -/
def Barrier.arrive (b : Barrier) (g : Nat) (em : Mask) (c : W64) (live : Nat) : Option Barrier :=
  if b.isOpen ∧ c ≠ b.count then none
  else
    let b : Barrier := if b.isOpen then b
      else { b with isOpen := true, expect := if c = 0 then live else c.toNat, count := c }
    let old := b.arrOf g
    let a := em &&& ~~~old
    let b : Barrier := { b with
      arr := (g, old ||| a) :: b.arr.filter fun p => p.1 != g
      arrived := b.arrived + popCount a.toNat 32 }
    some b.settle

/-- A barrier after a group has left its team (R167). -/
def Barrier.leave (b : Barrier) (g : Nat) : Barrier :=
  if b.isOpen then
    let u := ~~~(b.arrOf g)
    ({ b with expect := max (b.expect - popCount u.toNat 32) b.arrived } : Barrier).settle
  else b

/-- A team after a group has left it. -/
def Team.leave (t : Team) (g : Nat) : Team :=
  { t with barriers := t.barriers.map fun b => b.leave g, live := t.live - 32 }

/-- The state with a barrier of a team replaced. -/
def State.setBarrier (s : State) (team n : Nat) (b : Barrier) : State :=
  s.modTeam team fun t => { t with barriers := t.barriers.setIfInBounds n b }

/-- The barrier that an identifier names. -/
def barOf (t : Team) (n : Nat) : Barrier := t.barriers.toList.getD n ⟨0, false, 0, 0, 0, []⟩

/-- The arrival of ARRIVE and BAR: the state and the token, or a cause. It is a release at team scope, and waits for the group's older writes
to be visible there (R166, R268). -/
def arriveAt (s : State) (g : Nat) (G : Group) (a b : SReg) (k : State → BitVec 16 → SRes) : SRes :=
  match s.teamOf G with
  | none => .trap s (.plain cILL)
  | some t =>
    let id := G.sreg a
    let c := G.sreg b
    if 16 ≤ id.toNat ∨ 32 * t.atCommit < c.toNat then .trap s (.plain cILL)
    else whenLaneIdle s g G <| whenVisible s g .team <|
      let bar := barOf t id.toNat
      match bar.arrive g G.lane.em c t.live with
      | none => .trap s (.plain cILL)
      | some bar' =>
        let c : PadSync := .bar G.bind.team id.toNat bar.phase
        k ((padRelease (if bar.isOpen then s else padDrop s c) g c).setBarrier G.bind.team id.toNat bar') bar.phase

/-- The end of a wait for a phase, an acquire: every arrival in the phase synchronises with it (R166, R268). -/
def passBar (s : State) (g : Nat) (G : Group) (id : W64) (tok : BitVec 16) : State :=
  acquired s g (· == .bar G.bind.team id.toNat tok)

/-- The wait of WAITBAR and BAR, an acquire where it ends (R268). -/
def waitAt (s : State) (G : Group) (id : W64) (tok : BitVec 16) (k wait : SRes) : SRes :=
  match s.teamOf G with
  | none => .trap s (.plain cILL)
  | some t =>
    if 16 ≤ id.toNat then .trap s (.plain cILL)
    else
      let bar := barOf t id.toNat
      if 2 ^ 15 ≤ (bar.phase - tok).toNat then .trap s (.plain cILL)
      else if bar.phase ≠ tok then k else wait

def execArrive (d a b : SReg) (s : State) : Host.Outcome State Fault Refusal :=
  runScalar s fun g G => arriveAt s g G a b fun s tok =>
    .done (s.modGroup g fun G => G.setS d (zext64 tok)) G.nextPc

def execWaitbar (a b : SReg) (s : State) : Host.Outcome State Fault Refusal :=
  runScalar s fun g G => waitAt s G (G.sreg a) ((G.sreg b).setWidth 16) (.done (passBar s g G (G.sreg a) ((G.sreg b).setWidth 16)) G.nextPc) (.wait s)

/-- A group's record of the token of the BAR at an address. -/
def State.setBarTok (s : State) (g : Nat) (t : Option BarWait) : State :=
  s.modGroup g fun G => { G with wait := { G.wait with barTok := t } }

/-- BAR: arrives once, then waits on its hidden token. -/
def execBar (a b : SReg) (s : State) : Host.Outcome State Fault Refusal :=
  runScalar s fun g G =>
    let id := G.sreg a
    let go (s : State) (tok : BitVec 16) : SRes :=
      waitAt s G id tok (.done (passBar (s.setBarTok g none) g G id tok) G.nextPc) (.wait (s.setBarTok g (some ⟨G.sc.spc, id.setWidth 4, tok⟩)))
    match G.wait.barTok with
    | some w => if w.pc = G.sc.spc then go s w.tok else arriveAt s g G a b go
    | none => arriveAt s g G a b go

/-- YIELD (R108): the group pauses when another group of its quadrant could issue. -/
def execYield (s : State) : Host.Outcome State Fault Refusal :=
  runScalar s fun g G =>
    .done (s.modGroup g fun G => { G with wait := { G.wait with paused := true } }) G.nextPc

end Sys2Proof.Machine
end

