-- ==== Sys2Proof/Machine/Records.lean ====
section
/-! DEFINITION. Shape records: reading, the record cache, checks, addresses, boxes and window views
(spec/08_scratchpad_and_copies.md R184 to R192; spec/04_number_formats.md R84). -/

namespace Sys2Proof.Machine

/-! ### Reading words of a record or a table for a scalar instruction -/

/-- A raise of a scalar instruction that reads several words: the lowest failing address. -/
def Raise.first (r : Raise) : Raise :=
  let i := lowestFrom r.lanes.toNat 0 32
  { r with lanes := 0, addr := (splat 0).setIfInBounds 0 (r.addr.toList.getD i 0) }

/-- Reads 32 words, or fewer, from an address for the scalar stream. -/
def readWordsAt (s : State) (w : Who) (dbg : Dbg) (pc : W64) (a n : Nat) : MemRes (List W32) × State :=
  match loadLanes s w dbg pc 4 false ((List.range n).map fun i => ⟨i, a + 4 * i, 4⟩) with
  | (.wait, s) => (.wait, s)
  | (.raise r, s) => (.raise r.first, s)
  | (.ok x, s) => (.ok (x.1.map fun p => p.2.headD 0), s)

/-! ### Fields (R184, R185) -/

/-- The element size in scratchpad and, for ELEM 0 to 2, in memory. -/
def esz (elem : Nat) : Nat := if elem = 0 then 4 else if elem = 1 then 2 else 1

/-- The record that 32 words hold; none when a reserved bit is set. -/
def parseRecord (w : List W32) : Option ShapeRec :=
  let at_ (i : Nat) : W32 := w.getD i 0
  let d := (at_ 2).toNat
  let win (i : Nat) : Nat × Nat × Nat × Nat :=
    let x := (at_ i).toNat
    (bitsOf x 7 0, bitsOf x 15 8, bitsOf x 23 16, bitsOf x 31 24)
  if at_ 1 &&& 0xFF000000#32 ≠ 0 ∨ at_ 3 ≠ 0 ∨ bitsOf d 15 15 ≠ 0 ∨ (w.drop 17).any (· != 0) then none
  else some
    { base := at_ 1 ++ at_ 0
      elem := bitsOf d 31 29
      epb := bitsOf d 28 22
      rank := bitsOf d 21 19
      nwin := bitsOf d 18 17
      clamp := bitsOf d 16 16 == 1
      perm := (List.range 5).map fun t => bitsOf d (3 * t + 2) (3 * t)
      ext := (List.range 5).map fun i => (at_ (4 + i)).toNat
      str := (List.range 5).map fun i => (at_ (9 + i)).toInt
      win := [win 14, win 15, win 16] }

/-- EXTd, STRd, PERM_t. -/
def ShapeRec.extOf (r : ShapeRec) (d : Nat) : Nat := r.ext.getD d 1
def ShapeRec.strOf (r : ShapeRec) (d : Nat) : Int := r.str.getD d 0
def ShapeRec.permOf (r : ShapeRec) (t : Nat) : Nat := r.perm.getD t t
/-- Described: .t8 or .t6 blocks. -/
def ShapeRec.described (r : ShapeRec) : Bool := r.elem == 3 || r.elem == 4

/-- K, S, D and PAD of dimension j; a dimension without a window has one position of its own. -/
def ShapeRec.winOf (r : ShapeRec) (j : Nat) : Nat × Nat × Nat × Nat :=
  if 1 ≤ j ∧ j ≤ r.nwin then r.win.getD (j - 1) (1, 1, 1, 0) else (1, 1, 1, 0)

/-- OUT_j (R188); 1 for a dimension without a window. -/
def ShapeRec.outOf (r : ShapeRec) (j : Nat) : Int :=
  if 1 ≤ j ∧ j ≤ r.nwin then
    let (k, s, d, p) := r.winOf j
    ((r.extOf j : Int) + 2 * p - d * ((k : Int) - 1) - 1) / (s : Int) + 1
  else 1

/-! ### Checks (R186) -/

/-- PERM is a permutation of the dimensions in use and the identity above. -/
def permGood (r : ShapeRec) : Bool :=
  ((List.range r.rank).all fun d => (r.perm.take r.rank).contains d) &&
    (List.range 5).all fun t => decide (t < r.rank) || r.permOf t == t

/-- PERM is the identity. -/
def permIdentity (r : ShapeRec) : Bool := (List.range 5).all fun t => r.permOf t == t

/-- The windows are sound. -/
def windowsGood (r : ShapeRec) : Bool :=
  (List.range 3).all fun i =>
    let (k, s, d, p) := r.win.getD i (0, 0, 0, 0)
    if i + 1 ≤ r.nwin then
      decide (0 < k) && decide (0 < s) && decide (0 < d) && decide (1 ≤ r.outOf (i + 1))
    else k + s + d + p == 0

/-- ELEM, EPB and RANK are in range (R84, R185). -/
def fieldsGood (r : ShapeRec) : Bool :=
  decide (r.elem ≤ 4) && decide (1 ≤ r.rank ∧ r.rank ≤ 5) &&
  (if r.elem = 3 then decide (1 ≤ r.epb ∧ r.epb ≤ 62)
    else if r.elem = 4 then decide (1 ≤ r.epb ∧ r.epb ≤ 82) else r.epb == 0)

/-- The rules of described records. -/
def describedGood (r : ShapeRec) : Bool :=
  !r.described ||
  (r.strOf 0 == 0 && ([1, 2, 3, 4].all fun d => r.strOf d % 16 == 0) && r.base.toNat % 64 == 0 && r.epb % 16 == 0 &&
    r.permOf 0 == 0 && r.nwin == 0)

/-- Every check of R186. -/
def recordGood (r : ShapeRec) : Bool :=
  fieldsGood r && (r.ext.all (· != 0)) &&
  ((List.range 5).all fun d => decide (d < r.rank) || (r.extOf d == 1 && r.strOf d == 0)) &&
  (r.strOf 0 == 0 || r.elem == 0) && describedGood r && r.base.toNat % esz r.elem == 0 && permGood r &&
  decide (r.nwin < r.rank) && (r.nwin == 0 || permIdentity r) && windowsGood r

/-- RECORD at a record (R335). -/
def recordRaise (a : W64) : Raise := { Raise.plain cRECORD with aux1 := a }

/-! ### Use at issue (R189) -/

/-- The record-cache entry of an address. -/
def cachedRecord (s : State) (w : Who) (a : W64) : Option RcEntry :=
  s.rcache.find? fun e => e.cluster == clusterOf w.core && e.tag == w.ctx.asid && e.addr == a

/-- A cluster's record cache with an entry; it holds 256. -/
def cacheRecord (s : State) (w : Who) (a : W64) (ws : List W32) : State :=
  let e : RcEntry := ⟨clusterOf w.core, w.ctx.asid, a, ws⟩
  let rest := s.rcache.filter fun x => !(x.cluster == e.cluster && x.tag == e.tag && x.addr == e.addr)
  let mine := (rest.filter fun x => x.cluster == e.cluster).take 255
  { s with rcache := e :: mine ++ rest.filter fun x => x.cluster != e.cluster }

/-- The words of a record, from the cache or from memory. An entry that could serve may have been dropped. -/
def recordWords (s : State) (w : Who) (pc : W64) (a : W64) : MemRes (List W32) × State :=
  let fromMem (s : State) : MemRes (List W32) × State :=
    match readWordsAt s w ⟨⟨0, 0, 0, none, none⟩, true, false⟩ pc a.toNat 32 with
    | (.ok ws, s) => (.ok ws, cacheRecord s w a ws)
    | r => r
  match cachedRecord s w a with
  | some e => if Config.recHit s.freeCtr then (.ok e.words, s.useFree 1) else fromMem (s.useFree 1)
  | none => fromMem s

/-- A record as an instruction uses it: read and checked. -/
def useRecord (s : State) (w : Who) (pc : W64) (a : W64) : MemRes ShapeRec × State :=
  if a.toNat % 128 ≠ 0 then (.raise (.at cALIGN 0 a), s)
  else match recordWords s w pc a with
    | (.wait, s) => (.wait, s)
    | (.raise r, s) => (.raise r, s)
    | (.ok ws, s) => match parseRecord ws with
      | some r => if recordGood r then (.ok r, s) else (.raise (recordRaise a), s)
      | none => (.raise (recordRaise a), s)

/-! ### Boxes and coordinates (R187, R188, R190, R191) -/

/-- Four 16-bit naturals of a double. -/
def halves (x : W64) : List Nat := (List.range 4).map fun k => bitsOf x.toNat (16 * k + 15) (16 * k)

/-- The sizes of a box, dimension 4 whole; the box origins. -/
def boxSizes (r : ShapeRec) (sz : W64) : List Nat := halves sz ++ [r.extOf 4]
def boxOrigins (org : W64) : List Nat := halves org ++ [0]

/-- The product of a list. -/
def prod (l : List Nat) : Nat := l.foldl (· * ·) 1

/-- Elements of a box; a window view has only columns and rows. -/
def boxCount (r : ShapeRec) (sz : W64) : Nat :=
  if r.nwin = 0 then prod (boxSizes r sz) else (halves sz).getD 0 1 * (halves sz).getD 1 1

/-- Splits a number by sizes, innermost first. -/
def splitBy (f : Nat) : List Nat → List Nat
  | [] => []
  | n :: t => f % n :: splitBy (f / n) t

/-- The tile coordinate of the element at dense offset f of a box (R191): t0 to t4. -/
def tileCoord (r : ShapeRec) (sizes : List Nat) (f : Nat) : List Nat :=
  let parts := splitBy f ((List.range 5).map fun k => sizes.getD (r.permOf k) 1)
  (List.range 5).map fun d => match (List.range 5).find? fun k => r.permOf k == d with
    | some k => parts.getD k 0
    | none => 0

/-- The tensor coordinate of a column and a row of a window view (R188). -/
def viewCoord (r : ShapeRec) (col row : Nat) : List Int :=
  let kk (j : Nat) : Nat := (r.winOf j).1
  let c := splitBy col [r.extOf 0, kk 1, kk 2, kk 3]
  let o := splitBy row ([1, 2, 3].map fun j => (r.outOf j).toNat)
  let u := row / prod ([1, 2, 3].map fun j => (r.outOf j).toNat)
  let rest := splitBy u (((List.range 5).drop (r.nwin + 1)).map r.extOf)
  (List.range 5).map fun d =>
    if d = 0 then (c.getD 0 0 : Int)
    else if d ≤ r.nwin then
      let (_, st, di, pad) := r.winOf d
      (o.getD (d - 1) 0 : Int) * st + (c.getD d 0 : Int) * di - pad
    else (rest.getD (d - r.nwin - 1) 0 : Int)

/-- The tensor coordinate of the element at dense offset f of a box. -/
def elemCoord (r : ShapeRec) (org sz : W64) (f : Nat) : List Int :=
  if r.nwin = 0 then
    let t := tileCoord r (boxSizes r sz) f
    (List.range 5).map fun d => ((boxOrigins org).getD d 0 + t.getD d 0 : Nat)
  else
    let n0 := (halves sz).getD 0 1
    viewCoord r ((halves org).getD 0 0 + f % n0) ((halves org).getD 1 0 + f / n0)

/-- A coordinate is in bounds; a coordinate clamped. -/
def inBounds (r : ShapeRec) (i : List Int) : Bool :=
  (List.range 5).all fun d => decide (0 ≤ i.getD d 0 ∧ i.getD d 0 < r.extOf d)
def clampCoord (r : ShapeRec) (i : List Int) : List Int :=
  (List.range 5).map fun d => max 0 (min (i.getD d 0) ((r.extOf d : Int) - 1))

/-- The outer part of an element's address: BASE and the strides of dimensions 1 to 4. -/
def outerAddr (r : ShapeRec) (i : List Int) : Int :=
  (r.base.toNat : Int) + 4 * ([1, 2, 3, 4].foldl (fun a d => a + r.strOf d * i.getD d 0) 0)

/-- The byte address of an element with ELEM 0 to 2 (R187). -/
def elemAddr (r : ShapeRec) (i : List Int) : Nat :=
  let inner : Int := if r.strOf 0 = 0 then (esz r.elem : Int) * i.getD 0 0 else 4 * r.strOf 0 * i.getD 0 0
  ((outerAddr r i + inner) % (2 ^ 56 : Nat)).toNat

/-- The address of the block of an element with ELEM 3 or 4, and the element's place in it (R84, R187). -/
def elemBlock (r : ShapeRec) (i : List Int) : Nat × Nat :=
  let n := (i.getD 0 0).toNat
  (((outerAddr r i + 64 * (n / r.epb : Nat)) % (2 ^ 56 : Nat)).toNat, n % r.epb)

/-- The bytes of scratchpad that a box takes (R191). -/
def boxBytes (r : ShapeRec) (sz : W64) : Nat := esz r.elem * boxCount r sz

/-- The column count and row count of a window view. -/
def viewCols (r : ShapeRec) : Nat := r.extOf 0 * (r.winOf 1).1 * (r.winOf 2).1 * (r.winOf 3).1
def viewRows (r : ShapeRec) : Nat :=
  prod ([1, 2, 3].map fun j => (r.outOf j).toNat) * prod (((List.range 5).drop (r.nwin + 1)).map r.extOf)

end Sys2Proof.Machine
end

