-- ==== Sys2Proof/Machine/Engine.lean ====
section
/-! DEFINITION. What engines, scratchpad stores and matrix operations share: scratchpad hazards, LDP and STP, and device-level accesses
of commands (spec/08_scratchpad_and_copies.md R182, R183, R193, R195; spec/09_matrix_units.md R202, R204, R214). -/

namespace Sys2Proof.Machine

/-! ### Scratchpad read by the matrix unit -/

/-- Tapered types read their operands from scratchpad. -/
def taperedTy (t : MTy) : Bool :=
  match t with
  | .t8 => true
  | .t6 => true
  | _ => false

/-- Bytes of an element of a Hadamard tile. -/
def hadEsz (t : HTy) : Nat :=
  match t with
  | .f32 => 4
  | _ => 2

/-- The physical ranges of n bytes at a scratchpad address, as a team on a core sees them. -/
def padRanges (s : State) (team core : Nat) (p : W32) (n : Nat) : List (Nat × Nat) :=
  match spadView s team core p n with
  | some v => v.ranges (spadOff p) n
  | none => []

/-- The scratchpad bytes that an operation of a group reads or rewrites. -/
def mopRanges (s : State) (G : Group) (m : MOp) : List (Nat × Nat) :=
  let r (p : W32) (n : Nat) := padRanges s G.bind.team G.loc.coreId p n
  match m.kind with
  | .mmq ty _ _ _ addrs _ => if taperedTy ty then r (addrs.setWidth 32) 512 ++ r ((addrs >>> 32).setWidth 32) 512 else []
  | .had ty a rows npts => r a (rows * npts * hadEsz ty)

/-- Some range of a list meets some range of another. -/
def listsMeet (xs ys : List (Nat × Nat)) : Bool := ys.any fun y => anyMeets xs y.1 y.2

/-- A group with its operations changed. -/
def Group.mapOps (G : Group) (f : MOp → MOp) : Group := { G with eng := { G.eng with mops := G.eng.mops.map f } }

/-- A group whose operations in flight read bytes that are written: what those write is undefined (R204, R214). -/
def Group.spoilFlight (s : State) (rs : List (Nat × Nat)) (G : Group) : Group :=
  if G.eng.mops.all (fun m => m.st != .flight) then G
  else G.mapOps fun m =>
    if m.st == .flight && listsMeet (mopRanges s G m) rs then { m with spoiled := true } else m

/-- Bytes are written that operations in flight of some group read. -/
def spoilReaders (s : State) (rs : List (Nat × Nat)) : State := { s with groups := s.groups.map (Group.spoilFlight s rs) }

/-- The same for the operations of every group but one, whose own are ordered (R206). -/
def spoilOthers (s : State) (g : Nat) (rs : List (Nat × Nat)) : State :=
  { s with groups := s.groups.mapIdx fun i G => if i = g then G else G.spoilFlight s rs }

/-- Bytes of scratchpad made undefined. -/
def dropRanges (s : State) (rs : List (Nat × Nat)) : State :=
  { s with spad := rs.foldl (fun m r => cellDrop m r.1 (r.2 - r.1)) s.spad }

/-- A Hadamard transform of a group meets ranges. -/
def hadMeets (s : State) (G : Group) (rs : List (Nat × Nat)) (m : MOp) : Bool :=
  match m.kind with
  | .had _ _ _ _ => listsMeet (mopRanges s G m) rs
  | _ => false

/-- Some Hadamard transform, of whatever group, that no MWAIT has covered meets ranges (R214). -/
def underHad (s : State) (rs : List (Nat × Nat)) : Bool := s.groups.any fun G => G.eng.mops.any (hadMeets s G rs)

/-! ### LDP and STP (R182) -/

/-- A lane of a scratchpad access: its address, and its place or cause. -/
structure PadAcc where
  lane : Nat
  p : W32
  view : Except Cause SpadView

/-- The accesses of the active lanes to words. -/
def LaneIn.padAccs (x : LaneIn) (addr : Nat → W32) : List PadAcc :=
  x.lanes.map fun i => ⟨i, addr i, spadCheck x.s x.G.bind.team x.G.loc.coreId (addr i) 4 4⟩

/-- The first cause of R172 that some lane meets, in the lanes that meet it. -/
def padRaise (l : List PadAcc) : Option Raise :=
  let meets (c : Cause) : List (Nat × Nat) := l.filterMap fun a => match a.view with
    | .error d => if d = c then some (a.lane, a.p.toNat) else none
    | .ok _ => none
  if meets cALIGN ≠ [] then some (laneRaise cALIGN 0 (meets cALIGN))
  else if meets cDEED ≠ [] then some (laneRaise cDEED 0 (meets cDEED))
  else none

/-- The physical places of accesses. -/
def padPlaces (l : List PadAcc) : List (Nat × Nat) :=
  l.filterMap fun a => match a.view with
    | .ok v => some (a.lane, v.addr (spadOff a.p))
    | .error _ => none

/-- The first number of the undefined values that scratchpad reads of a lane instruction take. -/
def padFree : Nat := 192

def ldpBody (x : LaneIn) : LRes :=
  let accs := x.padAccs fun i => (x.a.toList.getD i 0 + x.b.toList.getD i 0).setWidth 32
  match padRaise accs with
  | some r => .trap x.s r
  | none =>
    let vals := (padPlaces accs).map fun p =>
      let under := underHad x.s [(p.2, p.2 + 4)]
      (p.1, zext64 (if under then (freeAt x.s (padFree + p.1)).setWidth 32 else spadWord x.s (padFree + p.1) p.2))
    x.finish x.s fun G => x.putDest G (byLane vals)

/-- A word of scratchpad written. -/
def padPutWord (s : State) (a : Nat) (x : W32) : State :=
  ((leBytes 4 x.toNat).zipIdx).foldl (fun s p => spadPut s (a + p.2) p.1) s

/-- What a store to ranges does to operations: transforms of them that no MWAIT has covered give undefined rows, and readers in flight
give undefined results (R204, R214). -/
def padHazard (s : State) (rs : List (Nat × Nat)) : State :=
  let hads := s.groups.flatMap fun G => (G.eng.mops.filter fun m => m.st != .flight && hadMeets s G rs m).map (mopRanges s G)
  spoilReaders (hads.foldl dropRanges s) rs

/-- STP. DESIGN CHOICE (log 94): every group sees the words at once, the strongest order that R183 allows. -/
def stpBody (x : LaneIn) : LRes :=
  let accs := x.padAccs fun i => (x.a.toList.getD i 0).setWidth 32
  match padRaise accs with
  | some r => .trap x.s r
  | none =>
    let places := padPlaces accs
    let rs := places.map fun p => (p.2, p.2 + 4)
    let s := places.foldl (fun s p => padPutWord s p.2 ((x.b.toList.getD p.1 0).setWidth 32)) x.s
    x.finish (loosen (padHazard s rs) x.g .store [] rs) id

def execLdp (f : LForm) (s : State) : Host.Outcome State Fault Refusal := runLane s 0x0a9 f false ldpBody
def execLdpImm (f : LForm) (s : State) : Host.Outcome State Fault Refusal := runLane s 0x0a9 f false ldpBody
def execStp (f : LForm) (s : State) : Host.Outcome State Fault Refusal := runLane s 0x0aa f false stpBody

/-! ### Accesses of commands (R193, R195, R288) -/

/-- What an access of a command gives. -/
inductive EngRes (α : Type) where
  | ok (x : α)
  | fail (c : Cause) (sub : Nat)
  | park

/-- The party of a command or a collective as an accessor. -/
def engWho (s : State) (party : Party) (group core ctxNo : Nat) : Option Who :=
  match s.contexts[ctxNo]? with
  | some c => some ⟨party, group, core, ctxNo, c, none, none⟩
  | none => none

/-- The peer word that an access of a command names: the peer, its context, and the address there (R384). -/
def engPeer (w : Who) (va : Nat) : Option (BitVec 16 × BitVec 16 × Nat) :=
  (peerRange w va).map fun p => (p.pid, p.asid, (p.pbase.toNat + (va - p.base.toNat)) / 4 * 4)

/-- What a peer's answer is to a command: none inside stands for an uncorrectable word. -/
def engAsk (r : PeerRes × State) : EngRes (Option W32) × State := match r with
  | (.val x, s) => (.ok (some x), s)
  | (.ue, s) => (.ok none, s)
  | (.fault c k, s) => (.fail c k, s)
  | (.xalloc, s) => (.fail cXALLOC 0, s)
  | (.wait, s) => (.park, s)

/-- A peer's answer to a write or an update: false says that the word is uncorrectable. -/
def engAsked (r : PeerRes × State) : EngRes Bool × State := match engAsk r with
  | (.ok x, s) => (.ok x.isSome, s)
  | (.fail c k, s) => (.fail c k, s)
  | (.park, s) => (.park, s)

/-- The requests of a party to peers whose answers it has used. -/
def dropAsks (s : State) (p : Party) : State := s.modFab fun f => { f with peers := f.peers.filter fun r => r.party != p }

/-- The read of a place that must wait for its controller, posted. Firmware's own reads are not held up: a delay, and nothing else. -/
def engBusy (s : State) (w : Who) (va : Nat) (l : Loc) : Bool × State :=
  if w.party = .firmware then (false, s) else postWaiting s w [(va / 4, l)]

/-- Reads the word of an address; none inside stands for an uncorrectable word. -/
def engRead (s : State) (w : Who) (va : Nat) : EngRes (Option W32) × State :=
  match engPeer w va with
  | some (pid, asid, a) => engAsk (peerRead s w 0 0 (va / 4) pid asid a)
  | none => match locate s w va .read false with
    | (.raise c k, s) => (.fail c k, s)
    | (.wait, s) => (.park, s)
    | (.ok l, s) => match engBusy s w va l with
      | (true, s) => (.park, s)
      | (false, s) =>
        let (v, s) := devReadLoc s (va / 4) l
        (.ok v, s)

/-- A write that a command may make at an address: its place, born if its tile was absent. -/
def engPlace (s : State) (w : Who) (va : Nat) : EngRes Loc × State :=
  match locate s w va .write false with
  | (.raise c k, s) => (.fail c k, s)
  | (.wait, s) => (.park, s)
  | (.ok l, s) => match readyWrite s w va l with
    | (.ok l, s) => (.ok l, s)
    | (.xalloc _, s) => (.fail cXALLOC 0, s)
    | (.raise c k, s) => (.fail c k, s)
    | (.wait, s) => (.park, s)

/-- The word of a place that is to be written read first: it may have to wait for its controller. -/
def engOld (s : State) (w : Who) (va : Nat) : EngRes (Loc × Option W32) × State :=
  match engPlace s w va with
  | (.fail c k, s) => (.fail c k, s)
  | (.park, s) => (.park, s)
  | (.ok l, s) => match engBusy s w va l with
    | (true, s) => (.park, s)
    | (false, s) =>
      let (v, s) := devReadLoc s (va / 4) l
      (.ok (l, v), s)

/-- Writes bytes of the word of an address; false says that a partial write met an uncorrectable word. clear: the write clears poison all
the same, as a SCAT does (R322). DEDUCED (log 106): bytes of such a word that it does not write are undefined then. -/
def engWrite (s : State) (w : Who) (clear : Bool) (va : Nat) (en : BitVec 4) (x : W32) : EngRes Bool × State :=
  match engPeer w va with
  | some (pid, asid, a) => match engAsked (peerWrite s w 0 0 (va / 4) pid asid a en x) with
    | (.ok false, s) =>
      if clear then
        engAsked (peerWrite (s.useFree 1) w 0 0 (va / 4) pid asid a 0xF#4 (mergeBytes ((freeAt s 0).setWidth 32) x en))
      else (.ok false, s)
    | r => r
  | none => if en = 0xF#4 then
    match engPlace s w va with
    | (.fail c k, s) => (.fail c k, s)
    | (.park, s) => (.park, s)
    | (.ok l, s) => (.ok true, devWriteLoc s w.ctxNo (va / 4) l en x)
  else match engOld s w va with
    | (.fail c k, s) => (.fail c k, s)
    | (.park, s) => (.park, s)
    | (.ok (l, some y), s) => (.ok true, devWriteLoc s w.ctxNo (va / 4) l 0xF#4 (mergeBytes y x en))
    | (.ok (l, none), s) =>
      if clear then
        (.ok true, (devWriteLoc s w.ctxNo (va / 4) l 0xF#4 (mergeBytes ((freeAt s 0).setWidth 32) x en)).useFree 1)
      else (.ok false, s)

/-- An operand added to a word indivisibly at device scope, as .f32 or .i32; false says that the word is uncorrectable. -/
def engUpdate (s : State) (w : Who) (va : Nat) (f32 : Bool) (x : W32) : EngRes Bool × State :=
  match engPeer w va with
  | some (pid, asid, a) =>
    engAsked (if f32 then peerFAdd s w 0 0 (va / 4) pid asid a x else peerAtomic s w 0 0 (va / 4) pid asid a 0 x 0)
  | none => match engOld s w va with
    | (.fail c k, s) => (.fail c k, s)
    | (.park, s) => (.park, s)
    | (.ok (l, some v), s) => (.ok true, devWriteLoc s w.ctxNo (va / 4) l 0xF#4 (if f32 then f32Add v x else v + x))
    | (.ok (_, none), s) => (.ok false, s)

/-! ### Commands -/

/-- A command of a copy engine. -/
def CmdKind.isCopy (k : CmdKind) : Bool :=
  match k with
  | .copyLd _ _ _ => true
  | .copySt _ _ _ => true
  | .accst _ _ _ _ _ _ => true
  | _ => false

/-- Commands that a core's copy engine, or a cluster's clearing engine, holds. -/
def copiesHeld (s : State) (core : Nat) : Nat :=
  (s.cmds.filter fun c => !c.ended && c.core == core && c.kind.isCopy).length
def clearingsHeld (s : State) (cluster : Nat) : Nat :=
  (s.cmds.filter fun c => !c.ended && clusterOf c.core == cluster && !c.kind.isCopy).length

/-- The state with a command changed. -/
def State.modCmd (s : State) (n : Nat) (f : Cmd → Cmd) : State := { s with cmds := s.cmds.modify n f }

/-- A command is done with an element: it has used the answers of peers to it. -/
def unitDone (s : State) (n : Nat) : State := if s.fab.peers.isEmpty then s else dropAsks (dropAsks s (.copy n)) (.clearing n)

/-- Failures recorded in the part so far. -/
def failCount (s : State) : Nat := (s.cmds.filter fun c => c.fail.isSome).length

/-- A command with a failure; only the first is kept (R195). -/
def noteFail (s : State) (n : Nat) (c : Cause) (sub addr pos : Nat) : State :=
  let k := failCount s
  s.modCmd n fun m => match m.fail with
    | some _ => m
    | none => { m with fail := some ⟨c, sub, BitVec.ofNat 64 addr, pos, k⟩ }

/-- A command that has failed and stops. -/
def stopFail (s : State) (n : Nat) (c : Cause) (sub addr pos : Nat) : State :=
  (noteFail s n c sub addr pos).modCmd n fun m => { m with ended := true }

/-- Appends a command to a group's open batch. -/
def queueCmd (s : State) (g : Nat) (G : Group) (k : CmdKind) (rec_ : W64) (r : ShapeRec) : State :=
  { s with cmds := s.cmds ++
      [⟨g, G.bind.ctx, G.loc.coreId, k, rec_, r, G.eng.batchCtr, G.sc.scout.toNat, 0, [], [], none, none, false, none⟩] }

/-- Appends a command that writes scratchpad ranges. -/
def queueWriter (s : State) (g : Nat) (G : Group) (k : CmdKind) (rec_ : W64) (r : ShapeRec) (rs : List (Nat × Nat)) : State :=
  loosen (spoilReaders (queueCmd s g G k rec_ r) rs) g (.cmd s.cmds.length) [] rs

end Sys2Proof.Machine
end

