-- ==== Sys2Proof/Machine/Copy.lean ====
section
/-! DEFINITION. Copies: their issue, and what the copy engine does with a copy or an ACCST store
(spec/08_scratchpad_and_copies.md R190 to R196; spec/04_number_formats.md R82 to R85; spec/09_matrix_units.md R218, R219). -/

namespace Sys2Proof.Machine

/-! ### Issue (R190 to R192) -/

/-- A box in a window view that the view does not hold. -/
def viewBad (r : ShapeRec) (org sz : W64) : Bool :=
  let o (k : Nat) : Nat := (halves org).getD k 0
  let n (k : Nat) : Nat := (halves sz).getD k 0
  decide (0 < r.nwin) &&
    (decide (viewCols r < o 0 + n 0) || decide (viewRows r < o 1 + n 1) || o 2 != 0 || n 2 != 1 || o 3 != 0 || n 3 != 1)

/-- A box that the block rules refuse (R192). -/
def blockBad (r : ShapeRec) (store : Bool) (p : W32) (org sz : W64) : Bool :=
  let o := (halves org).getD 0 0
  let n := (halves sz).getD 0 0
  r.described &&
    (o % 16 != 0 || n % 16 != 0 || p.toNat % 16 != 0 ||
      (store && (o % r.epb != 0 || (n % r.epb != 0 && o + n != r.extOf 0))))

/-- The issue of a copy. -/
def cpyIssue (s : State) (p r b : SReg) (store : Bool) : Host.Outcome State Fault Refusal :=
  runScalar s fun g G =>
    let P := G.sreg p
    let org := G.sreg b
    let sz := G.sreg (b + 1)
    if b = 63#6 ∨ 2 ^ 32 ≤ P.toNat ∨ (halves sz).contains 0 = true then .trap s (.plain cILL)
    else match whoScalar s g G with
      | none => .wait s
      | some w =>
        match useRecord s w G.sc.spc (G.sreg r) with
        | (.wait, s) => .wait s
        | (.raise x, s) => .trap s x
        | (.ok rc, s) =>
          let pad : W32 := P.setWidth 32
          if viewBad rc org sz || blockBad rc store pad org sz || (store && decide (0 < rc.nwin)) then .trap s (.plain cILL)
          else match spadCheck s G.bind.team G.loc.coreId pad (boxBytes rc sz) (esz rc.elem) with
            | .error c => .trap s (.at c 0 P)
            | .ok v =>
              if 32 ≤ copiesHeld s G.loc.coreId then .wait s
              else if store then .done (queueCmd s g G (.copySt pad org sz) (G.sreg r) rc) G.nextPc
              else .done (queueWriter s g G (.copyLd pad org sz) (G.sreg r) rc (v.ranges (spadOff pad) (boxBytes rc sz))) G.nextPc

def execCpyLd (p r b : SReg) (s : State) : Host.Outcome State Fault Refusal := cpyIssue s p r b false
def execCpySt (p r b : SReg) (s : State) : Host.Outcome State Fault Refusal := cpyIssue s p r b true

/-! ### Moving elements -/

/-- What the engine does at one element: goes on, parks at it, or stops the command. -/
inductive UnitRes where
  | next (s : State)
  | park (s : State)
  | stop (s : State)

/-- A command goes on from an element. -/
def Cmd.onto (f : Nat) (ended : Bool) (m : Cmd) : Cmd := { m with next := f, early := m.early.filter (f ≤ ·), ended := ended }

/-- Works through elements from f on, at most as many as are given and past those of a list; the command ends after element total − 1. -/
def runUnits (step : State → Nat → UnitRes) (n total : Nat) (moved : List Nat) (s : State) (f : Nat) : Nat → State
  | 0 => s.modCmd n (Cmd.onto f (decide (total ≤ f)))
  | k + 1 =>
    if moved.contains f then runUnits step n total moved s (f + 1) k
    else match step s f with
      | .next s => runUnits step n total moved (unitDone s n) (f + 1) k
      | .park s => s.modCmd n (Cmd.onto f false)
      | .stop s => s

/-- Elements from f on, as many as are given, can all be moved now without a failure. -/
def unitsGo (step : State → Nat → UnitRes) (s : State) (f : Nat) : Nat → Bool
  | 0 => true
  | k + 1 => match step s f with
    | .next s => unitsGo step s (f + 1) k
    | _ => false

/-- Elements of a command moved ahead of its next one (R269), as many as are given: those that stand behind elements none of which stops the
command now (R195). -/
def aheadUnits (step : State → Nat → UnitRes) (n total from_ : Nat) (moved : List Nat) (s : State) (f : Nat) : Nat → State
  | 0 => s
  | k + 1 =>
    if moved.contains f ∨ total ≤ f ∨ unitsGo step s from_ (f - from_) = false then s
    else match step s f with
      | .next s => aheadUnits step n total from_ (f :: moved) ((unitDone s n).modCmd n fun m => { m with early := f :: m.early }) (f + 1) k
      | _ => s

/-- Some elements of a command: from its next one on, or from one ahead of it. -/
def someUnits (step : State → Nat → UnitRes) (n total : Nat) (moved : List Nat) (s : State) (from_ ahead k : Nat) : State :=
  if ahead = 0 then runUnits step n total moved s from_ (min k (total - from_)) else aheadUnits step n total from_ moved s (from_ + ahead) k

/-- The result of a memory access at an element. -/
def unitOf {α : Type} (n va pos : Nat) (r : EngRes α × State) (k : α → State → UnitRes) : UnitRes :=
  match r with
  | (.park, s) => .park s
  | (.fail c sub, s) => .stop (stopFail s n c sub va pos)
  | (.ok x, s) => k x s

/-- A byte of memory by a command. -/
def engByte (s : State) (w : Who) (va : Nat) : EngRes (Option Byte) × State :=
  match engRead s w va with
  | (.ok (some x), s) => (.ok (some ((x >>> (8 * (va % 4))).setWidth 8)), s)
  | (.ok none, s) => (.ok none, s)
  | (.fail c k, s) => (.fail c k, s)
  | (.park, s) => (.park, s)

/-- Scratchpad bytes that a command writes with the scale byte of their granule (R174). -/
def padWrite (s : State) (v : SpadView) (off : Nat) (bs : List Byte) (scale : Byte) : State :=
  scalePut (spadPutBytes s v off bs) (v.scaleAddr off) scale

/-- The FORMAT byte of ELEM 3 and 4 (R82). -/
def formatByte (elem : Nat) : Byte := if elem = 3 then 1 else 2

/-- A block header is good for a record (R85). -/
def headerGood (elem : Nat) (fmt scale : Byte) : Bool :=
  fmt == formatByte elem && decide (-64 ≤ scale.toInt ∧ scale.toInt ≤ 63)

/-- Reads the code of element j of a block, checking its header: the code with SCALE, none for an uncorrectable word; bad for FMT. -/
inductive CodeRes where
  | code (c scale : Byte)
  | ue (va : Nat)
  | bad
  deriving DecidableEq, Repr

/-- The bytes of the payload that hold an element: first byte, and the shift in it. -/
def codePlace (elem j : Nat) : Nat × Nat := if elem = 3 then (2 + j, 0) else (2 + 6 * j / 8, 6 * j % 8)

/-- A code read from its block (R83, R85). -/
def engCode (s : State) (w : Who) (elem blk j : Nat) : EngRes CodeRes × State :=
  match engRead s w blk with
  | (.park, s) => (.park, s)
  | (.fail c k, s) => (.fail c k, s)
  | (.ok none, s) => (.ok (.ue blk), s)
  | (.ok (some h), s) =>
    let scale : Byte := (h >>> 8).setWidth 8
    if !headerGood elem (h.setWidth 8) scale then (.ok .bad, s)
    else
      let (o, sh) := codePlace elem j
      match engByte s w (blk + o) with
      | (.park, s) => (.park, s)
      | (.fail c k, s) => (.fail c k, s)
      | (.ok none, s) => (.ok (.ue (blk + o)), s)
      | (.ok (some b0), s) =>
        if elem = 3 then (.ok (.code b0 scale), s)
        else match engByte s w (blk + min (o + 1) 63) with
          | (.park, s) => (.park, s)
          | (.fail c k, s) => (.fail c k, s)
          | (.ok none, s) => if sh ≤ 2 then (.ok (.code ((b0 >>> sh) &&& 0x3F) scale), s) else (.ok (.ue (blk + o + 1)), s)
          | (.ok (some b1), s) =>
            let x : W32 := b1.setWidth 32 <<< 8 ||| b0.setWidth 32
            (.ok (.code ((x >>> sh).setWidth 8 &&& 0x3F) scale), s)

/-- The coordinate of an element after the bounds rule: none to skip it, or a failure. -/
inductive Bounds where
  | at (i : List Int)
  | skip
  | fail
  deriving DecidableEq, Repr

/-- The bounds rule of R190. -/
def boundsOf (r : ShapeRec) (store : Bool) (i : List Int) : Bounds :=
  if inBounds r i then .at i else if !r.clamp then .fail else if store then .skip else .at (clampCoord r i)

/-- The address that a failure at a coordinate reports. -/
def coordAddr (r : ShapeRec) (i : List Int) : Nat :=
  if r.described then ((outerAddr r i + 64 * (i.getD 0 0 / (r.epb : Int))) % (2 ^ 56 : Nat)).toNat else elemAddr r i

/-- A loaded element of a described region written to scratchpad. -/
def ldCode (s : State) (n f va : Nat) (v : SpadView) (off : Nat) (r : CodeRes) : UnitRes :=
  match r with
  | .code c scale => .next (padWrite s v off [c] scale)
  | .ue a => .next (noteFail s n cUE 0 (a / 4 * 4) f)
  | .bad => .stop (stopFail s n cFMT 0 va f)

/-- The bytes of an element in its word. -/
def elemBytes (x : W32) (va size : Nat) : List Byte := leBytes size (x >>> (8 * (va % 4))).toNat

/-- One element of CPY.ld. -/
def ldUnit (n : Nat) (c : Cmd) (team : Nat) (w : Who) (p : W32) (org sz : W64) (s : State) (f : Nat) : UnitRes :=
  let r := c.rcd
  let i := elemCoord r org sz f
  let e := esz r.elem
  let pa : W32 := p + BitVec.ofNat 32 (e * f)
  match boundsOf r false i with
  | .skip => .next s
  | .fail => .stop (stopFail s n cRECORD 0 (coordAddr r i) f)
  | .at i =>
    match spadView s team c.core pa e with
    | none => .stop (stopFail s n cDEED 0 pa.toNat f)
    | some v =>
      if r.described then
        let (blk, j) := elemBlock r i
        unitOf n blk f (engCode s w r.elem blk j) fun x s => ldCode s n f blk v (spadOff pa) x
      else
        let va := elemAddr r i
        unitOf n va f (engRead s w va) fun x s => match x with
          | none => .next (noteFail s n cUE 0 (va / 4 * 4) f)
          | some y => .next (padWrite s v (spadOff pa) (elemBytes y va e) 0)

/-- A stored element of 4, 2 or 1 bytes; clear as in engWrite. -/
def stElem (n f : Nat) (w : Who) (clear : Bool) (s : State) (va e : Nat) (x : W32) : UnitRes :=
  let (en, d) := storeWord va e (zext64 x) (va / 4)
  unitOf n va f (engWrite s w clear va en d) fun ok s => .next (if ok then s else noteFail s n cUE 0 (va / 4 * 4) f)

/-- Writes words from an address on. -/
def stWords (n f : Nat) (w : Who) (s : State) (va : Nat) : List W32 → UnitRes
  | [] => .next s
  | x :: t => unitOf n va f (engWrite s w false va 0xF#4 x) fun _ s => stWords n f w s (va + 4) t

/-- The 16 words of a block (R82, R83). -/
def blockWords (elem : Nat) (scale : Byte) (codes : List Byte) : List W32 :=
  let width := if elem = 3 then 8 else 6
  let payload := (codes.zipIdx).foldl (fun x p => x + p.1.toNat % 2 ^ width * 2 ^ (width * p.2)) 0
  let all := (formatByte elem).toNat + 256 * scale.toNat + 65536 * payload
  (List.range 16).map fun k => BitVec.ofNat 32 (all / 2 ^ (32 * k))

/-- The elements of a block at a coordinate that are in bounds, of cnt. -/
def blockIn (r : ShapeRec) (i : List Int) (cnt : Nat) : Nat := min cnt (r.extOf 0 - (i.getD 0 0).toNat)

/-- Stores a block, then applies the bounds rule to its elements out of bounds. -/
def stBlock (n f : Nat) (w : Who) (r : ShapeRec) (s : State) (i : List Int) (cnt : Nat) (scale : Byte) (codes : List Byte) : UnitRes :=
  let k := blockIn r i cnt
  match stWords n f w s (elemBlock r i).1 (blockWords r.elem scale (codes.take k)) with
  | .next s => if k < cnt ∧ r.clamp = false then .stop (stopFail s n cRECORD 0 (coordAddr r i) (f + k)) else .next s
  | x => x

/-- One element, or one block, of CPY.st. -/
def stUnit (n : Nat) (c : Cmd) (team : Nat) (w : Who) (p : W32) (org sz : W64) (s : State) (f : Nat) : UnitRes :=
  let r := c.rcd
  let i := elemCoord r org sz f
  let e := esz r.elem
  let pa : W32 := p + BitVec.ofNat 32 (e * f)
  let t0 := f % (halves sz).getD 0 1
  let cnt := if r.described then min r.epb ((halves sz).getD 0 1 - t0) else 1
  if r.described ∧ t0 % r.epb ≠ 0 then .next s
  else match boundsOf r true i with
    | .skip => .next s
    | .fail => .stop (stopFail s n cRECORD 0 (coordAddr r i) f)
    | .at i =>
      match spadView s team c.core pa (e * cnt) with
      | none => .stop (stopFail s n cDEED 0 pa.toNat f)
      | some v =>
        let off := spadOff pa
        let bs := spadBytes s v 0 off (e * cnt)
        let scales := scaleBytes s v 96 off ((cnt + 15) / 16)
        let s := s.useFree 128
        if r.described then
          let t := scales.headD 0
          if scales.any (· != t) || decide (t.toInt < -64 ∨ 63 < t.toInt) then
            .stop (stopFail s n cFMT 0 (elemBlock r i).1 f)
          else stBlock n f w r s i cnt t bs
        else stElem n f w false s (elemAddr r i) e (BitVec.ofNat 32 (ofLe bs))

/-! ### ACCST stores (R218, R219) -/

/-- The index in row-major order of the accumulator element at flat index f. -/
def accIndex (desc : W64) (f : Nat) : Nat :=
  let w := 16 * 2 ^ bitsOf desc.toNat 9 8
  if desc.getLsbD 10 then f % 16 * w + f / 16 else f

/-- An accumulator element under a conversion that keeps one element apart. -/
def accElem (conv : AccConv) (m : Rnd) (x : W32) : W32 :=
  match conv with
  | .b16 => BitVec.ofNat 32 (toIeee fmtB16 m (decodeIeee fmtF32 x.toNat)).1
  | .h16 => BitVec.ofNat 32 (toIeee fmtH16 m (decodeIeee fmtF32 x.toNat)).1
  | _ => x

/-- A finite value fits a block under a scale (R219). -/
def fitsScale (elem : Nat) (t : Int) (v : FVal) : Bool :=
  match v with
  | .fin _ m e => !magLt ((if elem = 3 then 4096 else 256), 0) (m, e - t)
  | _ => true

/-- The scale of a block under AUTO = 1. -/
def autoScale (elem : Nat) (vs : List FVal) : Int :=
  let some_ := vs.any fun v => match v with
    | .fin _ m _ => m != 0
    | _ => false
  if !some_ then 0
  else match ((List.range 128).map fun (k : Nat) => (k : Int) - 64).find? fun t => vs.all (fitsScale elem t) with
    | some t => t
    | none => 63

/-- The scale and codes of a block of accumulator elements. -/
def accBlock (elem : Nat) (m : Rnd) (desc : W64) (xs : List W32) : Byte × List Byte :=
  let vs := xs.map fun x => decodeIeee fmtF32 x.toNat
  let t : Int := if desc.getLsbD 11 then autoScale elem vs else (desc.extractLsb' 24 8).toInt
  (BitVec.ofInt 8 t, vs.map fun v => BitVec.ofNat 8 (toTaper (if elem = 3 then 8 else 6) m (scaleDown v t)).1)

/-- One element, or one block, of an ACCST store. -/
def accUnit (n : Nat) (c : Cmd) (w : Who) (conv : AccConv) (m : Rnd) (desc org sz : W64) (data : List W32) (s : State) (f : Nat) :
    UnitRes :=
  let r := c.rcd
  let i := elemCoord r org sz f
  let t0 := f % (halves sz).getD 0 1
  let cnt := if r.described then min r.epb ((halves sz).getD 0 1 - t0) else 1
  let x (k : Nat) : W32 := data.getD (accIndex desc (f + k)) 0
  if r.described ∧ t0 % r.epb ≠ 0 then .next s
  else match boundsOf r true i with
    | .skip => .next s
    | .fail => .stop (stopFail s n cRECORD 0 (coordAddr r i) f)
    | .at i =>
      if r.described then
        let (t, cs) := accBlock r.elem m desc ((List.range (blockIn r i cnt)).map x)
        stBlock n f w r s i cnt t cs
      else stElem n f w false s (elemAddr r i) (esz r.elem) (accElem conv m (x 0))

/-! ### Completion -/

/-- A group's engine commands run: it runs, or it has ended by EXIT (R109, R196). While banks of its team are saved they wait (R361). -/
def cmdsRun (s : State) (G : Group) : Bool :=
  (G.running || (G.status == .exited && G.halt.isNone)) && match s.teamOf G with
    | some t => t.saved.isEmpty
    | none => true

/-- Two commands stand in the queue of one engine: the copy engine of a core, or the clearing engine of a cluster. -/
def Cmd.sameEngine (a b : Cmd) : Bool :=
  a.kind.isCopy == b.kind.isCopy && if a.kind.isCopy then a.core == b.core else clusterOf a.core == clusterOf b.core

/-- How many commands an engine works on at once (R194, R316). -/
def CmdKind.width (k : CmdKind) : Nat := if k.isCopy then 8 else 4

/-- A command is at work. DESIGN CHOICE (log 105): an engine works on the oldest commands of its queue, of those whose groups' commands
run; it starts the commands of one group in order whatever it chooses. -/
def startable (s : State) (n : Nat) (c : Cmd) : Bool :=
  decide (((s.cmds.take n).filter fun m => !m.ended && m.sameEngine c && match s.group? m.group with
    | some G => cmdsRun s G
    | none => false).length < c.kind.width)

/-- The copy engine works a command to its end, its failure, or a pending fault, over at most k elements from its next one or one ahead on. -/
def copyRun (s : State) (n : Nat) (c : Cmd) (team k ahead : Nat) : State :=
  match engWho s (.copy n) c.group c.core c.ctx with
  | none => s
  | some w =>
    let run (step : State → Nat → UnitRes) (sz : W64) : State :=
      someUnits step n (boxCount c.rcd sz) c.early s c.next ahead k
    match c.kind with
    | .copyLd p org sz => run (ldUnit n c team w p org sz) sz
    | .copySt p org sz => run (stUnit n c team w p org sz) sz
    | .accst conv m desc org sz data => run (accUnit n c w conv m desc org sz data) sz
    | _ => s

end Sys2Proof.Machine
end

