-- ==== Sys2Proof/Machine/Matrix.lean ====
section
/-! DEFINITION. The matrix unit: ORF, MMQ, quad meetings, MWAIT, HAD, ACCST, and what an operation computes
(spec/09_matrix_units.md R200 to R222; spec/04_number_formats.md R87). -/

namespace Sys2Proof.Machine

/-! ### Exact sums (R87) -/

/-- A signed magnitude at an exponent not above its own. -/
def termAt (q : Int) (v : FVal) : Int :=
  match v with
  | .fin n m e => sgn n (m * 2 ^ (e - q).toNat)
  | _ => 0

/-- The exponent of a term. -/
def termExp (v : FVal) : Int :=
  match v with
  | .fin _ _ e => e
  | _ => 0

/-- A term is −0. -/
def isNegZero (v : FVal) : Bool :=
  match v with
  | .fin n m _ => n && m == 0
  | _ => false

/-- The exact sum of terms: NaN, infinity, or a value; an exact zero is +0 unless every term is −0. -/
def exactSum (ts : List FVal) : FVal :=
  let infs := ts.filterMap fun t => match t with
    | .inf n => some n
    | _ => none
  if ts.any FVal.isNaN then .nan false
  else match infs with
    | n :: r => if r.all (· == n) then .inf n else .nan false
    | [] =>
      let q := (ts.map termExp).foldl min 0
      signedMag ((ts.map (termAt q)).foldl (· + ·) 0) q (!ts.isEmpty && ts.all isNegZero)

/-- One rounding to FP32 (RNE). -/
def sumF32 (ts : List FVal) : W32 := BitVec.ofNat 32 (toIeee fmtF32 .rne (exactSum ts)).1

/-- A pattern of FP32 as a value. -/
def f32Val (x : W32) : FVal := decodeIeee fmtF32 x.toNat

/-- The Sylvester transform of n values (R213, R214): row u. -/
def sylvester (xs : List FVal) (u : Nat) : List FVal :=
  (xs.zipIdx).map fun p => if popCount (Nat.land u p.2) 8 % 2 = 1 then p.1.negate else p.1

/-! ### Operands (R201, R202) -/

/-- Fields of the operand descriptor (R205). -/
def dQpos (d : W64) : Nat := bitsOf d.toNat 35 34
def dZacc (d : W64) : Bool := d.getLsbD 32
def dKreg (d : W64) : Nat := bitsOf d.toNat 31 24
def dBreg (d : W64) : Nat := bitsOf d.toNat 23 16
def dAreg (d : W64) : Nat := bitsOf d.toNat 15 8
def dCreg (d : W64) : Nat := bitsOf d.toNat 7 0

/-- n registers from one on. -/
def regsFrom (r n : Nat) : List VNum := (List.range n).map fun i => BitVec.ofNat 7 (r + i)

/-- One lane of a register as an engine reads it; k numbers its undefined value. -/
def engReg (s : State) (G : Group) (k : Nat) (r : VNum) (lane : Nat) : W32 :=
  let v := G.vreg r
  if v.st = .unmapped ∨ v.undef.getLsbD lane = true then (freeAt s k).setWidth 32 else v.val.toList.getD lane 0

/-- A half of a fragment register as a value of its type. -/
def fragVal (s : State) (G : Group) (h16 : Bool) (base m lane half : Nat) : FVal :=
  let w := engReg s G (32 * (base + m) + lane) (BitVec.ofNat 7 (base + m)) lane
  decodeIeee (if h16 then fmtH16 else fmtB16) ((w >>> (16 * half)).toNat % 65536)

/-- A tapered element at a place of a tile: its scaled value. k numbers the undefined values of its code, and ks those of the tile's
scales. -/
def taperVal2 (s : State) (t6 : Bool) (v : SpadView) (k ks base i : Nat) : FVal :=
  let c := (spadByte s (k + i) (v.addr (base + i))).toNat
  scaleDown (if t6 then decodeTaper 6 (c % 64) else decodeTaper 8 c)
    (-(scaleByte s (ks + i / 16) (v.scaleAddr (base + i / 16 * 16))).toInt)

/-- The numbers of the undefined values of the codes and the scales of the two tiles of an operation. -/
def tileA : Nat := 4200
def tileB : Nat := 4800
def scaleA : Nat := 5400
def scaleB : Nat := 5500

/-- The A and B elements of one member as functions, decoded: rows by k, and k by columns of its quarter. -/
structure Operands where
  a : Nat → Nat → FVal
  b : Nat → Nat → FVal

/-- The operands of an operation of a group. -/
def operandsOf (s : State) (G : Group) (ty : MTy) (d addrs : W64) : Operands :=
  let h16 := match ty with
    | .h16 => true
    | _ => false
  let t6 := match ty with
    | .t6 => true
    | _ => false
  if taperedTy ty then
    let view (p : W32) : SpadView := (spadView s G.bind.team G.loc.coreId p 512).getD ⟨G.loc.coreId, []⟩
    let pa : W32 := addrs.setWidth 32
    let pb : W32 := (addrs >>> 32).setWidth 32
    ⟨fun i k => taperVal2 s t6 (view pa) tileA scaleA (spadOff pa) (32 * i + k),
     fun k j => taperVal2 s t6 (view pb) tileB scaleB (spadOff pb) (16 * k + j)⟩
  else
    ⟨fun i k => fragVal s G h16 (dAreg d) (k % 8 / 2) (16 * (k / 8) + i) (k % 2),
     fun k j => fragVal s G h16 (dBreg d) (k % 8 / 2) (16 * (k / 8) + j) (k % 2)⟩

/-- k-steps of a type. -/
def kSteps (ty : MTy) : Nat := if taperedTy ty then 2 else 1

/-- One rounded element of a Hadamard transform of a run of k (R213). -/
def hadOne (xs : List FVal) (u : Nat) : FVal := f32Val (sumF32 (sylvester xs u))

/-- The operands as tables over 16 × steps values of k, transformed under HF. Evaluated once. -/
def operandTables (o : Operands) (steps : Nat) (hf : Bool) : List (List FVal) × List (List FVal) :=
  let run (f : Nat → FVal) : List FVal := (List.range steps).flatMap fun t =>
    let xs := (List.range 16).map fun v => f (16 * t + v)
    if hf then (List.range 16).map (hadOne xs) else xs
  ((List.range 16).map fun i => run (o.a i), (List.range 16).map fun j => run fun k => o.b k j)

/-- The first granule of a member's tiles with a scale out of range: its scratchpad address and scale (R202). -/
def badScale (s : State) (G : Group) (ty : MTy) (addrs : W64) : Option (W64 × Byte) :=
  if !taperedTy ty then none
  else
    let tile (p : W32) (ks : Nat) : List (W64 × Byte) := match spadView s G.bind.team G.loc.coreId p 512 with
      | none => []
      | some v => (List.range 32).map fun g =>
        (zext64 p + BitVec.ofNat 64 (16 * g), scaleByte s (ks + g) (v.scaleAddr (spadOff p + 16 * g)))
    (tile (addrs.setWidth 32) scaleA ++ tile ((addrs >>> 32).setWidth 32) scaleB).find? fun x =>
      decide (x.2.toInt < -64 ∨ 63 < x.2.toInt)

/-- A tile of an operation is not open to its group when the operation runs. -/
def tileClosed (s : State) (G : Group) (ty : MTy) (addrs : W64) : Bool :=
  taperedTy ty && [addrs.setWidth 32, (addrs >>> 32).setWidth 32].any fun p =>
    (spadView s G.bind.team G.loc.coreId p 512).isNone

/-! ### One operation (R205, R211) -/

/-- The undefined values that one operation may take. -/
def matrixFree : Nat := 8192

/-- Products of a row of A and a column of B over one k-step. -/
def stepProducts (ra cb : List FVal) (t : Nat) : List FVal :=
  List.zipWith (fun x y => (exactMul x y).val) ((ra.drop (16 * t)).take 16) ((cb.drop (16 * t)).take 16)

/-- One accumulator element over its k-steps from the step t on. -/
def accumulate (ra cb : List FVal) (t : Nat) (acc : W32) : Nat → W32
  | 0 => acc
  | n + 1 => accumulate ra cb (t + 1) (sumF32 (f32Val acc :: stepProducts ra cb t)) n

/-- The row sum or column sum of all products (R211). -/
def checkSum (pairs : List (List FVal × List FVal)) : W32 :=
  sumF32 (pairs.flatMap fun p => List.zipWith (fun x y => (exactMul x y).val) p.1 p.2)

/-- The C registers of a group after an operation: A rows, B columns by block, old values read before. -/
def newC (s : State) (G : Group) (d : W64) (steps : Nat) (ra : List (List FVal)) (cb : List (List (List FVal))) :
    List (VNum × Lanes W32) :=
  (cb.zipIdx).flatMap fun q => (List.range 8).map fun r =>
    let reg := dCreg d + 8 * q.2 + r
    (BitVec.ofNat 7 reg, Vector.ofFn fun l =>
      let i := 8 * (l.val / 16) + r
      let old : W32 := if dZacc d then 0 else engReg s G (32 * reg + l.val) (BitVec.ofNat 7 reg) l.val
      accumulate (ra.getD i []) (q.1.getD (l.val % 16) []) 0 old steps)

/-- The K registers of a group after an operation with checksums. -/
def newK (d : W64) (ra : List (List FVal)) (cb : List (List (List FVal))) : List (VNum × Lanes W32) :=
  (cb.zipIdx).map fun q =>
    (BitVec.ofNat 7 (dKreg d + q.2), Vector.ofFn fun l =>
      if l.val < 16 then checkSum (ra.map fun row => (row, q.1.getD l.val []))
      else checkSum (q.1.map fun col => (ra.getD (l.val - 16) [], col)))

/-- A register as an operation of the matrix unit writes it. -/
def matrixReg (old : VReg) (val : Lanes W32) (t : Nat) : VReg :=
  ⟨if old.st = .unmapped then .mapped else old.st, val, 0, false, t⟩

/-- A group with registers written by an operation. -/
def Group.putAll (G : Group) (t : Nat) (rs : List (VNum × Lanes W32)) : Group :=
  rs.foldl (fun G p => G.putV p.1 (matrixReg (G.vreg p.1) p.2 t)) G

/-- A group with an operation's state changed. -/
def Group.setOp (G : Group) (num : Nat) (f : MOp → MOp) : Group := G.mapOps fun m => if m.num = num then f m else m

/-- The flips that wait for no operation in flight any more are made (R351). -/
def Group.settleFlips (G : Group) : Group :=
  let busy : VNum → Bool := fun r => G.eng.mops.any fun m => m.st == .flight && m.regs.contains r
  let now := G.eng.flips.filter fun f => !busy f.1
  let G := now.foldl (fun G f =>
    let v := G.vreg f.1
    G.putV f.1 { v with val := v.val.setIfInBounds f.2.1 (v.val.toList.getD f.2.1 0 ^^^ f.2.2) }) G
  { G with eng := { G.eng with flips := G.eng.flips.filter fun f => busy f.1 } }

/-- A member of an operation: its quarter, group and operation. -/
structure Part where
  q : Nat
  g : Nat
  op : MOp
  deriving DecidableEq, Repr

/-- What an operation does to one member: it fails, or writes C and K, undefined when spoiled. -/
def finishPart (s0 s : State) (p : Part) (spoiled : Bool) (bad : Option (W64 × Byte)) (cb : List (List (List FVal))) : State :=
  match p.op.kind with
  | .had _ _ _ _ => s
  | .mmq ty ck hf d addrs _ =>
    s.modGroup p.g fun G =>
      let outs := p.op.rc ++ p.op.rk
      let G := match bad with
        | some (a, sc) => (G.spoilRegs outs).setOp p.op.num fun m => { m with st := .failed a sc }
        | none =>
          if spoiled then (G.spoilRegs outs).setOp p.op.num fun m => { m with st := .done }
          else match s0.group? p.g with
            | none => G
            | some G0 =>
              let ra := (operandTables (operandsOf s0 G0 ty d addrs) (kSteps ty) hf).1
              let G := G.putAll s0.tick (newC s0 G0 d (kSteps ty) ra cb ++ if ck then newK d ra cb else [])
              G.setOp p.op.num fun m => { m with st := .done }
      G.settleFlips

/-- Completes an operation of one member, or of four. DESIGN CHOICE (log 103): one with a tile that is not open any more, as after a GIVE
(R179), writes undefined values; no rule reports its DEED. -/
def runMatrix (s : State) (ps : List Part) : State :=
  let spoiled := ps.any fun p => p.op.spoiled || match p.op.kind, s.group? p.g with
    | .mmq ty _ _ _ addrs _, some G => tileClosed s G ty addrs
    | _, _ => false
  let bad := ps.findSome? fun p => match p.op.kind, s.group? p.g with
    | .mmq ty _ _ _ addrs _, some G => badScale s G ty addrs
    | _, _ => none
  let cb := ps.map fun p => match p.op.kind, s.group? p.g with
    | .mmq ty _ hf d addrs _, some G => (operandTables (operandsOf s G ty d addrs) (kSteps ty) hf).2
    | _, _ => []
  (ps.foldl (fun s' p => finishPart s s' p spoiled bad cb) s).useFree matrixFree

/-- The rows of a Hadamard tile transformed (R214). -/
def hadRow (ty : HTy) (row : List Byte) (n : Nat) : List Byte :=
  let e := hadEsz ty
  let fmt := match ty with
    | .f32 => fmtF32
    | .h16 => fmtH16
    | .b16 => fmtB16
  let xs := (List.range n).map fun u => decodeIeee fmt (ofLe ((row.drop (e * u)).take e))
  (List.range n).flatMap fun u => leBytes e (toIeee fmt .rne (exactSum (sylvester xs u))).1

/-- Transforms rows from row r on. -/
def hadRows (s : State) (v : SpadView) (off : Nat) (ty : HTy) (n r : Nat) : Nat → State
  | 0 => s
  | k + 1 =>
    let len := n * hadEsz ty
    let bs := spadBytes s v 0 (off + r * len) len
    hadRows (spadPutBytes (s.useFree len) v (off + r * len) (hadRow ty bs n)) v off ty n (r + 1) k

/-- Completes a Hadamard transform of a group. DESIGN CHOICE (log 103): one whose tile is not open when it runs, as when it has been given away, is
done with nothing written and reports nothing. -/
def runHad (s : State) (g : Nat) (G : Group) (m : MOp) : State :=
  match m.kind with
  | .mmq _ _ _ _ _ _ => s
  | .had ty a rows n =>
    let len := rows * n * hadEsz ty
    let s := match m.spoiled, spadView s G.bind.team G.loc.coreId a len with
      | false, some v =>
        let rs := mopRanges s G m
        loosen (spoilOthers (hadRows s v (spadOff a) ty n 0 rows) g rs) g (.had m.num) [g] rs
      | _, _ => dropRanges s (mopRanges s G m)
    s.modGroup g fun G => G.setOp m.num fun m => { m with st := .done }

/-! ### Issue -/

/-- The register ranges that a descriptor names: A, B, C, K. -/
def descRegs (ty : MTy) (quad ck : Bool) (d : W64) : List VNum × List VNum × List VNum × List VNum :=
  let frag (r : Nat) : List VNum := if taperedTy ty then [] else regsFrom r 4
  (frag (dAreg d), frag (dBreg d), regsFrom (dCreg d) (if quad then 32 else 8),
    if ck then regsFrom (dKreg d) (if quad then 4 else 1) else [])

/-- Two lists share a register. -/
def share (xs ys : List VNum) : Bool := xs.any ys.contains

/-- What makes a descriptor illegal (R205). -/
def descBad (ty : MTy) (quad ck : Bool) (b : SReg) (d : W64) : Bool :=
  let x := d.toNat
  let (ra, rb, rc, rk) := descRegs ty quad ck d
  bitsOf x 63 36 != 0 || bitsOf x 33 33 != 0 || (!quad && dQpos d != 0) || (!ck && dKreg d != 0) ||
  (taperedTy ty && (dBreg d != 0 || dAreg d != 0)) || (!taperedTy ty && b != 0#6) ||
  decide (128 ≤ dKreg d) || decide (128 ≤ dBreg d) || decide (128 ≤ dAreg d) || decide (128 ≤ dCreg d) ||
  dCreg d % 8 != 0 || decide (128 < dCreg d + if quad then 32 else 8) ||
  (!taperedTy ty && (dAreg d % 4 != 0 || dBreg d % 4 != 0)) ||
  (ck && quad && (dKreg d % 4 != 0 || decide (124 < dKreg d))) ||
  share ra rb || share ra rc || share ra rk || share rb rc || share rb rk || share rc rk

/-- Operations in flight of a group. -/
def inFlight (G : Group) : Nat := (G.eng.mops.filter fun m => m.st == .flight).length

/-- Operations in the queue of a quadrant's unit: those of a group that does not run are group state (R221). -/
def quadFlight (s : State) (q : Nat) : Nat :=
  (quadGroups s q).foldl (fun n G => if cmdsRun s G then n + inFlight G else n) 0

/-- The place in a quadrant's order of issue of its next operation (R216). -/
def nextOrd (s : State) (q : Nat) : Nat :=
  (quadGroups s q).foldl (fun n G => G.eng.mops.foldl (fun n m => max n (m.ord + 1)) n) 0

/-- Operations of a group, not yet waited for, whose registers a new one names other than R206 allows. -/
def badOverlap (G : Group) (ab rc rk : List VNum) : List MOp :=
  G.eng.mops.filter fun m =>
    share rk m.regs || share (ab ++ rc) m.rk || share rc (m.ra ++ m.rb) || share ab m.rc

/-- A register whose last writer is a lane instruction that no ORF orders, or none ordered before an earlier operation (R204). -/
def looseReg (G : Group) (r : VNum) : Bool :=
  (G.vreg r).loose && !(G.eng.mops.any fun m => m.st == .flight && (m.rc ++ m.rk).contains r)

/-- Pins the registers of an operation: unmapped ones get rows; rows are found, or the issue waits. -/
def pinRows (s : State) (g : Nat) (regs : List VNum) : RowsRes :=
  match refetchAll s g regs regs with
  | .ok s => match s.group? g with
    | none => .wait s false
    | some G =>
      let fresh := regs.filter fun r => (G.vreg r).st == .unmapped
      match roomForAll s g 0 regs fresh.length with
      | .wait q => .wait s q
      | .ok s => .ok (s.modGroup g fun G =>
          fresh.foldl (fun G r => G.putV r { G.vreg r with st := .mapped, undef := 0xFFFFFFFF#32, stamp := s.tick }) G)
  | r => r

/-- A list of groups is halted: a meeting of halted members is team state and leaves its unit (R163, R209). -/
def anyHalted (s : State) (gs : List Nat) : Bool := gs.any fun g => match s.group? g with
  | some G => G.halt.isSome
  | none => false

/-- The open quad meeting of a quadrant. -/
def openQuad (s : State) (q : Nat) : Option (Nat × QMeet) :=
  (s.qmeets.zipIdx.find? fun p => p.1.quad == q && !p.1.started && !p.1.ended && !anyHalted s (p.1.members.map (·.2.1))).map
    fun p => (p.2, p.1)

/-- The meeting that an MMQ.quad joins or opens; none when it waits (R208). -/
def joinQuad (s : State) (g : Nat) (G : Group) (ty : MTy) (ck sz hf : Bool) (d : W64) : Option (Nat × State) :=
  let mem := (dQpos d, g, G.eng.tokCtr)
  match openQuad s G.loc.quadId with
  | none => some (s.qmeets.length, { s with qmeets := s.qmeets ++ [⟨G.loc.quadId, G.bind.team, ty, ck, sz, hf, [mem], false, false⟩] })
  | some (n, m) =>
    if m.team = G.bind.team ∧ m.ty = ty ∧ m.ck = ck ∧ m.sz = sz ∧ m.hf = hf ∧ (m.members.all fun x => x.1 != dQpos d) = true then
      some (n, { s with qmeets := s.qmeets.modify n fun m => { m with
        members := m.members ++ [mem], started := decide (m.members.length + 1 = 4) } })
    else none

/-- The members of a meeting are issued when its operation starts (R216). -/
def orderQuad (s : State) (n ord : Nat) : State :=
  match s.qmeets[n]? with
  | some m => if m.started then
      m.members.foldl (fun s x => s.modGroup x.2.1 fun G => G.setOp x.2.2 fun o => { o with ord := ord }) s else s
  | none => s

/-- Queues an operation and writes its token. -/
def queueOp (s : State) (g : Nat) (d : SReg) (m : MOp) (hits : List Nat) : State :=
  s.modGroup g fun G =>
    let G := G.spoilOps hits
    let tok : W64 := BitVec.ofNat 64 (G.eng.tokCtr % 256)
    { G with eng := { G.eng with tokCtr := G.eng.tokCtr + 1, mops := G.eng.mops ++ [m] } }.setS d tok

/-- The causes of the two tiles of a tapered operation (R172, R202). -/
def tileRaise (s : State) (G : Group) (ty : MTy) (addrs : W64) : Option Raise :=
  let chk (p : W32) : Option Raise := match spadCheck s G.bind.team G.loc.coreId p 512 16 with
    | .error c => some (.at c 0 (zext64 p))
    | .ok _ => none
  if !taperedTy ty then none
  else match chk (addrs.setWidth 32) with
    | some r => some r
    | none => chk ((addrs >>> 32).setWidth 32)

/-- The UE of the first register of a list whose spill slot cannot be read, else another cause. -/
def slotFault (s : State) (g : Nat) (r : Raise) : List VNum → State × Raise
  | [] => (s, r)
  | x :: t => match s.group? g with
    | none => (s, r)
    | some G =>
      if (G.vreg x).st ≠ .spilled then slotFault s g r t
      else match slotWords s G x with
        | (ws, s) => if lostLanes ws ≠ [] then (s, (refetchRaise G x (lostLanes ws)).first) else slotFault s g r t

/-- The spilled registers of a list refetched for an MMQ, given whether its pins exceed its group's limit. Where that leaves no row for one of
them, none can come free before an MWAIT that stands behind the MMQ: the part goes on to what it finds next, UE or ILL (R120, R205, R222). -/
def refetchMmq (s : State) (g : Nat) (regs : List VNum) (full : Bool) : RowsRes :=
  match refetchEach s g regs with
  | .wait s quad =>
    if full && !quad then
      let (s, r) := slotFault s g (.plain cILL) regs
      .trap s r
    else .wait s quad
  | r => r

/-- MMQ and MMQ.quad. -/
def mmqIssue (s : State) (sd a b : SReg) (ty : MTy) (quad ck sz hf : Bool) : Host.Outcome State Fault Refusal :=
  runScalar s fun g G =>
    let d := G.sreg a
    let addrs : W64 := if taperedTy ty then G.sreg b else 0
    if descBad ty quad ck b d then .trap s (.plain cILL)
    else match tileRaise s G ty addrs with
      | some r => .trap s r
      | none =>
        let (ra, rb, rc, rk) := descRegs ty quad ck d
        let regs := ra ++ rb ++ rc ++ rk
        let pins := (G.pinned ++ regs).eraseDups.length
        let full := decide (min G.bind.budget 192 < pins)
        match refetchMmq s g regs full with
        | .trap s r => .trap s r.first
        | .wait s _ => .wait s
        | .ok s =>
          let q := G.loc.quadId
          let new := pins - G.pinned.length
          if full then .trap s (.plain cILL)
          else if 4 ≤ inFlight G ∨ 8 ≤ quadFlight s q ∨ 672 < quadPinned s q + new ∨ reserveShort s q new = true then .wait s
          else match pinRows s g regs with
            | .trap s r => .trap s r.first
            | .wait s _ => .wait s
            | .ok s =>
              let overlap := badOverlap G (ra ++ rb) rc rk
              let reads := ra ++ rb ++ if dZacc d then [] else rc
              let ord := nextOrd s q
              let op (meet : Option Nat) : MOp :=
                let m : MOp := ⟨G.eng.tokCtr, ord, .mmq ty ck hf d addrs meet, .flight, ra, rb, rc, rk, false, false,
                  ⟨d, addrs, mmqFunc ty quad ck sz hf⟩⟩
                { m with spoiled := !overlap.isEmpty || reads.any (looseReg G) || isLoose s g (mopRanges s G m) }
              let hits := overlap.map (·.num)
              if quad then
                match joinQuad s g G ty ck sz hf d with
                | none => .wait s
                | some (n, s) => .done (orderQuad (queueOp s g sd (op (some n)) hits) n ord) G.nextPc
              else .done (queueOp s g sd (op none) hits) G.nextPc

def execMmq (d a b : SReg) (ty : MTy) (ck sz hf : Bool) (s : State) : Host.Outcome State Fault Refusal :=
  mmqIssue s d a b ty false ck sz hf
def execMmqQuad (d a b : SReg) (ty : MTy) (ck sz hf : Bool) (s : State) : Host.Outcome State Fault Refusal :=
  mmqIssue s d a b ty true ck sz hf

/-- HAD (R214). DESIGN CHOICE (log 127): bits [63:32] of s[sa] are ignored. -/
def execHad (sd a b : SReg) (ty : HTy) (s : State) : Host.Outcome State Fault Refusal :=
  runScalar s fun g G =>
    let d := (G.sreg b).toNat
    let p : W32 := (G.sreg a).setWidth 32
    let rows := bitsOf d 19 8
    let n := 16 * 2 ^ bitsOf d 1 0
    if bitsOf d 63 20 ≠ 0 ∨ bitsOf d 7 2 ≠ 0 ∨ rows = 0 ∨ bitsOf d 1 0 = 3 then .trap s (.plain cILL)
    else match spadCheck s G.bind.team G.loc.coreId p (rows * n * hadEsz ty) 16 with
      | .error c => .trap s (.at c 0 (zext64 p))
      | .ok _ =>
        if 4 ≤ inFlight G ∨ 8 ≤ quadFlight s G.loc.quadId then .wait s
        else
          let m : MOp := ⟨G.eng.tokCtr, nextOrd s G.loc.quadId, .had ty p rows n, .flight, [], [], [], [], false, false,
            ⟨G.sreg a, G.sreg b, ty.code⟩⟩
          .done (queueOp s g sd { m with spoiled := isLoose s g (mopRanges s G m) } []) G.nextPc

/-- ORF (R203): the runs before it have ended, and what they wrote is ordered for the unit. -/
def execOrf (s : State) : Host.Outcome State Fault Refusal :=
  runScalar s fun g G => whenLaneIdle s g G <|
    let seen (w : PadWrite) : PadWrite := if w.writer = g ∧ w.by_ = .store then w.see g else w
    let s : State := { s with padw := s.padw.map seen }
    .done (s.modGroup g fun G =>
      { G with vec := { G.vec with vregs := G.vec.vregs.map fun v => { v with loose := false } } }) G.nextPc

/-! ### MWAIT (R210) -/

/-- FMT of an operation. -/
def fmtRaise (m : MOp) (a : W64) (scale : Byte) : Raise :=
  { Raise.plain cFMT with num := m.num % 256, aux0 := zext64 scale, aux1 := a, waited := true }

/-- A token covers an operation of a group: its number lies less than 128 behind (R210). -/
def MOp.covered (m : MOp) (tok : Nat) : Bool := decide ((tok + 256 - m.num % 256) % 256 < 128)

/-- The transforms of a group that an MWAIT has covered are ordered before its scalar stream: what they wrote counts as its own stores. -/
def State.waited (s : State) (g : Nat) (nums : List Nat) : State :=
  let done (w : PadWrite) : PadWrite := match w.by_ with
    | .had n => if w.writer = g ∧ nums.contains n = true then { w with by_ := .store } else w
    | _ => w
  { s with padw := s.padw.map done }

/-- MWAIT. -/
def execMwait (d a : SReg) (s : State) : Host.Outcome State Fault Refusal :=
  runScalar s fun g G =>
    let x := (G.sreg a).toNat
    let T := G.eng.tokCtr
    if 256 ≤ x ∨ (x + 256 - T % 256) % 256 < 128 then .trap s (.plain cILL)
    else
      let cov := G.eng.mops.filter (·.covered x)
      if cov.any fun m => m.st == .flight then .wait s
      else match cov.find? fun m => !m.reported && match m.st with
          | .failed _ _ => true
          | _ => false with
        | some m => match m.st with
          | .failed p sc => .trap (s.modGroup g fun G => G.setOp m.num fun m => { m with reported := true }) (fmtRaise m p sc)
          | _ => .wait s
        | none =>
          let gone := cov.any fun m => m.st == .dissolved
          let G := { G with eng := { G.eng with mops := G.eng.mops.filter fun m => !m.covered x } }
          sWrite (s.waited g (cov.map (·.num))) g G.settleFlips d (if gone then 1 else 0)

/-! ### ACCST (R217, R218) -/

/-- The ELEM that a conversion stores. -/
def convElem (c : AccConv) : Nat :=
  match c with
  | .f32 => 0
  | .b16 => 1
  | .h16 => 1
  | .t8 => 3
  | .t6 => 4

/-- What makes an accumulator descriptor illegal. -/
def accBad (c : AccConv) (d : W64) : Bool :=
  let x := d.toNat
  let tapered := decide (3 ≤ convElem c)
  let fs := (d.extractLsb' 24 8).toInt
  let auto := d.getLsbD 11
  bitsOf x 63 32 != 0 || bitsOf x 23 12 != 0 || (!tapered && auto) ||
  (if tapered && !auto then decide (fs < -64 ∨ 63 < fs) else fs != 0) ||
  bitsOf x 9 8 == 3 || bitsOf x 7 0 % 8 != 0 || decide (128 < bitsOf x 7 0 + 8 * 2 ^ bitsOf x 9 8)

/-- The accumulators in row-major order. -/
def accRead (s : State) (G : Group) (creg tiles : Nat) : List W32 :=
  let pinned := G.pinned
  (List.range 16).flatMap fun i => (List.range (16 * tiles)).map fun j =>
    let r := creg + 8 * (j / 16) + i % 8
    let lane := 16 * (i / 8) + j % 16
    let k := 32 * r + lane
    if pinned.contains (BitVec.ofNat 7 r) then (freeAt s k).setWidth 32 else engReg s G k (BitVec.ofNat 7 r) lane

/-- The registers of an ACCST made readable: a spilled one is refetched; where its group has no row to give, its words are read from its
slot without one, for ACCST reads its registers at issue and needs them no longer (R218). -/
def readEach (s : State) (g : Nat) : List VNum → RowsRes
  | [] => .ok s
  | r :: t =>
    match refetch s g [r] r with
    | .ok s => readEach s g t
    | .wait s false => match s.group? g with
      | none => .wait s false
      | some G => match slotWords s G r with
        | (ws, s) => readEach (s.modGroup g fun G => G.putV r { (G.vreg r).fetched ws with st := .spilled }) g t
    | r => r

/-- ACCST. DESIGN CHOICE (log 99): of its causes that need the record, ILL for a window view comes first, then RECORD for an ELEM that
does not agree, then ILL for the box. -/
def execAccst (c r b : SReg) (conv : AccConv) (m : Rnd) (s : State) : Host.Outcome State Fault Refusal :=
  runScalar s fun g G =>
    let d := G.sreg c
    let org := G.sreg b
    let sz := G.sreg (b + 1)
    let tiles := 2 ^ bitsOf d.toNat 9 8
    let creg := bitsOf d.toNat 7 0
    if b = 63#6 ∨ accBad conv d = true ∨ (halves sz).contains 0 = true then .trap s (.plain cILL)
    else match whoScalar s g G with
      | none => .wait s
      | some w =>
        match useRecord s w G.sc.spc (G.sreg r) with
        | (.wait, s) => .wait s
        | (.raise x, s) => .trap s x
        | (.ok rc, s) =>
          if 0 < rc.nwin then .trap s (.plain cILL)
          else if rc.elem ≠ convElem conv then .trap s (recordRaise (G.sreg r))
          else if prod (boxSizes rc sz) ≠ 256 * tiles ∨ blockBad rc true 0 org sz = true then .trap s (.plain cILL)
          else
            let regs := regsFrom creg (8 * tiles)
            if reserveShort s G.loc.quadId (regs.filter fun x => !G.pinned.contains x).length = true ∨
                32 ≤ copiesHeld s G.loc.coreId then .wait s
            else match readEach s g regs with
              | .trap s x => .trap s x.first
              | .wait s _ => .wait s
              | .ok s =>
                match s.group? g with
                | none => .wait s
                | some G =>
                  let data := accRead s G creg tiles
                  let hits := (G.eng.mops.filter fun m => share m.regs regs).map (·.num)
                  let s := queueCmd s g G (.accst conv m d org sz data) (G.sreg r) rc
                  .done ((s.modGroup g fun G => (G.spoilOps hits).touch s.tick regs).useFree 4096) G.nextPc

end Sys2Proof.Machine
end

