-- ==== Sys2Proof/Machine/Batch.lean ====
section
/-! DEFINITION. Batches of engine commands and the record-cache fences (spec/08_scratchpad_and_copies.md R189, R197, R198). -/

namespace Sys2Proof.Machine

/-- The commands of a batch of a group. -/
def batchCmds (s : State) (g b : Nat) : List Cmd := s.cmds.filter fun c => c.group == g && c.batch == b

/-- A batch has an element left. -/
def batchBusy (s : State) (g b : Nat) : Bool := s.cmds.any fun c => c.group == g && c.batch == b && !c.ended

/-- The first failure of a batch, with its command. -/
def batchFail (s : State) (g b : Nat) : Option (Cmd × CmdFail) :=
  (batchCmds s g b).foldl (fun m c => match c.fail, m with
    | some f, none => some (c, f)
    | some f, some (c', f') => if f.order < f'.order then some (c, f) else some (c', f')
    | none, _ => m) none

/-- The closed batches of a group below a number that have commands, each once, ascending. -/
def batchesBelow (s : State) (g n : Nat) : List Nat :=
  sortBy (fun a b => decide (a ≤ b)) ((s.cmds.filter fun c => c.group == g && decide (c.batch < n)).map (·.batch)).eraseDups

/-- A closed batch is outstanding. -/
def outstanding (s : State) (g : Nat) (G : Group) (b : Nat) : Bool :=
  batchBusy s g b || ((batchFail s g b).isSome && !G.eng.batchRep.contains b)

/-- CLOSEB. DESIGN CHOICE (log 98): only what is outstanding counts, so a batch may be incomplete more than 64 numbers behind; R198's last
sentence then speaks of batches that have been waited for. -/
def execCloseb (d : SReg) (s : State) : Host.Outcome State Fault Refusal :=
  runScalar s fun g G =>
    let n := G.eng.batchCtr
    if 64 ≤ ((batchesBelow s g n).filter (outstanding s g G)).length then .wait s
    else sWrite s g { G with eng := { G.eng with batchCtr := n + 1 } } d (BitVec.ofNat 64 (n % 2 ^ 16))

/-- BATCH of a batch (R198, R335). -/
def batchRaise (b : Nat) (c : Cmd) (f : CmdFail) : Raise :=
  { Raise.plain cBATCH with
    num := b % 2 ^ 16
    aux0 := BitVec.ofNat 64 (f.cause * 2 ^ 56 + c.recAddr.toNat % 2 ^ 56)
    aux1 := f.addr
    addr := if c.kind.isCopy then splat 0 else (splat 0).setIfInBounds 0 (BitVec.ofNat 64 f.pos)
    waited := true }

/-- A number names the end of a stretch of 2^15 batches that hold a batch (R198). -/
def batchCovered (n b : Nat) : Bool := decide ((n + 2 ^ 16 - b % 2 ^ 16) % 2 ^ 16 < 2 ^ 15)

def execWaitb (a : SReg) (s : State) : Host.Outcome State Fault Refusal :=
  runScalar s fun g G =>
    let x := (G.sreg a).toNat
    let N := G.eng.batchCtr
    if 2 ^ 16 ≤ x ∨ (x + 2 ^ 16 - N % 2 ^ 16) % 2 ^ 16 < 2 ^ 15 then .trap s (.plain cILL)
    else
      let bs := (batchesBelow s g N).filter (batchCovered x)
      if bs.any (batchBusy s g) then .wait s
      else match bs.findSome? fun b => if G.eng.batchRep.contains b then none else (batchFail s g b).map fun p => (b, p) with
        | some (b, c, f) =>
          .trap (s.modGroup g fun G => { G with eng := { G.eng with batchRep := b :: G.eng.batchRep } }) (batchRaise b c f)
        | none =>
          let mine (n : Nat) : Bool := match s.cmds[n]? with
            | some c => c.group == g && decide (c.batch < N) && batchCovered x c.batch
            | none => false
          let see (w : PadWrite) : PadWrite := match w.by_ with
            | .cmd n => if mine n then w.see g else w
            | _ => w
          .done (dropEarly { s with padw := s.padw.map see } g) G.nextPc

/-- Drops entries of the record cache of a group's cluster once older stores are visible there. -/
def rcDrop (s : State) (g : Nat) (G : Group) (p : RcEntry → Bool) : SRes :=
  whenLaneIdle s g G (whenVisible s g .cluster
    (.done { s with rcache := s.rcache.filter fun e => !(e.cluster == G.loc.clusterId && p e) } G.nextPc))

def execRcfence (a : SReg) (s : State) : Host.Outcome State Fault Refusal :=
  runScalar s fun g G =>
    let x := G.sreg a
    if x.toNat % 128 ≠ 0 then .trap s (.at cALIGN 0 x)
    else rcDrop s g G fun e => e.tag == s.asidOf G && e.addr == x

def execRcfenceAll (s : State) : Host.Outcome State Fault Refusal :=
  runScalar s fun g G => rcDrop s g G fun _ => true

end Sys2Proof.Machine
end

