-- ==== Sys2Proof/Machine/Clearing.lean ====
section
/-! DEFINITION. The clearing engine: GATH, SCAT and WALK at issue, and their asynchronous effects window by window
(spec/15_clearing_engine.md R316 to R325). -/

namespace Sys2Proof.Machine

/-! ### Issue -/

/-- A record that serves as a table (R317). -/
def tableGood (r : ShapeRec) (add : Bool) : Bool :=
  r.rank == 2 && r.nwin == 0 && permIdentity r && (!r.described || r.extOf 0 % 16 == 0) && (!add || r.elem == 0)

/-- Bytes of a row in scratchpad. -/
def rowBytes (r : ShapeRec) : Nat := esz r.elem * r.extOf 0

/-- The issue of GATH and SCAT. mk makes the command of row area, list and count. -/
def tableIssue (s : State) (p r b : SReg) (add writes : Bool) (mk : W32 → W32 → Nat → CmdKind) : Host.Outcome State Fault Refusal :=
  runScalar s fun g G =>
    let P := G.sreg p
    let L := G.sreg b
    let n := (G.sreg (b + 1)).toNat
    if b = 63#6 ∨ 2 ^ 32 ≤ P.toNat ∨ 2 ^ 32 ≤ L.toNat ∨ n = 0 ∨ 65536 < n then .trap s (.plain cILL)
    else match whoScalar s g G with
      | none => .wait s
      | some w =>
        match useRecord s w G.sc.spc (G.sreg r) with
        | (.wait, s) => .wait s
        | (.raise x, s) => .trap s x
        | (.ok rc, s) =>
          let pad : W32 := P.setWidth 32
          let list : W32 := L.setWidth 32
          if !tableGood rc add then .trap s (recordRaise (G.sreg r))
          else if rc.described ∧ P.toNat % 16 ≠ 0 then .trap s (.plain cILL)
          else match spadCheck s G.bind.team G.loc.coreId pad (n * rowBytes rc) (esz rc.elem),
              spadCheck s G.bind.team G.loc.coreId list (4 * n) 4 with
            | .error c, .error d => .trap s (if c ≤ d then .at c 0 P else .at d 0 L)
            | .error c, _ => .trap s (.at c 0 P)
            | _, .error c => .trap s (.at c 0 L)
            | .ok v, .ok _ =>
              if 32 ≤ clearingsHeld s G.loc.clusterId then .wait s
              else if writes then
                .done (queueWriter s g G (mk pad list n) (G.sreg r) rc (v.ranges (spadOff pad) (n * rowBytes rc))) G.nextPc
              else .done (queueCmd s g G (mk pad list n) (G.sreg r) rc) G.nextPc

def execGath (p r b : SReg) (s : State) : Host.Outcome State Fault Refusal := tableIssue s p r b false true .gath
def execScat (p r b : SReg) (s : State) : Host.Outcome State Fault Refusal := tableIssue s p r b false false .scat
def execScatAddI32 (p r b : SReg) (s : State) : Host.Outcome State Fault Refusal := tableIssue s p r b true false .scatAddI
def execScatAddF32 (p r b : SReg) (s : State) : Host.Outcome State Fault Refusal := tableIssue s p r b true false .scatAddF

/-- The issue of WALK (R325). -/
def walkIssue (s : State) (sd r b : SReg) (csr : Bool) : Host.Outcome State Fault Refusal :=
  runScalar s fun g G =>
    let x0 := (G.sreg b).toNat
    let x1 := (G.sreg (b + 1)).toNat
    let x2 := (G.sreg (b + 2)).toNat
    let cap := bitsOf x0 47 32
    let K := bitsOf x1 6 0
    let q := bitsOf x1 14 8
    let rows := bitsOf x1 39 16
    let fieldBad := decide (62 ≤ b.toNat) || bitsOf x0 63 48 != 0 || cap == 0 || decide (K = 0 ∨ 64 < K ∨ K ≤ q) ||
      bitsOf x1 7 7 != 0 || bitsOf x1 15 15 != 0 || bitsOf x1 63 40 != 0 || bitsOf x2 63 56 != 0 ||
      (if csr then rows == 0 || x2 % 4 != 0 else rows != 0 || x2 != 0)
    if fieldBad then .trap s (.plain cILL)
    else match whoScalar s g G with
      | none => .wait s
      | some w =>
        match useRecord s w G.sc.spc (G.sreg r) with
        | (.wait, s) => .wait s
        | (.raise x, s) => .trap s x
        | (.ok rc, s) =>
          let good := rc.elem == 0 && if csr then rc.rank == 1 else rc.rank == 2 && rc.extOf 0 == 2
          let n := if csr then rc.extOf 0 else rc.extOf 1
          let lo := q * n / K
          let hi := (q + 1) * n / K
          let p : W32 := BitVec.ofNat 32 x0
          if !good then .trap s (recordRaise (G.sreg r))
          else if cap < hi - lo then .trap s (.plain cILL)
          else match spadCheck s G.bind.team G.loc.coreId p (8 * cap) 4 with
            | .error c => .trap s (.at c 0 (zext64 p))
            | .ok v =>
              if 32 ≤ clearingsHeld s G.loc.clusterId then .wait s
              else
                let kind : CmdKind := if csr then .walkCsr p cap lo hi rows (BitVec.ofNat 64 x2) else .walkCoo p cap lo hi
                let s := queueWriter s g G kind (G.sreg r) rc (v.ranges (spadOff p) (8 * cap))
                .done (s.modGroup g fun G => G.setS sd (BitVec.ofNat 64 (hi - lo))) G.nextPc

def execWalkCoo (d r b : SReg) (s : State) : Host.Outcome State Fault Refusal := walkIssue s d r b false
def execWalkCsr (d r b : SReg) (s : State) : Host.Outcome State Fault Refusal := walkIssue s d r b true

/-! ### Windows (R319 to R323) -/

/-- The hole of an index list. -/
def hole : Nat := 0xFFFFFFFF

/-- The positions of a window of a list of n entries. -/
def windowPos (win n : Nat) : List Nat := (List.range (min 4096 (n - 4096 * win))).map fun k => 4096 * win + k

/-- The scratchpad address of an entry of an index list. -/
def listAt (list : W32) (pos : Nat) : W32 := list + BitVec.ofNat 32 (4 * pos)

/-- An entry of an index list, read from scratchpad where it is open; the i-th takes its undefined bytes from number 4 × i. -/
def listEntry (s : State) (team core : Nat) (list : W32) (pos : Nat) : Option Nat :=
  (spadView s team core (listAt list pos) 4).map fun v => ofLe (spadBytes s v (4 * pos) (spadOff (listAt list pos)) 4)

/-- The row that an index names (R319). -/
def rowOf (r : ShapeRec) (x : Nat) : RowRef :=
  if x < r.extOf 1 then .row x else if r.clamp then .row (r.extOf 1 - 1) else .out x

/-- Rows of a window in order of first position; indexes that clamp to one row are one row. -/
def addUse (row : RowRef) (pos : Nat) : List RowUse → List RowUse
  | [] => [⟨row, [pos]⟩]
  | u :: t => if u.row = row then { u with poss := u.poss ++ [pos] } :: t else u :: addUse row pos t

/-- The distinct rows that a window names. -/
def windowRows (s : State) (r : ShapeRec) (team core : Nat) (list : W32) (win n : Nat) : List RowUse :=
  (windowPos win n).foldl (fun us pos => match listEntry s team core list pos with
    | none => addUse (.closed pos) pos us
    | some x => if x = hole then us else addUse (rowOf r x) pos us) []

/-- A row is among some rows of the table. -/
def RowUse.among (u : RowUse) (rows : List Nat) : Bool :=
  match u.row with
  | .row x => rows.contains x
  | _ => false

/-- Work on one row from one of its elements on: done, parked, or the command stopped, and the element that it has reached. -/
abbrev RowStep := State → RowUse → Nat → UnitRes × Nat

/-- The state with a row marked as performed (R324). -/
def rowDone (s : State) (n : Nat) (u : RowUse) : State :=
  s.modCmd n fun m => { m with
    part := none
    rowsDone := match u.row with
      | .row x => x :: m.rowsDone
      | _ => m.rowsDone }

/-- The element from which a command goes on with a row. -/
def rowFrom (s : State) (n : Nat) (u : RowUse) : Nat := match s.cmds[n]?, u.row with
  | some m, .row x => match m.part with
    | some (y, col) => if y = x then col else 0
    | none => 0
  | _, _ => 0

/-- The state of a command that parks in a row at an element (R323). -/
def rowPart (s : State) (n : Nat) (u : RowUse) (col : Nat) : State := s.modCmd n fun m => { m with part := match u.row with
  | .row x => some (x, col)
  | _ => none }

/-- Works through rows in order; with what is left from the row that parks or stops on. -/
def runRows (step : RowStep) (n : Nat) (s : State) : List RowUse → UnitRes × List RowUse
  | [] => (.next s, [])
  | u :: t => match step s u (rowFrom s n u) with
    | (.next s, _) => runRows step n (rowDone s n u) t
    | (.park s, col) => (.park (rowPart s n u col), u :: t)
    | (.stop s, _) => (.stop s, u :: t)

/-- The rows of a list that can be written after the command has failed. -/
def lateRows (step : RowStep) (n : Nat) (s : State) (us : List RowUse) : State :=
  us.foldl (fun s u => match step s u (rowFrom s n u) with
    | (.next s, _) => rowDone s n u
    | _ => s) s

/-- Works through rows in order of first position (R322). Where one of them fails, each other row has been written or not (R323): the rows
of odd are those for which it is not as in that order, so far as the command still fails at that row then. -/
def windowRun (step : RowStep) (n : Nat) (odd : List Nat) (s : State) (us : List RowUse) : UnitRes :=
  match runRows step n s us with
  | (.stop t, f :: post) =>
    if us.all fun u => !u.among odd then .stop t
    else match runRows step n s ((us.take (us.length - (post.length + 1))).filter fun u => !u.among odd) with
      | (.next s, _) => match step s f (rowFrom s n f) with
        | (.stop s, _) => .stop (lateRows step n s (post.filter (·.among odd)))
        | _ => .stop t
      | _ => .stop t
  | (r, _) => r

/-- The rows that the window in progress names: its list is read once (R320), and again where the group has been halted since (R324). -/
def windowUses (rows : State → Nat → List RowUse) (n win : Nat) (s : State) : List RowUse × State :=
  match (s.cmds[n]?).bind (·.uses) with
  | some us => (us, s)
  | none =>
    let us := rows s win
    (us, s.modCmd n fun m => { m with uses := some us })

/-- Works through windows from win on, of total, over at most k rows in each step: the first ones left of the window, or those that lie ahead of
them (R269). -/
def runWindows (step : RowStep) (rows : State → Nat → List RowUse) (n total k ahead : Nat) (odd : List Nat) (s : State) (win : Nat) : Nat → State
  | 0 => s
  | j + 1 =>
    let done := match s.cmds[n]? with
      | some m => m.rowsDone
      | none => []
    let (us, s) := windowUses rows n win s
    let left := us.filter fun u => !u.among done
    let now := (left.drop ahead ++ left.take ahead).take k
    match windowRun step n odd s now with
    | .next s =>
      if k < left.length then s
      else
        let s := s.modCmd n fun m => { m with next := win + 1, rowsDone := [], uses := none, ended := decide (total ≤ win + 1) }
        if k = now.length then s else runWindows step rows n total (k - now.length) ahead odd s (win + 1) j
    | .park s => s
    | .stop s => s

/-- Continues over the elements of a row from one on while each goes on, over at most k of them, a number of elements at a time; with the element
reached. -/
def eachUnit (f : State → Nat → UnitRes) (n each : Nat) (s : State) (col : Nat) : Nat → UnitRes × Nat
  | 0 => (.next s, col)
  | k + 1 => match f s col with
    | .next s => eachUnit f n each (unitDone s n) (col + each) k
    | r => (r, col)

/-! ### GATH -/

/-- The view of a row of the area, or the command stops with DEED. -/
def rowView (s : State) (team core : Nat) (p : W32) (rb pos : Nat) : Option (SpadView × Nat) :=
  let pa : W32 := p + BitVec.ofNat 32 (rb * pos)
  (spadView s team core pa rb).map fun v => (v, spadOff pa)

/-- The views of the rows of some positions, or the first position whose row is not open. -/
def rowViews (s : State) (team core : Nat) (p : W32) (rb : Nat) : List Nat → Except Nat (List (SpadView × Nat))
  | [] => .ok []
  | q :: t => match rowView s team core p rb q with
    | none => .error q
    | some v => (rowViews s team core p rb t).map fun vs => v :: vs

/-- A DEED at the row of a position. -/
def rowFail (s : State) (n : Nat) (p : W32) (rb pos : Nat) : UnitRes := .stop (stopFail s n cDEED 0 (p.toNat + rb * pos) pos)

/-- Work on a row of the table: a position that names none stops the command (R319, R323). -/
def onRow (s : State) (n : Nat) (c : Cmd) (list : W32) (u : RowUse) (k : Nat → Nat → UnitRes × Nat) : UnitRes × Nat :=
  let pos := u.poss.headD 0
  match u.row with
  | .row x => k x pos
  | .out x => (.stop (stopFail s n cRECORD 0 (coordAddr c.rcd [0, (x : Int), 0, 0, 0]) pos), 0)
  | .closed q => (.stop (stopFail s n cDEED 0 (listAt list q).toNat q), 0)

/-- Writes an element to its column in every position of a row. -/
def spread (s : State) (v : List (SpadView × Nat)) (off : Nat) (bs : List Byte) (scale : Byte) : State :=
  v.foldl (fun s q => padWrite s q.1 (q.2 + off) bs scale) s

/-- One element of a gathered row. -/
def gathElem (n pos : Nat) (c : Cmd) (w : Who) (row : Nat) (vs : List (SpadView × Nat)) (s : State) (col : Nat) : UnitRes :=
  let r := c.rcd
  let i : List Int := [col, row, 0, 0, 0]
  let e := esz r.elem
  if r.described then
    let (blk, j) := elemBlock r i
    unitOf n blk pos (engCode s w r.elem blk j) fun x s => match x with
      | .code b scale => .next (spread s vs (e * col) [b] scale)
      | .ue a => .next (noteFail s n cUE 0 (a / 4 * 4) pos)
      | .bad => .stop (stopFail s n cFMT 0 blk pos)
  else
    let va := elemAddr r i
    unitOf n va pos (engRead s w va) fun x s => match x with
      | none => .next (noteFail s n cUE 0 (va / 4 * 4) pos)
      | some y => .next (spread s vs (e * col) (elemBytes y va e) 0)

/-- A row of GATH: read once, written to every position that names it. -/
def gathRow (n : Nat) (c : Cmd) (team : Nat) (w : Who) (p list : W32) (s : State) (u : RowUse) (col : Nat) : UnitRes × Nat :=
  onRow s n c list u fun row pos => match rowViews s team c.core p (rowBytes c.rcd) u.poss with
    | .error q => (rowFail s n p (rowBytes c.rcd) q, col)
    | .ok vs => eachUnit (gathElem n pos c w row vs) n 1 s col (c.rcd.extOf 0 - col)

/-! ### SCAT -/

/-- A word of the combined row of SCAT.add (R321): ascending position. -/
def combine (f32 : Bool) : List W32 → W32
  | [] => 0
  | x :: t => t.foldl (fun a b => if f32 then f32Add a b else a + b) x

/-- One element of a plain SCAT row with ELEM 0 to 2: it clears the poison of its word (R322). -/
def scatElem (n pos : Nat) (c : Cmd) (w : Who) (row : Nat) (bs : List Byte) (s : State) (col : Nat) : UnitRes :=
  let e := esz c.rcd.elem
  stElem n pos w true s (elemAddr c.rcd [col, row, 0, 0, 0]) e (BitVec.ofNat 32 (ofLe ((bs.drop (e * col)).take e)))

/-- One block of a plain SCAT row of a described table; k is its first column, and last the position whose row it is, which meets FMT. -/
def scatBlock (n pos last : Nat) (c : Cmd) (w : Who) (row : Nat) (bs scales : List Byte) (s : State) (k : Nat) : UnitRes :=
  let r := c.rcd
  let cnt := min r.epb (r.extOf 0 - k)
  let mine := (scales.drop (k / 16)).take ((cnt + 15) / 16)
  let t := mine.headD 0
  let i : List Int := [k, row, 0, 0, 0]
  if mine.any (· != t) || decide (t.toInt < -64 ∨ 63 < t.toInt) then .stop (stopFail s n cFMT 0 (elemBlock r i).1 last)
  else stBlock n pos w r s i cnt t ((bs.drop k).take cnt)

/-- A row of SCAT: the last position wins. -/
def scatRow (n : Nat) (c : Cmd) (team : Nat) (w : Who) (p list : W32) (s : State) (u : RowUse) (col : Nat) : UnitRes × Nat :=
  onRow s n c list u fun row pos =>
    let last := u.poss.getLastD pos
    let rb := rowBytes c.rcd
    match rowView s team c.core p rb last with
    | none => (rowFail s n p rb last, col)
    | some (v, off) =>
      let bs := spadBytes s v 0 off rb
      let scales := scaleBytes s v rb off ((rb + 15) / 16)
      let s := s.useFree (2 * rb)
      if c.rcd.described then
        eachUnit (scatBlock n pos last c w row bs scales) n c.rcd.epb s col ((c.rcd.extOf 0 - col + c.rcd.epb - 1) / c.rcd.epb)
      else eachUnit (scatElem n pos c w row bs) n 1 s col (c.rcd.extOf 0 - col)

/-- One word of SCAT.add. -/
def addElem (n pos : Nat) (c : Cmd) (w : Who) (f32 : Bool) (row : Nat) (rows : List (List Byte)) (s : State) (col : Nat) : UnitRes :=
  let va := elemAddr c.rcd [(col : Nat), (row : Nat), 0, 0, 0]
  let x := combine f32 (rows.map fun b => wordOf ((b.drop (4 * col)).take 4))
  unitOf n va pos (engUpdate s w va f32 x) fun ok s =>
    .next (if ok then s else noteFail s n cUE 0 va pos)

/-- A row of SCAT.add. No word of it is added twice: a row that has parked goes on at its word (R324). -/
def addRow (n : Nat) (c : Cmd) (team : Nat) (w : Who) (f32 : Bool) (p list : W32) (s : State) (u : RowUse) (col : Nat) : UnitRes × Nat :=
  onRow s n c list u fun row pos => match rowViews s team c.core p (rowBytes c.rcd) u.poss with
    | .error q => (rowFail s n p (rowBytes c.rcd) q, col)
    | .ok vs =>
      let rb := rowBytes c.rcd
      let rows := vs.zipIdx.map fun q => spadBytes s q.1.1 (rb * q.2) q.1.2 rb
      eachUnit (addElem n pos c w f32 row rows) n 1 (s.useFree (rb * vs.length)) col (c.rcd.extOf 0 - col)

/-! ### WALK -/

/-- A word of a WALK list written. -/
def walkPut (s : State) (v : SpadView) (off : Nat) (x : W32) : State := spadPutBytes s v off (leBytes 4 x.toNat)

/-- A word of memory read by a walk; k goes on with it, or skip leaves the entry unwritten. -/
def walkRead (n e : Nat) (w : Who) (s : State) (va : Nat) (k : W32 → State → UnitRes) : UnitRes :=
  unitOf n va e (engRead s w va) fun x s => match x with
    | some y => k y s
    | none => .next (noteFail s n cUE 0 va e)

/-- Entry pos of both lists written, or the command stops with DEED at a word that is not open. -/
def walkPlace (n : Nat) (c : Cmd) (team : Nat) (p : W32) (cap : Nat) (s : State) (pos : Nat) (row col : W32) : UnitRes :=
  let a := listAt p pos
  let b := listAt p (cap + pos)
  match spadView s team c.core a 4 with
  | none => .stop (stopFail s n cDEED 0 a.toNat pos)
  | some v =>
    let s := walkPut s v (spadOff a) row
    match spadView s team c.core b 4 with
    | none => .stop (stopFail s n cDEED 0 b.toNat pos)
    | some v => .next (walkPut s v (spadOff b) col)

/-- An entry of WALK.coo. -/
def cooUnit (n : Nat) (c : Cmd) (team : Nat) (w : Who) (p : W32) (cap lo : Nat) (s : State) (e : Nat) : UnitRes :=
  walkRead n (e - lo) w s (elemAddr c.rcd [0, e, 0, 0, 0]) fun row s =>
    walkRead n (e - lo) w s (elemAddr c.rcd [1, e, 0, 0, 0]) fun col s =>
      walkPlace n c team p cap s (e - lo) row col

/-- The row-pointer array: its words, or the first that faults, parks or is uncorrectable. -/
def readPtrs (n : Nat) (w : Who) (ptr : Nat) (s : State) (k : List W32 → State → UnitRes) : List Nat → List W32 → UnitRes
  | [], acc => k acc.reverse s
  | j :: t, acc => unitOf n (ptr + 4 * j) 0 (engRead s w (ptr + 4 * j)) fun x s => match x with
    | some y => readPtrs n w ptr s k t (y :: acc)
    | none => .stop (stopFail s n cUE 0 (ptr + 4 * j) 0)

/-- The row of entry e: the row j with ptr[j] ≤ ptr[0] + e < ptr[j+1]. -/
def csrRow (ptrs : List Nat) (e : Nat) : Nat :=
  let base := ptrs.headD 0
  match (List.range (ptrs.length - 1)).find? fun j => decide (ptrs.getD j 0 ≤ base + e ∧ base + e < ptrs.getD (j + 1) 0) with
  | some j => j
  | none => 0

/-- The pointers never decrease, and span n entries. -/
def ptrsGood (ptrs : List Nat) (n : Nat) : Bool :=
  ((List.range (ptrs.length - 1)).all fun j => decide (ptrs.getD j 0 ≤ ptrs.getD (j + 1) 0)) &&
    ptrs.getLastD 0 - ptrs.headD 0 == n

/-- An entry of WALK.csr. -/
def csrUnit (n : Nat) (c : Cmd) (team : Nat) (w : Who) (p : W32) (cap lo : Nat) (ptrs : List Nat) (s : State) (e : Nat) : UnitRes :=
  walkRead n (e - lo) w s (elemAddr c.rcd [e, 0, 0, 0, 0]) fun col s =>
    walkPlace n c team p cap s (e - lo) (BitVec.ofNat 32 (csrRow ptrs e)) col

/-- WALK.csr: the pointers are read and checked, then at most k entries. -/
def walkCsr (n : Nat) (c : Cmd) (team : Nat) (w : Who) (p : W32) (cap lo hi rows : Nat) (ptr : W64) (k ahead : Nat) (s : State) : State :=
  let from_ := max c.next lo
  let r := readPtrs n w ptr.toNat s (fun ptrs s =>
    let ps := ptrs.map (·.toNat)
    if !ptrsGood ps (c.rcd.extOf 0) then .stop (stopFail s n cRECORD 0 ptr.toNat 0)
    else .next (someUnits (csrUnit n c team w p cap lo ps) n hi c.early s from_ ahead k)) (List.range (rows + 1)) []
  match r with
  | .next s => s
  | .park s => s
  | .stop s => s

/-- The most rows or entries that a clearing command has. -/
def clearMost : Nat := 2 ^ 32

/-- The clearing engine works a command to its end, its failure, or a pending fault, over at most k rows or entries. odd: rows of a failing
window for which it is not as in order of first position whether they are written. -/
def clearRun (s : State) (n : Nat) (c : Cmd) (team k ahead : Nat) (odd : List Nat) : State :=
  match engWho s (.clearing n) c.group c.core c.ctx with
  | none => s
  | some w =>
    let table (list : W32) (cnt : Nat) (step : RowStep) : State :=
      let total := (cnt + 4095) / 4096
      (runWindows step (fun t win => windowRows { t with freeCtr := s.freeCtr } c.rcd team c.core list win cnt) n total k ahead odd
        (s.useFree 262144) c.next
        (total - c.next))
    match c.kind with
    | .gath p list cnt => table list cnt (gathRow n c team w p list)
    | .scat p list cnt => table list cnt (scatRow n c team w p list)
    | .scatAddI p list cnt => table list cnt (addRow n c team w false p list)
    | .scatAddF p list cnt => table list cnt (addRow n c team w true p list)
    | .walkCoo p cap lo hi => someUnits (cooUnit n c team w p cap lo) n hi c.early s (max c.next lo) ahead k
    | .walkCsr p cap lo hi rows ptr => walkCsr n c team w p cap lo hi rows ptr k ahead s
    | _ => s

end Sys2Proof.Machine
end

