-- ==== Sys2Proof/Machine/Collective.lean ====
section
/-! DEFINITION. Collectives: COLL, WAITC, and what the collective engine does with the data of every member
(spec/18_fabric_and_collectives.md R388 to R393; spec/04_number_formats.md R87). -/

namespace Sys2Proof.Machine

/-! ### Issue (R389, R390) -/

/-- The code of an operation (R389). -/
def collCode (o : CollOp) : BitVec 2 :=
  match o with
  | .add => 0
  | .min => 1
  | .max => 2

/-- KIND (R389). -/
def kAllreduce : BitVec 3 := 0
def kReduceScatter : BitVec 3 := 1
def kAllgather : BitVec 3 := 2
def kBroadcast : BitVec 3 := 3

/-- Allreduce and reduce-scatter. -/
def reduces (k : BitVec 3) : Bool := k == kAllreduce || k == kReduceScatter

/-- A communicator of a context. -/
def commOf (c : Context) (i : Nat) : Option Comm := c.comms.find? fun m => m.idx == i

/-- The state with a communicator of a context changed. -/
def State.modComm (s : State) (ctx i : Nat) (f : Comm → Comm) : State :=
  s.modCtx ctx fun c => { c with comms := c.comms.map fun m => if m.idx = i then f m else m }

/-- What makes a COLL illegal, given its communicator. -/
def collBad (kind : BitVec 3) (op : BitVec 2) (swa : Bool) (d : W64) (m : Comm) : Bool :=
  let x := d.toNat
  bitsOf x 63 36 != 0 || bitsOf x 27 26 == 3 || (kind != kBroadcast && bitsOf x 25 16 != 0) ||
  decide (m.members.length ≤ bitsOf x 25 16) ||
  (!reduces kind && (op != 0 || swa || bitsOf x 27 26 != 0)) || (swa && op != 0)

/-- What makes its record unfit. -/
def collRecordBad (kind : BitVec 3) (op : BitVec 2) (swa : Bool) (wire : Nat) (m : Comm) (r : ShapeRec) : Bool :=
  let n := r.extOf 0
  r.elem != 0 || r.rank != 1 || r.nwin != 0 || r.strOf 0 != 0 || decide (2 ^ 28 < n) ||
  ((kind == kReduceScatter || kind == kAllgather) && n % m.members.length != 0) ||
  (reduces kind && op == 0 && !swa && wire != 0 && decide (m.cap < n))

/-- COLL. -/
def collIssue (s : State) (sd a b : SReg) (kind : BitVec 3) (op : BitVec 2) (swa : Bool) : Host.Outcome State Fault Refusal :=
  runScalar s fun g G =>
    let d := G.sreg b
    match whoScalar s g G with
    | none => .wait s
    | some w =>
      match commOf w.ctx (bitsOf d.toNat 15 0) with
      | none => .trap s (.plain cILL)
      | some m =>
        if collBad kind op swa d m then .trap s (.plain cILL)
        else match useRecord s w G.sc.spc (G.sreg a) with
          | (.wait, s) => .wait s
          | (.raise x, s) => .trap s x
          | (.ok rc, s) =>
            let wire := bitsOf d.toNat 27 26
            if collRecordBad kind op swa wire m rc then .trap s (recordRaise (G.sreg a))
            else if 16 ≤ (G.eng.colls.filter fun c => c.status.isNone).length then .wait s
            else
              let k := G.eng.collCtr
              let c : Coll := ⟨k, m.idx, m.count, kind, op, swa, BitVec.ofNat 2 wire, d.extractLsb' 28 8,
                bitsOf d.toNat 25 16, rc.base, rc.extOf 0, none, [], [], none, 0, none, false⟩
              let s := s.modComm G.bind.ctx m.idx fun m => { m with count := m.count + 1 }
              sWrite s g { G with eng := { G.eng with collCtr := k + 1, colls := G.eng.colls ++ [c] } } sd
                (BitVec.ofNat 64 (k % 256))

def execCollAllreduce (d a b : SReg) (op : CollOp) (swa : Bool) (s : State) : Host.Outcome State Fault Refusal :=
  collIssue s d a b kAllreduce (collCode op) swa
def execCollReduceScatter (d a b : SReg) (op : CollOp) (swa : Bool) (s : State) : Host.Outcome State Fault Refusal :=
  collIssue s d a b kReduceScatter (collCode op) swa
def execCollAllgather (d a b : SReg) (s : State) : Host.Outcome State Fault Refusal := collIssue s d a b kAllgather 0 false
def execCollBroadcast (d a b : SReg) (s : State) : Host.Outcome State Fault Refusal := collIssue s d a b kBroadcast 0 false

/-! ### WAITC (R392) -/

/-- A status word that reports a failure. -/
def collFailed (x : W64) : Bool := x.extractLsb' 0 8 != 0#8 || x.getLsbD 11

/-- A group with a collective changed. -/
def Group.setColl (G : Group) (num : Nat) (f : Coll → Coll) : Group :=
  { G with eng := { G.eng with colls := G.eng.colls.map fun c => if c.num = num then f c else c } }

/-- The collective whose status WAITC returns: the oldest one with an unreported failure, else the one named, which is the latest of its
number. -/
def waitcOf (cov : List Coll) (last : Nat) : Option Coll :=
  match cov.find? fun c => !c.reported && match c.status with
    | some x => collFailed x
    | none => false with
  | some c => some c
  | none => cov.reverse.find? fun c => c.num % 256 = last

/-- WAITC (R392). A number that no collective of the group has had has no status: sd receives a free value (DESIGN CHOICE, log 35). -/
def execWaitc (d a : SReg) (s : State) : Host.Outcome State Fault Refusal :=
  runScalar s fun g G =>
    let x := (G.sreg a).toNat
    let K := G.eng.collCtr
    if 256 ≤ x ∨ (x + 256 - K % 256) % 256 < 128 then .trap s (.plain cILL)
    else
      let cov := G.eng.colls.filter fun c => decide ((x + 256 - c.num % 256) % 256 < 128)
      if cov.any fun c => c.status.isNone then .wait s
      else match waitcOf cov x with
        | some c => sWrite (dropEarly s g) g (G.setColl c.num fun c => { c with reported := true }) d (c.status.getD 0)
        | none => sWrite ((dropEarly s g).useFree 1) g G d (freeAt s 0)

/-! ### What the members contribute (R391) -/

/-- The value that a wire type keeps of a value, as .f32. -/
def toWire (wire : BitVec 2) (v : FVal) : W32 :=
  let f := if wire = 1#2 then fmtB16 else fmtH16
  let q := if wire = 0#2 then v else decodeIeee f (toIeee f .rne v).1
  BitVec.ofNat 32 (toIeee fmtF32 .rne q).1

/-- The contribution q and the new residual of an element and its residual. -/
def addShare (wire : BitVec 2) (b r : W32) : W32 × W32 :=
  let x := (exactAdd .rne (f32Val b) (f32Val r)).round fmtF32 .rne
  let xv := decodeIeee fmtF32 x.1
  let q := toWire wire xv
  match f32Val q with
  | .fin n m e => (q, BitVec.ofNat 32 ((exactAdd .rne xv (.fin (!n) m e)).round fmtF32 .rne).1)
  | _ => (q, 0)

/-- A collective keeps a residual: an add without SWA over a narrower wire. -/
def Coll.residual (c : Coll) : Bool := reduces c.kind && c.op == 0 && !c.swa && c.wire != 0

/-- The elements of the buffer that a member contributes: a first one and a count. -/
def shareOf (kind : BitVec 3) (n p rank root : Nat) : Nat × Nat :=
  if reduces kind then (0, n)
  else if kind = kAllgather then (rank * (n / p), n / p)
  else if rank = root then (0, n) else (0, 0)

/-- Reads m words from an address; a failing one stops the engine. -/
def collRead (s : State) (w : Who) (va : Nat) (acc : List W32) : Nat → EngRes (List W32) × State
  | 0 => (.ok acc.reverse, s)
  | m + 1 => match engRead s w va with
    | (.park, s) => (.park, s)
    | (.fail c k, s) => (.fail c k, s)
    | (.ok none, s) => (.fail cUE 0, s)
    | (.ok (some x), s) => collRead s w (va + 4) (x :: acc) m

/-- What the part contributes, with its new residual words; a residual that is not kept is read as 0. -/
def collShare (s : State) (w : Who) (m : Comm) (c : Coll) : EngRes (List W32 × List W32) × State :=
  let (first, cnt) := shareOf c.kind c.n m.members.length m.rank c.root
  match collRead s w (c.base.toNat + 4 * first) [] cnt with
  | (.park, s) => (.park, s)
  | (.fail k j, s) => (.fail k j, s)
  | (.ok bs, s) =>
    if !reduces c.kind then (.ok (bs, []), s)
    else if !c.residual then (.ok (bs.map fun b => (addShare c.wire b 0).1, []), s)
    else
      let kept : EngRes (List W32) × State :=
        if m.tag = some (c.base, c.n) then collRead s w m.area.toNat [] c.n else (.ok (List.replicate c.n 0), s)
      match kept with
      | (.park, s) => (.park, s)
      | (.fail k j, s) => (.fail k j, s)
      | (.ok rs, s) =>
        let both := (bs.zip rs).map fun p => addShare c.wire p.1 p.2
        (.ok (both.map (·.1), both.map (·.2)), s)

/-! ### Data between the members (R379, R380) -/

/-- Words in one packet of collective data, and packets that may be unanswered towards a member (R377, R380). -/
def chunkWords : Nat := 512
def chunkLimit : Nat := 64

/-- The packets of a collective's data. -/
def collChunks (c : Coll) (xs : List W32) : List CollData :=
  (List.range (max 1 ((xs.length + chunkWords - 1) / chunkWords))).map fun i =>
    ⟨c.comm, c.c, c.kind, c.op, c.swa, c.wire, c.fxs, c.root, c.n, i * chunkWords, (xs.drop (i * chunkWords)).take chunkWords⟩

/-- Packets of collective data that a member has not answered. -/
def unanswered (s : State) (d : BitVec 16) : Nat := (s.fab.colldOut.filter fun p => p.dst == d).length

/-- Sends packets to a member while few enough are unanswered: how many of the list are sent in all. -/
def sendChunks (s : State) (asid d : BitVec 16) (sent : Nat) : List CollData → Nat × State
  | [] => (sent, s)
  | x :: t =>
    if chunkLimit ≤ unanswered s d then (sent, s)
    else
      let (tag, s) := freshTag s
      let (p, s) := sendPkt s 0x41#8 d asid tag (.colld x)
      sendChunks (s.modFab fun f => { f with colldOut := f.colldOut ++ [p] }) asid d (sent + 1) t

/-- Sends what the other members lack: the counts of packets sent by member, in rank order. -/
def sendAll (s : State) (asid : BitVec 16) (rank : Nat) (chunks : List CollData) :
    List (Nat × BitVec 16 × Nat) → List Nat × State
  | [] => ([], s)
  | (r, d, sent) :: t =>
    let (k, s) := if r = rank then (sent, s) else sendChunks s asid d sent (chunks.drop sent)
    let (ks, s) := sendAll s asid rank chunks t
    (k :: ks, s)

/-- The data of a member for a collective, as received. -/
def collFrom (s : State) (ctx : Nat) (c : Coll) (src : BitVec 16) : List CollIn :=
  s.fab.collIn.filter fun i => i.ctx == ctx && i.src == src && i.d.comm == c.comm && i.d.c == c.c

/-- A member's parameters differ from the part's own. -/
def paramsDiffer (c : Coll) (d : CollData) : Bool :=
  d.kind != c.kind || d.op != c.op || d.swa != c.swa || d.wire != c.wire || d.fxs != c.fxs || d.root != c.root || d.n != c.n

/-- Word k of what a member contributes. -/
def chunkWord (is_ : List CollIn) (k : Nat) : Option W32 :=
  is_.findSome? fun i => if i.d.off ≤ k then i.d.data[k - i.d.off]? else none

/-- What a member contributes, once all of it is here: cnt words. -/
def memberWords (is_ : List CollIn) (cnt : Nat) : Option (List W32) :=
  if is_.isEmpty then none
  else (List.range cnt).foldr (fun k acc => match chunkWord is_ k, acc with
    | some x, some l => some (x :: l)
    | _, _ => none) (some [])

/-- The contributions of every member in rank order, once all are here. -/
def allWords (s : State) (ctx : Nat) (m : Comm) (c : Coll) (own : List W32) : Option (List (List W32)) :=
  let p := m.members.length
  (m.members.zipIdx).foldr (fun q acc =>
    let mine := if q.2 = m.rank then some own
      else memberWords (collFrom s ctx c q.1) (shareOf c.kind c.n p q.2 c.root).2
    match mine, acc with
    | some x, some l => some (x :: l)
    | _, _ => none) (some [])

/-! ### The result (R391) -/

/-- The least or greatest of values as FMIN and FMAX give it. -/
def collMinMax (wantMax : Bool) (xs : List W32) : W32 :=
  match xs with
  | [] => 0
  | x :: t =>
    let r := t.foldl (fun a b => (minMax .f32 wantMax (zext64 a) (zext64 b)).val.setWidth 32) x
    if (f32Val r).isNaN then BitVec.ofNat 32 fmtF32.nanBits else r

/-- A value times 2^k. -/
def scaleBy (k : Int) (v : FVal) : FVal :=
  match v with
  | .fin n m e => .fin n m (e + k)
  | v => v

/-- Switch accumulation of values: the sum's wire value as .f32, and whether something saturated. -/
def switchSum (wire : BitVec 2) (fxs : Int) (xs : List W32) : W32 × Bool :=
  let big : Int := 2 ^ 63 - 1
  let z (x : W32) : Int × Bool :=
    let r := match scaleBy fxs (f32Val x) with
      | .fin n m e => (toIntRound .rne n m e).1
      | .inf n => if n then -(2 ^ 64) else 2 ^ 64
      | .nan _ => 0
    (max (-big) (min big r), decide (big < r ∨ r < -big))
  let (sum, sat) := xs.foldl (fun (a : Int × Bool) x =>
    let (v, k) := z x
    let t := a.1 + v
    (max (-big) (min big t), a.2 || k || decide (big < t ∨ t < -big))) (0, false)
  (toWire wire (signedMag sum (-fxs) false), sat)

/-- The result of a reduction of one element, and whether SWA saturated. granted: the switches accumulate; open_ is the result where
a NaN meets SWA, which the spec does not state. -/
def reduceOne (c : Coll) (granted : Bool) (open_ : W32) (xs : List W32) : W32 × Bool :=
  if c.op = 1#2 then (collMinMax false xs, false)
  else if c.op = 2#2 then (collMinMax true xs, false)
  else if c.swa && granted then
    (if xs.any fun x => (f32Val x).isNaN then (open_, false) else switchSum c.wire c.fxs.toInt xs)
  else (sumF32 (xs.map f32Val), false)

/-- The words that this part writes: the index of the first, the words, and SAT. -/
def collResult (s : State) (m : Comm) (c : Coll) (all : List (List W32)) : Nat × List W32 × Bool :=
  let p := m.members.length
  let red (lo n : Nat) : Nat × List W32 × Bool :=
    let rs := (List.range n).map fun (k : Nat) => reduceOne c m.grant ((freeAt s k).setWidth 32) (all.map fun l => l.getD (lo + k) 0)
    (lo, rs.map (·.1), rs.any (·.2))
  if c.kind = kAllreduce then red 0 c.n
  else if c.kind = kReduceScatter then red (m.rank * (c.n / p)) (c.n / p)
  else if c.kind = kAllgather then (0, all.flatten, false)
  else (0, all.getD c.root [], false)

/-- n words from an address on are made ready to be written. -/
def collReady (s : State) (w : Who) (va : Nat) : Nat → EngRes Unit × State
  | 0 => (.ok (), s)
  | n + 1 => match engPlace s w va with
    | (.ok _, s) => collReady s w (va + 4) n
    | (.fail c k, s) => (.fail c k, s)
    | (.park, s) => (.park, s)

/-- Writes words, of which i are written before: how many are written in all. -/
def collWrite (s : State) (w : Who) (i : Nat) : List (Nat × W32) → EngRes Unit × Nat × State
  | [] => (.ok (), i, s)
  | (va, x) :: t => match engWrite s w false va 0xF#4 x with
    | (.ok _, s) => collWrite (dropAsks s w.party) w (i + 1) t
    | (.fail c k, s) => (.fail c k, i, s)
    | (.park, s) => (.park, i, s)

/-- Buffer words made undefined where they can be written without a birth (R392). -/
def collSpoil (s : State) (w : Who) (va k : Nat) : Nat → State
  | 0 => s
  | n + 1 =>
    let s := match locate s w va .write false with
      | (.ok (.line key), s) => devWriteLoc s w.ctxNo (va / 4) (.line key) 0xF#4 ((freeAt s k).setWidth 32)
      | (.ok (.mem t pa wr ex), s) => devWriteLoc s w.ctxNo (va / 4) (.mem t pa wr ex) 0xF#4 ((freeAt s k).setWidth 32)
      | _ => s
    collSpoil s w (va + 4) (k + 1) n

/-! ### Completion -/

/-- A status word. -/
def collStatus (cause : Nat) (fell sat peer abort : Bool) : W64 :=
  let b (x : Bool) (n : Nat) : Nat := if x then 2 ^ n else 0
  BitVec.ofNat 64 (cause % 256 + b fell 8 + b sat 9 + b peer 10 + b abort 11)

/-- A collective of a group ends with a status; its received data is spent. -/
def collEnd (s : State) (g ctx : Nat) (c : Coll) (x : W64) : State :=
  (s.modGroup g fun G => G.setColl c.num fun c => { c with status := some x }).modFab fun f =>
    { f with collIn := f.collIn.filter fun i => !(i.ctx == ctx && i.d.comm == c.comm && i.d.c == c.c) }

/-- The elements that this part was to write: the first one and a count. -/
def collTarget (m : Comm) (c : Coll) : Nat × Nat :=
  let k := c.n / m.members.length
  if c.kind = kReduceScatter then (m.rank * k, k) else (0, c.n)

/-- A collective of a group fails: its buffer is undefined. -/
def collFail (s : State) (g : Nat) (w : Who) (m : Comm) (c : Coll) (x : W64) : State :=
  let (lo, n) := collTarget m c
  let s := (collSpoil s w (c.base.toNat + 4 * lo) 0 n).useFree n
  collEnd s g w.ctxNo c x

/-- The engine writes what a collective gives this part, at most so many words in one step, and then ends it. -/
def collPut (s : State) (g : Nat) (w : Who) (m : Comm) (c : Coll) (xs : List (Nat × W32)) (sat : Bool) (most : Nat) : State :=
  let fell := c.swa && !m.grant
  let put (i : Nat) (s : State) : State := s.modGroup g fun G => G.setColl c.num fun c => { c with wrote := i }
  match collWrite s w c.wrote ((xs.drop c.wrote).take most) with
  | (.fail k _, _, s) => collFail s g w m c (collStatus k fell false false false)
  | (.park, i, s) => put i s
  | (.ok _, i, s) =>
    if i < xs.length then put i s
    else
      let s := if reduces c.kind then s.modComm w.ctxNo m.idx fun m => { m with tag := some (c.base, c.n) } else s
      collEnd s g w.ctxNo c (collStatus 0 fell sat false false)

/-- A group's stores that are not visible yet: a collective's engine reads and sends behind them (R269, R393). -/
def storesWait (s : State) (g : Nat) : Bool := s.sq.any fun w => w.group == g

/-- The words of a list with their addresses from one on. -/
def atWords (va : Nat) (xs : List W32) : List (Nat × W32) := xs.zipIdx.map fun p => (va + 4 * p.2, p.1)

/-- The engine reads and sends the part's share of a collective once. When every member's data is here, it makes the places of the result ready
and writes it. -/
def collStart (s : State) (g : Nat) (w : Who) (m : Comm) (c : Coll) (most : Nat) : State :=
  let fell := c.swa && !m.grant
  let fail (k : Cause) (s : State) : State := collFail s g w m c (collStatus k fell false false false)
  let others := m.members.zipIdx.filter fun q => q.2 != m.rank
  let share : EngRes (List W32 × List W32) × State := match c.own with
    | some xs => (.ok (xs, c.resid), s)
    | none => if storesWait s g then (.park, s) else collShare s w m c
  match share with
  | (.park, s) => s
  | (.fail k _, s) => fail k s
  | (.ok (own, resid), s) =>
    let s := dropAsks s w.party
    let sent := (m.members.zipIdx).map fun q => (q.2, q.1, c.sent.getD q.2 0)
    let (ks, s) := sendAll s w.ctx.asid m.rank (collChunks c own) sent
    let s := s.modGroup g fun G => G.setColl c.num fun c => { c with own := some own, resid := resid, sent := ks }
    if others.any fun q => (collFrom s w.ctxNo c q.1).any fun i => paramsDiffer c i.d then
      collEnd s g w.ctxNo c (collStatus cRECORD fell false false false)
    else match allWords s w.ctxNo m c own with
      | none => s
      | some all =>
        let (lo, xs, sat) := collResult s m c all
        let va := c.base.toNat + 4 * lo
        match collReady s w va xs.length with
        | (.park, s) => s
        | (.fail k _, s) => fail k s
        | (.ok _, s) =>
          match collReady s w m.area.toNat resid.length with
          | (.park, s) => s
          | (.fail k _, s) => fail k s
          | (.ok _, s) =>
            let out := atWords va xs ++ atWords m.area.toNat resid
            collPut ((s.useFree c.n).modGroup g fun G => G.setColl c.num fun c => { c with out := some (out, sat) }) g w m c out sat most

/-- The engine works on a collective of a group: on its result where that is known. -/
def collRun (s : State) (g : Nat) (w : Who) (m : Comm) (c : Coll) (most : Nat) : State := match c.out with
  | some (xs, sat) => collPut s g w m c xs sat most
  | none => collStart s g w m c most

/-- The collective of a group that a number names and that runs. -/
def runningColl (G : Group) (num : BitVec 8) : Option Coll :=
  G.eng.colls.find? fun c => c.num % 256 == num.toNat && c.status.isNone

/-- COLLECTIVE_COMPLETE (R391 to R393). -/
def execCollectiveComplete (g : Nat) (num : BitVec 8) (e : CollEnd) (s : State) : Host.Outcome State Fault Refusal :=
  match s.group? g with
  | none => .fault .notEnabled
  | some G =>
    match runningColl G num, s.ctxOf G with
    | some c, some ctx =>
      match commOf ctx c.comm, engWho s (.coll g c.num) g G.loc.coreId G.bind.ctx with
      | some m, some w =>
        let fell := c.swa && !m.grant
        match e with
        | .data => .next (collRun s g w m c (2 ^ 29))
        | .part most => .next (collRun s g w m c most)
        | .peer k =>
          .next (if k = cRECORD then collEnd s g w.ctxNo c (collStatus k fell false true false)
            else collFail s g w m c (collStatus k fell false true false))
        | .abort => .next (collFail s g w m c (collStatus 0 fell false true true))
      | _, _ => .fault .notEnabled
    | _, _ => .fault .notEnabled

end Sys2Proof.Machine
end

