-- ==== Sys2Proof/Machine/Launch.lean ====
section
/-! DEFINITION. Launch records and graphs: their checks and their acceptance, LAUNCH, and the item queues
(spec/05_slots_and_launches.md R96 to R98, R102 to R107, R114, R115). -/

namespace Sys2Proof.Machine

/-! ### Launch records (R96, R97) -/

/-- A double of a list of words. -/
def dblAt (w : List W32) (i : Nat) : W64 := w.getD (i + 1) 0 ++ w.getD i 0

/-- Dependence k of a record: its address and its required value. -/
def depAt (w : List W32) (k : Nat) : W64 × W32 := (dblAt w (18 + 3 * k), w.getD (20 + 3 * k) 0)

/-- NDEP of a record. -/
def launchNdep (w : List W32) : Nat := bitsOf (w.getD 0 0).toNat 18 16

/-- A record by field. -/
def parseLaunch (w : List W32) : LaunchRec :=
  let at_ (i hi lo : Nat) : Nat := bitsOf (w.getD i 0).toNat hi lo
  { prio := at_ 0 23 21, disc := at_ 0 20 20 == 1, openq := at_ 0 19 19 == 1, cbh := at_ 0 15 14
    teams := at_ 1 23 0, cores := at_ 2 31 28, cgroups := at_ 2 27 19, pgroups := at_ 2 18 10
    cregs := at_ 3 31 22, pregs := at_ 3 21 12, banks := at_ 4 31 26, items := at_ 5 31 0
    sbase := dblAt w 6, lbase := dblAt w 8, dbase := dblAt w 10, centry := w.getD 12 0, pentry := w.getD 13 0
    donea := dblAt w 14, donev := w.getD 16 0
    deps := (List.range (launchNdep w)).map (depAt w) }

/-- Malformed header: code 0x01. -/
def launchMalformed (w : List W32) : Bool :=
  let at_ (i hi lo : Nat) : Nat := bitsOf (w.getD i 0).toNat hi lo
  at_ 0 31 24 != 1 || decide (4 < launchNdep w) || at_ 0 15 14 == 3 || at_ 0 13 0 != 0 || at_ 1 31 24 != 0 || at_ 2 9 0 != 0 ||
  at_ 3 11 0 != 0 || at_ 4 25 0 != 0 || at_ 17 31 0 != 0 || at_ 30 31 0 != 0 || at_ 31 31 0 != 0 ||
  ((List.range 4).any fun k => decide (launchNdep w ≤ k) && depAt w k != (0, 0))

/-- Impossible shape: code 0x02. -/
def launchShapeBad (r : LaunchRec) : Bool :=
  r.teams == 0 || !decide (1 ≤ r.cores ∧ r.cores ≤ 8) || !decide (1 ≤ r.cgroups ∧ r.cgroups ≤ 384) || decide (383 < r.pgroups) ||
  !decide (1 ≤ r.cregs ∧ r.cregs ≤ 768) || decide (32 < r.banks) ||
  decide (384 < r.cgroups + r.pgroups) || decide (48 * r.cores < r.cgroups + r.pgroups) ||
  (if r.pgroups = 0 then r.pregs != 0 || r.pentry != 0 else !decide (1 ≤ r.pregs ∧ r.pregs ≤ 768))

/-- An address is not a multiple of n, or not below 2^56. -/
def addrBad (n : Nat) (a : W64) : Bool := a.toNat % n != 0 || decide (2 ^ 56 ≤ a.toNat)

/-- Misaligned or out of range: code 0x03. -/
def launchAddrBad (r : LaunchRec) : Bool :=
  addrBad 4 r.sbase || addrBad 16 r.lbase || addrBad 128 r.dbase || addrBad 4 (zext64 r.centry) || addrBad 4 (zext64 r.pentry) ||
  addrBad 4 r.donea || r.deps.any fun d => addrBad 4 d.1

/-- A launch holds its table entry: it has not completed or, as a graph node, its instance exists (R98). -/
def Launch.holds (s : State) (l : Launch) : Bool :=
  match l.inst with
  | none => l.st == .accepted
  | some (n, _) => match s.graphs[n]? with
    | some i => !i.ended
    | none => false

/-- The entries of a context's launch table in use, by index. -/
def usedEntries (s : State) (ctx : Nat) : List Nat := (s.launches.filter fun l => l.ctx == ctx && l.holds s).map (·.idx)

/-- How many they are (R98). -/
def launchesHeld (s : State) (ctx : Nat) : Nat := (usedEntries s ctx).length

/-- The lowest n free entries of a context's launch table. DESIGN CHOICE (log 108): the spec does not say which entry a launch takes. -/
def freeEntries (s : State) (ctx n : Nat) : List Nat :=
  let used := usedEntries s ctx
  ((List.range 1024).filter fun k => !used.contains k).take n

/-- Quadrants of a tenant on a core. -/
def quadsOn (t : Tenant) (core : Nat) : Nat := (t.rcd.quads.filter fun q => q / 4 == core).length

/-- Slots of a tenant on its best n cores of a cluster. -/
def clusterSlots (t : Tenant) (cluster n : Nat) : Nat :=
  let qs := sortBy (fun a b => decide (b ≤ a)) ((List.range 64).map fun k => quadsOn t (64 * cluster + k))
  12 * (qs.take n).foldl (· + ·) 0

/-- One team needs more than the tenant's partition holds: code 0x05. -/
def launchTooBig (t : Tenant) (r : LaunchRec) : Bool :=
  decide (t.rcd.banks < r.banks) ||
  (List.range 8).all fun k => decide (clusterSlots t k r.cores < r.cgroups + r.pgroups)

/-- A tenant is under an eviction deadline, or was vacated under one (R364). -/
def Tenant.vacating (t : Tenant) : Bool := t.req.isSome || t.phase != 0

/-- The refusal code of a record, 0 for none (R97). more counts table entries that must be free. -/
def launchCode (s : State) (ctx : Nat) (w : List W32) (more : Nat) : Nat :=
  let r := parseLaunch w
  if launchMalformed w then 1
  else if launchShapeBad r then 2
  else if launchAddrBad r then 3
  else if 1024 < launchesHeld s ctx + more then 4
  else match tenantOf s ctx with
    | none => 5
    | some t => if launchTooBig t r then 5 else if t.vacating then 6 else 0

/-- The number that the next accepted launch or graph instance of a context gets (R107). -/
def nextLaunch (s : State) (ctx : Nat) : W64 := match s.contexts[ctx]? with
  | some c => c.launchSeq
  | none => 0

/-- A launch entry. -/
def launchEntry (s : State) (ctx idx : Nat) (seq : W64) (r : LaunchRec) (inst : Option (Nat × Nat)) : Launch :=
  ⟨ctx, idx, seq, r, r.deps.map fun _ => false, r.deps.map fun _ => false, inst, 0, 0, s.cycle, .accepted, false⟩

/-- A context's count of accepted launches and instances raised. -/
def bumpLaunch (s : State) (ctx : Nat) : State := s.modCtx ctx fun c => { c with launchSeq := c.launchSeq + 1 }

/-- A record checked and launched: its code, its number, and the state. -/
def submitLaunch (s : State) (ctx : Nat) (w : List W32) : Nat × W64 × State :=
  let code := launchCode s ctx w 1
  let seq := nextLaunch s ctx
  let idx := (freeEntries s ctx 1).headD 0
  if code = 0 then (0, seq, bumpLaunch { s with launches := s.launches ++ [launchEntry s ctx idx seq (parseLaunch w) none] } ctx)
  else (code, seq, s)

/-! ### Graphs (R102 to R104) -/

/-- Firmware as an accessor without the fault service. -/
def firmware (c : Context) (ctx : Nat) : Who := ⟨.firmware, 0, 0, ctx, { c with xlctl := c.xlctl ||| 0x2#7 }, none, none⟩

/-- Reads n words as firmware: none for a fault or an uncorrectable word. -/
def fwWords (s : State) (w : Who) (va : Nat) (n : Nat) : Option (List W32) × State :=
  match collRead s w va [] n with
  | (.ok ws, s) => (some ws, s)
  | (_, s) => (none, s)

/-- NODES and EDGES of a header. -/
def graphNodes (h : List W32) : Nat := bitsOf (h.getD 1 0).toNat 8 0
def graphEdges (h : List W32) : Nat := bitsOf (h.getD 2 0).toNat 12 0

/-- A header with a wrong kind or a reserved bit: code 0x01. -/
def graphMalformed (h : List W32) : Bool :=
  let at_ (i hi lo : Nat) : Nat := bitsOf (h.getD i 0).toNat hi lo
  at_ 0 31 24 != 2 || at_ 0 23 21 != 0 || at_ 0 19 0 != 0 || at_ 1 31 9 != 0 || at_ 2 31 13 != 0 || at_ 3 31 0 != 0 ||
  (h.drop 11).any (· != 0)

/-- A header field out of range: code 0x07. -/
def graphRangeBad (h : List W32) : Bool :=
  !decide (1 ≤ graphNodes h ∧ graphNodes h ≤ 256) || decide (4096 < graphEdges h) || addrBad 128 (dblAt h 4) || addrBad 4 (dblAt h 6)

/-- Instances of a context that have not ended. -/
def graphsHeld (s : State) (ctx : Nat) : Nat := (s.graphs.filter fun i => i.ctx == ctx && !i.ended).length

/-- Drops, n times, the nodes that no remaining node precedes. -/
def peelNodes (edges : List (Nat × Nat)) : Nat → List Nat → List Nat
  | 0, ns => ns
  | n + 1, ns => peelNodes edges n (ns.filter fun v => edges.any fun e => e.2 == v && ns.contains e.1)

/-- Edges name nodes, join no node to itself, and form no cycle. -/
def edgesGood (nodes : Nat) (edges : List (Nat × Nat)) : Bool :=
  (edges.all fun e => decide (e.1 < nodes ∧ e.2 < nodes ∧ e.1 ≠ e.2)) && (peelNodes edges nodes (List.range nodes)).isEmpty

/-- The code of a header on its own, the first that applies (R97, R103). -/
def graphCode (s : State) (ctx : Nat) (h : List W32) : Nat :=
  if graphMalformed h then 1
  else if addrBad 4 (dblAt h 8) then 3
  else if 64 ≤ graphsHeld s ctx ∨ 1024 < launchesHeld s ctx + graphNodes h then 4
  else match tenantOf s ctx with
    | none => 5
    | some t => if t.vacating then 6 else if graphRangeBad h then 7 else 0

/-- A graph instance created from its header, nodes and edges. -/
def addGraph (s : State) (ctx : Nat) (hdr : W64) (h : List W32) (nodes : List (List W32)) (edges : List (Nat × Nat)) : State :=
  let seq := nextLaunch s ctx
  let i := s.graphs.length
  let base := s.launches.length
  let free := freeEntries s ctx nodes.length
  let entries := nodes.zipIdx.map fun p => launchEntry s ctx (free.getD p.2 0) seq (parseLaunch p.1) (some (i, p.2))
  let inst : GraphInst := ⟨ctx, seq, hdr, (h.getD 0 0).getLsbD 20, (List.range nodes.length).map (base + ·), edges, dblAt h 8,
    h.getD 10 0, false, false⟩
  bumpLaunch { s with launches := s.launches ++ entries, graphs := s.graphs ++ [inst] } ctx

/-- n bytes from an address lie in the range that firmware may read, where there is one (R386). -/
def inRange (lim : Option (Nat × Nat)) (va n : Nat) : Bool :=
  match lim with
  | none => true
  | some (lo, hi) => decide (n = 0 ∨ (lo ≤ va ∧ va + n ≤ hi))

/-- The elements of an array, of k words each, that firmware reads in order up to the first that it cannot read or that lies outside a
registered range; whether it has read all n. -/
def fwArray (s : State) (w : Who) (lim : Option (Nat × Nat)) (k va : Nat) : Nat → (List (List W32) × Bool) × State
  | 0 => (([], true), s)
  | n + 1 =>
    if inRange lim va (4 * k) then match fwWords s w va k with
      | (none, s) => (([], false), s)
      | (some r, s) =>
        let ((rs, ok), s) := fwArray s w lim k (va + 4 * k) n
        ((r :: rs, ok), s)
    else (([], false), s)

/-- An edge word. -/
def edgeOf (e : W32) : Nat × Nat := (bitsOf e.toNat 31 16, bitsOf e.toNat 15 0)

/-- The code that a graph's arrays give it, as far as they have been read: 7 comes before 8 (R97, R103). -/
def arraysCode (s : State) (ctx n : Nat) (nodes : List (List W32) × Bool) (es : List (List W32) × Bool) : Nat :=
  let nodeBad := nodes.1.any fun r => launchCode s ctx r n != 0
  let edgeBad := !edgesGood n (es.1.flatten.map edgeOf)
  if nodeBad || edgeBad then 7 else if nodes.2 && es.2 then 0 else 8

/-- A header read from an address checked and launched: its code, its number, and the state. lim is the range in which its arrays must lie,
for one from a launch queue. -/
def submitGraph (lim : Option (Nat × Nat)) (s : State) (ctx : Nat) (hdr : W64) (h : List W32) : Nat × W64 × State :=
  let seq := nextLaunch s ctx
  match graphCode s ctx h, s.contexts[ctx]? with
  | 0, some c =>
    let (nodes, s) := fwArray s (firmware c ctx) lim 32 (dblAt h 4).toNat (graphNodes h)
    let (es, s) := fwArray s (firmware c ctx) lim 1 (dblAt h 6).toNat (graphEdges h)
    match arraysCode s ctx (graphNodes h) nodes es with
    | 0 => (0, seq, addGraph s ctx hdr h nodes.1 (es.1.flatten.map edgeOf))
    | k => (k, seq, s)
  | 0, none => (5, seq, s)
  | k, _ => (k, seq, s)

/-! ### LAUNCH (R107) -/

/-- What a launch returns. -/
def launchResult (code : Nat) (seq : W64) : W64 := if code = 0 then seq else BitVec.ofNat 64 (2 ^ 63 + code)

/-- LAUNCH and LAUNCH.graph. -/
def launchIssue (s : State) (d a : SReg) (submit : State → Nat → W64 → List W32 → Nat × W64 × State) :
    Host.Outcome State Fault Refusal :=
  runScalar s fun g G =>
    let x := G.sreg a
    if x.toNat % 128 ≠ 0 then .trap s (.at cALIGN 0 x)
    else whenLaneIdle s g G <| whenVisible s g .device <|
      match whoScalar s g G with
      | none => .wait s
      | some w => match readWordsAt s w (scalarDbg G) G.sc.spc x.toNat 32 with
        | (.wait, s) => .wait s
        | (.raise r, s) => .trap s r
        | (.ok ws, s) =>
          let (code, seq, s) := submit s G.bind.ctx x ws
          .done (s.modGroup g fun G => G.setS d (launchResult code seq)) G.nextPc

def execLaunch (d a : SReg) (s : State) : Host.Outcome State Fault Refusal :=
  launchIssue s d a fun s ctx _ ws => submitLaunch s ctx ws
def execLaunchGraph (d a : SReg) (s : State) : Host.Outcome State Fault Refusal := launchIssue s d a (submitGraph none)

/-! ### Item queues (R115) -/

/-- Runs k on the item queue of the group, or raises ILL where its launch has no items. -/
def withQueue (s : State) (G : Group) (k : ItemQueue → SRes) : SRes :=
  if !hasItems s G then .trap s (.plain cILL)
  else match s.teamOf G with
    | none => .trap s (.plain cILL)
    | some t => k ((itemQueue t G.loc.coreId).getD ⟨G.loc.coreId, [], true⟩)

def execItemqPut (d a b : SReg) (s : State) : Host.Outcome State Fault Refusal :=
  runScalar s fun g G => withQueue s G fun q =>
    let x := G.sreg a
    let y := G.sreg b
    if 2 ^ 32 < x.toNat % 2 ^ 32 + y.toNat % 2 ^ 32 ∨ 2 ^ 32 ≤ x.toNat ∨ 2 ^ 32 ≤ y.toNat then .trap s (.plain cILL)
    else if y = 0 then sWrite s g G d 1
    else if q.closed || decide (16 ≤ q.ranges.length) then sWrite s g G d 0
    else
      let q' : ItemQueue := { q with ranges := q.ranges ++ [(x.setWidth 32, y.setWidth 32)] }
      sWrite (s.setQueue G.bind.team q') g G d 1

def execItemqCount (d : SReg) (s : State) : Host.Outcome State Fault Refusal :=
  runScalar s fun g G => withQueue s G fun q =>
    sWrite s g G d (BitVec.ofNat 64 (q.ranges.foldl (fun n r => n + r.2.toNat) 0))

def execItemqClose (s : State) : Host.Outcome State Fault Refusal :=
  runScalar s fun _ G => withQueue s G fun q => .done (s.setQueue G.bind.team { q with closed := true }) G.nextPc

end Sys2Proof.Machine
end

