-- ==== Sys2Proof/Machine/Deeds.lean ====
section
/-! DEFINITION. Deeds (GIVE, TAKE, DEEDQ), ERASE and XPROBE (spec/08_scratchpad_and_copies.md R175 to R180;
spec/14_existence_tiles.md R309 to R311). -/

namespace Sys2Proof.Machine

/-! ### Enabled units (R18, R22, R397) -/

/-- A core of the part is enabled; a quadrant is. -/
def coreOn (s : State) (core : Nat) : Bool := configBit s 32 core
def quadOn (s : State) (quad : Nat) : Bool := configBit s 96 quad

/-! ### Handles (R175) -/

/-- The fields of a handle. -/
def hSeq (h : W64) : BitVec 8 := h.extractLsb' 24 8
def hOrigin (h : W64) : Nat := bitsOf h.toNat 23 18
def hFirst (h : W64) : Nat := bitsOf h.toNat 17 13
def hCount (h : W64) : Nat := bitsOf h.toNat 12 7

/-- The handle of a deed. -/
def Deed.handle (d : Deed) : W64 :=
  BitVec.ofNat 64 (d.serial.toNat * 2 ^ 24 + d.origin % 64 * 2 ^ 18 + d.first * 2 ^ 13 + d.count * 2 ^ 7)

/-- A handle names a deed of a cluster and a context. -/
def Deed.named (d : Deed) (cluster ctx : Nat) (h : W64) : Bool :=
  clusterOf d.origin == cluster && d.ctx == ctx && d.handle == h

/-- The next serial of a core: 1 to 255, past the last one, skipping those of deeds that are not dissolved. -/
def nextSerial (s : State) (core : Nat) : BitVec 8 :=
  let last := match s.serials.find? fun p => p.1 == core with
    | some p => p.2.toNat
    | none => 0
  let used := (s.deeds.filter fun d => d.origin == core).map fun d => d.serial.toNat
  match ((List.range 255).map fun k => (last + k) % 255 + 1).find? fun x => !used.contains x with
  | some x => BitVec.ofNat 8 x
  | none => 0

/-- The scratchpad ranges of banks of a team on a core. -/
def bankRanges (t : Team) (core first count : Nat) : List (Nat × Nat) :=
  (⟨core, teamBanks t core⟩ : SpadView).ranges (first * bankBytes) (count * bankBytes)

/-- The ranges of n bytes at a scratchpad address that a team may have named on a core, whatever deeds have closed since. -/
def namedRanges (s : State) (team core : Nat) (p : W32) (n : Nat) : List (Nat × Nat) :=
  let of (t core : Nat) : List (Nat × Nat) := match s.teams[t]? with
    | some t => (⟨core, teamBanks t core⟩ : SpadView).ranges (spadOff p) n
    | none => []
  if p.getLsbD 25 then
    let origin := core / 64 * 64 + bitsOf p.toNat 24 19
    (s.deeds.filter fun d => d.origin == origin && d.st == .held team core).flatMap fun d => of d.creator d.core
  else of team core

/-- The ranges that a copy reads or writes. -/
def copyRanges (s : State) (c : Cmd) (team : Nat) : List (Nat × Nat) :=
  match c.kind with
  | .copyLd p _ sz => namedRanges s team c.core p (boxBytes c.rcd sz)
  | .copySt p _ sz => namedRanges s team c.core p (boxBytes c.rcd sz)
  | _ => []

/-- A copy of a group that meets ranges has not completed. -/
def copiesMeet (s : State) (g team : Nat) (rs : List (Nat × Nat)) : Bool :=
  s.cmds.any fun c => c.group == g && !c.ended && listsMeet (copyRanges s c team) rs

/-- A refusal of GIVE. -/
def giveCode (n : Nat) : W64 := BitVec.ofNat 64 (2 ^ 63 + n)

/-- What GIVE finds: a refusal, or the deed with its old entry in the list, if any, and whether it is new. -/
def giveFind (s : State) (G : Group) (t : Team) (h : W64) : Nat ⊕ (Deed × Bool) :=
  let core := G.loc.coreId
  let team := G.bind.team
  if hSeq h = 0 then
    if hOrigin h ≠ core % 64 ∨ (teamBanks t core).length < hFirst h + hCount h then .inl 1
    else if s.deeds.any fun d => d.core == core && d.creator == team &&
        decide (hFirst h < d.first + d.count ∧ d.first < hFirst h + hCount h) then .inl 2
    else if 16 ≤ (s.deeds.filter fun d => d.origin == core).length then .inl 3
    else .inr (⟨core, core, nextSerial s core, hFirst h, hCount h, G.bind.ctx, team, .transit core⟩, true)
  else match s.deeds.find? fun d => d.named G.loc.clusterId G.bind.ctx h && d.st == .held team core with
    | some d => .inr (d, false)
    | none => .inl 1

/-- GIVE. DESIGN CHOICE (log 97): while it waits, its refusals are looked for again at each try. -/
def execGive (d a b : SReg) (s : State) : Host.Outcome State Fault Refusal :=
  runScalar s fun g G =>
    let h := G.sreg a
    let t := G.sreg b
    let core := G.loc.coreId
    let target := core / 64 * 64 + t.toNat
    if bitsOf h.toNat 63 32 ≠ 0 ∨ bitsOf h.toNat 6 0 ≠ 0 ∨ hCount h = 0 then .trap s (.plain cILL)
    else if 64 ≤ t.toNat ∨ coreOn s target = false ∨ target = core then sWrite s g G d (giveCode 4)
    else match s.teamOf G with
      | none => .trap s (.plain cILL)
      | some team => match giveFind s G team h with
        | .inl k => sWrite s g G d (giveCode k)
        | .inr (e, new) =>
          let owner := (s.teams[e.creator]?).getD team
          let rs := bankRanges owner e.core e.first e.count
          whenLaneIdle s g G <| if copiesMeet s g G.bind.team rs then .wait s
            else whenVisible s g .cluster <|
              let e' : Deed := { e with st := .transit target }
              let s := { s with
                deeds := s.deeds.filter (fun x => x != e) ++ [e']
                serials := if new then (core, e.serial) :: s.serials.filter (fun p => p.1 != core) else s.serials }
              sWrite (padRelease (padDrop s (.deed e'.handle)) g (.deed e'.handle)) g G d e'.handle

/-- The deed that TAKE accepts. DESIGN CHOICE (log 95): the oldest one in transit is the one whose last GIVE is the oldest. -/
def takeFind (s : State) (G : Group) (h : W64) : Option Deed :=
  s.deeds.find? fun d => d.ctx == G.bind.ctx && d.st == .transit G.loc.coreId && (h == 0 || d.named G.loc.clusterId G.bind.ctx h)

/-- TAKE: a deed comes home to its creating team on the core where its banks lie (log 119), and goes to any other team. -/
def execTake (d a : SReg) (s : State) : Host.Outcome State Fault Refusal :=
  runScalar s fun g G =>
    match takeFind s G (G.sreg a) with
    | none => sWrite s g G d 0
    | some e =>
      let s := if e.core = G.loc.coreId ∧ e.creator = G.bind.team then { s with deeds := s.deeds.filter fun x => x != e }
        else { s with deeds := s.deeds.map fun x => if x = e then { x with st := .held G.bind.team G.loc.coreId } else x }
      sWrite (padDrop (acquired s g (· == .deed e.handle)) (.deed e.handle)) g G d e.handle

/-- The word of DEEDQ. DESIGN CHOICE (log 96): a deed that the calling team holds on another core reads as 3, for state 1 asks for the
calling core. -/
def deedWord (G : Group) (e : Deed) : W64 :=
  match e.st with
  | .transit c => BitVec.ofNat 64 (2 + c % 64 * 2 ^ 8)
  | .held t c => BitVec.ofNat 64 ((if t = G.bind.team ∧ c = G.loc.coreId then 1 else 3) + c % 64 * 2 ^ 8)

def execDeedq (d a : SReg) (s : State) : Host.Outcome State Fault Refusal :=
  runScalar s fun g G =>
    match s.deeds.find? fun e => e.named G.loc.clusterId G.bind.ctx (G.sreg a) with
    | none => sWrite s g G d 0
    | some e => sWrite s g G d (deedWord G e)

/-! ### ERASE and XPROBE (R309 to R311) -/

/-- A fault of the scalar stream at an address. -/
def scalarFault (s : State) (w : Who) (va : Nat) (f : XFault) : SRes :=
  match faultRes s w va f with
  | (.raise c k, s) => .trap s (.xlat c k va)
  | (_, s) => .wait s

/-- A committed store to a tile that is not performed yet holds it (R310). -/
def tileHeld (s : State) (key ex : Nat) : Bool :=
  (s.sq.any fun w => w.stage == 0 && decide (key ≤ w.key ∧ w.key < key + 1024)) || s.psets.any fun e => e.hold.contains ex

/-- Every cached word of a tile is dropped unwritten, with the performed stores that are on their way there. -/
def dropTile (s : State) (key : Nat) : State :=
  let s := dropWaiting (discardRange s key 1024) key 1024
  { s with sq := s.sq.filter fun w => !(w.stage != 0 && decide (key ≤ w.key ∧ w.key < key + 1024)) }

/-- The tile at an address made absent: r, or the fault of an uncorrectable word of its pool. -/
def eraseTile (s : State) (ctxNo : Nat) (c : Context) (va ex : Nat) (frame : Option Nat) (r : BitVec 8) (key : Nat) :
    Option W64 × State :=
  match frame with
  | none => (some 0, recordSectors (dropTile s key) ctxNo (va / 4096 * 4096) 32)
  | some f => match poolReturn s c r (BitVec.ofNat 27 (f / 4096)) with
    | (false, s) => (none, s)
    | (true, s) =>
      let s := dramWrite64 (dropTile s key) ex (zext64 r <<< 48)
      (some 1, recordSectors s ctxNo (va / 4096 * 4096) 32)

def execErase (d a : SReg) (s : State) : Host.Outcome State Fault Refusal :=
  runLogged s [a] fun g G =>
    let x := G.sreg a
    let va := x.toNat
    if 2 ^ 56 ≤ va then .trap s (.at cXLAT 4 x)
    else if va % 4096 ≠ 0 then .trap s (.at cALIGN 0 x)
    else match whoScalar s g G with
      | none => .wait s
      | some w => match xlate s w.ctx va .write with
        | (.fault f, s) => scalarFault s w va f
        | (.ok l big, s) =>
          let key := lineKey (leafTag w.ctx.asid l) (va / 4)
          if leafSparse l = false then .trap s (.plain cILL)
          else
            let ex := mapEntry l big va
            let finish (frame : Option Nat) (r : BitVec 8) (s : State) : SRes :=
              match eraseTile s w.ctxNo w.ctx va ex frame r key with
              | (some y, s) => .done (s.modGroup g fun G => G.setS d y) G.nextPc
              | (none, s) => scalarFault s w va (.under 3 l big)
            if tileHeld s key ex then .wait s
            else match readExist s w.ctx ex big with
            | (.fault k, s) => scalarFault s w va (.under k l big)
            | (.present f r, s) => finish (some f) r s
            | (.absent r, s) => finish none r s

def execXprobe (d a : SReg) (s : State) : Host.Outcome State Fault Refusal :=
  runLogged s [a] fun g G =>
    let x := G.sreg a
    let va := x.toNat
    if 2 ^ 56 ≤ va then .trap s (.at cXLAT 4 x)
    else match whoScalar s g G with
      | none => .wait s
      | some w => match xlate s w.ctx va .read with
        | (.fault f, s) => scalarFault s w va f
        | (.ok l big, s) =>
          if leafSparse l = false then .done (s.modGroup g fun G => G.setS d 2) G.nextPc
          else
            let finish (present : Bool) (r : BitVec 8) (s : State) : SRes :=
              .done (s.modGroup g fun G =>
                ({ G with wait := { G.wait with region := some r } }).setS d
                  (BitVec.ofNat 64 (r.toNat * 256 + if present then 1 else 0))) G.nextPc
            match readExist s w.ctx (mapEntry l big va) big with
            | (.fault k, s) => scalarFault s w va (.under k l big)
            | (.present _ r, s) => finish true r s
            | (.absent r, s) => finish false r s

end Sys2Proof.Machine
end

