-- ==== Sys2Proof/Machine/Leave.lean ====
section
/-! DEFINITION. How groups and teams end: EXIT, removal, and the discard of a queue or a context
(spec/05_slots_and_launches.md R109, R112; spec/07 R163, R167; spec/08 R180, R196; spec/09 R209, R221; spec/10 R228; spec/11 R259; spec/17
R369; spec/18 R393). -/

namespace Sys2Proof.Machine

/-! ### The compute-bound hint (R228) -/

/-- The hints of the launches of the bound teams. -/
def boundHints (s : State) : List Nat := (s.teams.filter fun t => !t.ended).map fun t => match s.launches[t.launch]? with
  | some l => l.rcd.cbh
  | none => 0

/-- CB as firmware evaluates it, given whether the stack's read beats stay below 10 % of their peak. -/
def cbOf (s : State) (below10 : Bool) : Bool := !(boundHints s).contains 2 && ((boundHints s).all (· == 1) || below10)

/-- CB of every stack evaluated, as at a team commit or a team end. What firmware measures then is no state: an undefined value. -/
def evalCb (s : State) : State :=
  let below10 := freeAt s 0
  { s with stks := Vector.ofFn fun i => { s.stks[i] with cb := cbOf s (below10.getLsbD i.val) } }.useFree 1

/-! ### Meetings and teams -/

/-- The quad meetings, not yet started, of a group. -/
def quadOf (s : State) (g : Nat) : List (Nat × QMeet) :=
  (s.qmeets.zipIdx.filter fun p => !p.1.started && !p.1.ended && p.1.members.any fun m => m.2.1 == g).map fun p => (p.2, p.1)

/-- A quad meeting dissolved (R209): every member's operation completes without effect. -/
def dissolveQuad (s : State) (n : Nat) (m : QMeet) : State :=
  let s := { s with qmeets := s.qmeets.modify n fun m => { m with ended := true } }
  m.members.foldl (fun s x => s.modGroup x.2.1 fun G => G.setOp x.2.2 fun o => { o with st := .dissolved }) s

/-- A group leaves its quad meetings. -/
def leaveQuads (s : State) (g : Nat) : State := (quadOf s g).foldl (fun s p => dissolveQuad s p.1 p.2) s

/-- The deeds of a team end (R180). -/
def endDeeds (s : State) (team : Nat) : State :=
  { s with deeds := s.deeds.filter fun d => !(d.creator == team || match d.st with
      | .held t _ => t == team
      | .transit _ => false) }

/-- The teams of a queue that have not ended (R366). -/
def teamsIn (s : State) (ctx prio : Nat) : List Nat :=
  (s.teams.zipIdx.filter fun p => p.1.ctx == ctx && !p.1.ended && match s.launches[p.1.launch]? with
    | some l => l.rcd.prio == prio
    | none => false).map (·.2)

/-- A RUN queue whose last team has exited: its tail is ready to stream (R369). -/
def QPlan.ran (s : State) (q : QPlan) : QPlan :=
  if q.choice = .run ∧ q.settled = false ∧ q.outcome = none ∧ teamsIn s q.ctx q.prio = [] then
    { q with settled := true, readyAt := s.cycle.toNat }
  else q

/-- The plans with the RUN queues that have finished marked. -/
def settleRuns (s : State) : State := { s with tenants := s.tenants.map fun t => { t with plan := t.plan.map (QPlan.ran s) } }

/-- A team ends once every group of it is gone (R109). -/
def settleTeam (s : State) (team : Nat) : State :=
  match s.teams[team]? with
  | none => s
  | some t =>
    let isGone (g : Nat) : Bool := match s.group? g with
      | some G => G.gone
      | none => true
    if t.groups.all isGone = true then
      settleRuns (evalCb (endDeeds (s.modTeam team fun t => { t with ended := true }) team))
    else s

/-- The rows of a group that has ended released, but for those that operations in flight pin; its completed operations leave nothing behind
(R109, R207, R214). -/
def Group.freeRows (G : Group) : Group :=
  let ops := G.eng.mops.filter fun m => m.st == .flight
  let keep := ops.flatMap MOp.regs
  let left (r : Fin 128) : VReg := if keep.contains (BitVec.ofNat 7 r.val) then G.vreg (BitVec.ofNat 7 r.val) else VReg.none
  { G with vec := { G.vec with vregs := Vector.ofFn left }, eng := { G.eng with mops := ops } }

/-- What the streams of a group hold outside it: reads made ahead, logged operands, and the pages of an instruction under way. -/
def dropStreams (s : State) (g : Nat) : State :=
  let mine (p : Party) : Bool := p == .scalar g || p == .lane g
  { s with
    early := s.early.filter fun e => e.group != g
    oplog := s.oplog.filter fun e => !mine e.party
    psets := s.psets.filter fun e => !mine e.party }

/-- The calls of a group abandoned: a record is free once it is answered or timed out (R346). -/
def dropCalls (s : State) (g ctx : Nat) : State :=
  s.modCtx ctx fun c => { c with calls := dropRecs (fun r => r.group == g) c.calls }

/-- A group as its EXIT leaves it. -/
def Group.exit (G : Group) : Group :=
  { G.freeRows with
    inSlot := false, status := .exited
    lane := { G.lane.letGo with run := none, dq := [], vp := [], chain := none, rel := [], latches := noLatches, stall := .none }
    trap := { G.trap with cause := 0, aside := none }
    wait := { G.wait with barTok := none, call := none, paused := false }
    eng := { G.eng with batchCtr := G.eng.batchCtr + 1 } }

/-- EXIT: waits for the group's BRC meeting to close, then ends the group. -/
def execExit (s : State) : Host.Outcome State Fault Refusal :=
  runScalar s fun g G =>
    if (meetOf s g).isSome then .wait s
    else
      let s := leaveQuads s g
      let s := dropStreams (dropCalls s g G.bind.ctx) g
      let s := s.modGroup g Group.exit
      let s := s.modTeam G.bind.team fun t => t.leave g
      .done (settleTeam s G.bind.team) G.nextPc

/-! ### Discarding (R112, R369, R383, R393) -/

/-- A collective aborted (R393). -/
def Coll.abort (c : Coll) : Coll := if c.status.isNone then { c with status := some (collStatus 0 false false false true) } else c

/-- A group as a discard leaves it. -/
def Group.discard (G : Group) : Group :=
  { G with
    inSlot := false, status := .removed, halt := none, lane := G.lane.letGo
    vec := { G.vec with vregs := Vector.replicate 128 VReg.none }
    eng := { G.eng with mops := [], flips := [], colls := G.eng.colls.map Coll.abort } }

/-- Discards a group that is not gone: its commands are dropped, its meetings end. -/
def discardGroup (s : State) (g : Nat) : State :=
  match s.group? g with
  | none => s
  | some G =>
    if G.status = .removed then s
    else
      let s := leaveQuads s g
      let s := dropStreams (dropCalls s g G.bind.ctx) g
      let endCmd (c : Cmd) : Cmd := if c.group = g ∧ c.ended = false then { c with ended := true } else c
      let endMeet (m : Meet) : Meet := if m.members.any (fun x => x.group == g) then { m with closed := true, members := [] } else m
      let s := { s with cmds := s.cmds.map endCmd, meets := s.meets.map endMeet }
      let s := s.modGroup g Group.discard
      if G.gone then s else settleTeam (s.modTeam G.bind.team fun t => t.leave g) G.bind.team

/-- The groups of a team. -/
def groupsOf (s : State) (team : Nat) : List Nat := match s.teams[team]? with
  | some t => t.groups
  | none => []

/-- The launches of a context that a test selects are discarded. DESIGN CHOICE (log 123): a graph instance ends with the discard that leaves it no
accepted node, and not before. -/
def discardLaunches (s : State) (p : Launch → Bool) : State :=
  let ls := s.launches.map fun l => if l.st = .accepted ∧ p l = true then { l with st := .discarded } else l
  let gone (n : Nat) : Bool := match ls[n]? with
    | some l => l.st != .accepted
    | none => true
  { s with
    launches := ls
    graphs := s.graphs.map fun i =>
      if i.nodes.any (fun n => match ls[n]? with
        | some l => l.st == .discarded
        | none => false) && i.nodes.all gone then { i with ended := true } else i }

/-- The committed stores and EOPs of a context performed, and its escrow words settled: a discard drops no partial (R259). -/
def settleContext (s : State) (ctx : Nat) : State :=
  let s := performAll s fun w => w.ctx == ctx
  let mine (l : Line) : Bool := l.ctx == some ctx || keyTag l.key == globalTag || (s.contexts[ctx]?).any fun c => keyTag l.key == c.asid
  (s.lines.filter mine).foldl (fun s l => settle s l.key) s

/-- Discards a queue: every launch of a context at a priority (R369). -/
def discardQueue (s : State) (ctx prio : Nat) : State :=
  let s := settleContext s ctx
  let s := (teamsIn s ctx prio).foldl (fun s t => (groupsOf s t).foldl discardGroup s) s
  discardLaunches s fun l => l.ctx == ctx && l.rcd.prio == prio

/-- Discards every team, command, call and fault of a context (R112, R287, R346). -/
def discardContext (s : State) (ctx : Nat) : State :=
  let s := settleContext s ctx
  let s := (List.range s.groups.length).foldl (fun s g => match s.group? g with
    | some G => if G.bind.ctx = ctx then discardGroup s g else s
    | none => s) s
  let s := discardLaunches s fun l => l.ctx == ctx
  { s with
    deeds := s.deeds.filter fun d => d.ctx != ctx
    faults := s.faults.map fun f => if f.ctx = ctx then { f with closed := true } else f }

end Sys2Proof.Machine
end

