-- ==== Sys2Proof/Machine/StateBlock.lean ====
section
/-! DEFINITION. The state block of a halted group in its spill area (spec/17_tenancy_and_vacating.md R361, R363). -/

namespace Sys2Proof.Machine

/-- A number as n words, little-endian. -/
def blockNat (n x : Nat) : List W32 := (List.range n).map fun i => BitVec.ofNat 32 (x / 2 ^ (32 * i))

/-- Fields side by side, the lowest first: width and value. -/
def packBits : List (Nat × Nat) → Nat
  | [] => 0
  | (w, x) :: t => x % 2 ^ w + 2 ^ w * packBits t

/-- Doubles as words. -/
def blockDoubles (xs : List W64) : List W32 := xs.flatMap fun x => blockNat 2 x.toNat

/-- A list of words filled with zeros to a length. -/
def fillTo (n : Nat) (ws : List W32) : List W32 := ws ++ List.replicate (n - ws.length) 0

/-- A run: address, base and snapshot. -/
def Run.block (r : Run) : List W32 := blockDoubles (r.addr :: zext64 r.base :: r.snap.toList)

/-- A run that may be absent. -/
def runBlock (r : Option Run) : List W32 := match r with
  | some r => r.block
  | none => fillTo 12 []

/-- Bytes 16,768 to 16,895: the entries of the stack's top. -/
def stackTop (G : Group) : List W32 := fillTo 32 ((G.lane.stack.take 8).flatMap StackEntry.words)

/-- LIVE: the registers that hold a value in their spill slot. -/
def liveBits (G : Group) : Nat := packBits ((List.range 128).map fun n => (1, if (G.vreg (BitVec.ofNat 7 n)).st = .unmapped then 0 else 1))

/-- MISC. -/
def miscBits (G : Group) : Nat := packBits
  [(4, G.sc.fpstat.toNat), (4, G.sc.fpctl.toNat), (2, G.dbg.stepm.toNat), (6, G.sc.scout.toNat), (8, G.eng.tokCtr), (16, G.eng.batchCtr),
   (6, G.lane.stack.length), (1, G.trap.hmode.toNat), (1, G.laneIdle.toNat), (4, G.lane.dq.length), (3, G.lane.vp.length)]

/-- MISC2. -/
def misc2Bits (G : Group) : Nat :=
  let w : BarWait := G.wait.barTok.getD ⟨0, 0, 0⟩
  packBits
    [(8, G.eng.collCtr), (1, G.wait.barTok.isSome.toNat), (4, w.bar.toNat), (3, 0), (16, w.tok.toNat),
     (8, (G.wait.region.getD 0).toNat), (1, G.wait.region.isNone.toNat), (5, if G.trap.hmode then G.trap.cur else 0)]

/-- MMQK: the kept operations. -/
def keptBlock (G : Group) : List W32 :=
  fillTo 24 (((G.eng.mops.filter fun m => m.st == .flight).take 4).flatMap fun m =>
    blockDoubles [m.src.a, m.src.b, BitVec.ofNat 64 (m.src.func.toNat + 256 * (m.num % 256))])

/-- The lane state that a handler's entry set aside: SEM, SCNT, SRUN, SDQ and SVP; zero outside handler mode. -/
def asideBlock (G : Group) : List W32 :=
  match G.trap.aside with
  | none => fillTo 118 []
  | some a =>
    [a.em, BitVec.ofNat 32 (packBits [(4, a.dq.length), (3, a.vp.length), (1, a.run.isSome.toNat)])] ++ runBlock a.run ++
    fillTo 96 (a.dq.flatMap Run.block) ++ fillTo 8 (blockDoubles a.vp)

/-- Bytes 24,960 to 32,767. -/
def savedWords (G : Group) : List W32 :=
  let t := G.trap
  let trip : W64 := match G.dbg.trip with
    | some x => x ||| (1#64 <<< 63)
    | none => 0
  fillTo 1952 (blockDoubles (G.sc.sregs.toList.set 0 0) ++ blockDoubles G.sc.hregs.toList ++ G.vec.kregs.toList ++ [G.lane.em] ++
    blockNat 4 (liveBits G) ++ blockNat 2 (miscBits G) ++
    [G.lane.ih, maskOf ((List.finRange 32).filterMap fun i => if t.supplied[i].isSome then some i.val else none)] ++
    blockDoubles [G.sc.spc, G.lane.lpc, t.epcs, t.epcl, t.cause, G.dbg.waddr, zext64 G.dbg.wctl, trip] ++
    fillTo 96 (G.lane.dq.flatMap Run.block) ++ fillTo 8 (blockDoubles G.lane.vp) ++
    (List.finRange 32).map (fun i => (t.supplied[i]).getD 0) ++ keptBlock G ++ blockNat 2 (misc2Bits G) ++ runBlock G.lane.run ++ asideBlock G)

/-- The state block of a group written to its spill area. DESIGN CHOICE (log 111): the group is resumed from what it held, and no rule says
what a failed word of the block would do. -/
def putStateBlock (s : State) (g : Nat) : State :=
  match s.group? g with
  | none => s
  | some G => match s.ctxOf G with
    | none => s
    | some c =>
      let a := G.bind.area.toNat
      areaPut (areaPut s G.loc.coreId c (a + 16768) (stackTop G)) G.loc.coreId c (a + 24960) (savedWords G)

end Sys2Proof.Machine
end

