-- ==== Sys2Proof/Machine/Tenancy.lean ====
section
/-! DEFINITION. Tenancy: halting and resuming teams, what an incoming team claims, and the vacate controller's requests, counts, plan
and choices (spec/17_tenancy_and_vacating.md R359 to R371; spec/09_matrix_units.md R221). -/

namespace Sys2Proof.Machine

/-! ### Halting (R360, R361) -/

/-- The lane stream of a group as a halt leaves it: at the head of its open chain, latches undefined, no row in flight. -/
def LaneSt.halted (L : LaneSt) : LaneSt :=
  { L.letGo with
    lpc := match L.chain with
      | some c => c.head
      | none => L.lpc
    chain := none, rel := [], latches := noLatches
    stall := match L.stall with
      | .admission m => .admission m
      | .parked m => .parked m
      | _ => .none }

/-- A group halted in place. -/
def Group.haltAt (n : Nat) (G : Group) : Group :=
  if G.halt.isSome ∨ G.gone = true then G
  else { G with halt := some n, lane := G.lane.halted, wait := { G.wait with paused := false } }

/-- Halts a group: its committed stores leave its queue, and what its streams hold of instructions under way is dropped. -/
def haltGroup (n : Nat) (s : State) (g : Nat) : State :=
  (dropStreams (performAll s fun w => w.group == g) g).modGroup g (Group.haltAt n)

/-- Halts every group of a team in one step. -/
def haltTeam (s : State) (team : Nat) : State := (groupsOf s team).foldl (haltGroup (nextHalt s)) s

/-- The teams of a context that have not ended. -/
def ctxTeams (s : State) (ctx : Nat) : List Nat := (s.teams.zipIdx.filter fun p => p.1.ctx == ctx && !p.1.ended).map (·.2)

/-- Halts every team of a context. -/
def haltContext (s : State) (ctx : Nat) : State := (ctxTeams s ctx).foldl haltTeam s

/-- The mapped registers of a group. -/
def Group.mappedRegs (G : Group) : List VNum := ((List.range 128).map (BitVec.ofNat 7)).filter fun r => (G.vreg r).st == .mapped

/-- A halted group's registers spilled, its state block written, and its slot freed (R361, R363). A group that is gone has no state to save. -/
def displace (s : State) (g : Nat) : State :=
  match s.group? g with
  | none => s
  | some G => if G.gone then s else (putStateBlock (G.mappedRegs.foldl (fun s r => spillRow s g r) s) g).modGroup g fun G => { G with inSlot := false }

/-- The group that holds a slot of a quadrant. -/
def slotHolder (s : State) (quad slot : Nat) : Option Nat :=
  s.groups.findIdx? fun G => G.inSlot && G.loc.quadId == quad && G.loc.slot.toNat == slot

/-! ### Banks (R170, R361) -/

/-- A bank of a core was copied to its team's save area. -/
def Team.hasSaved (t : Team) (core bank : Nat) : Bool := t.saved.any fun x => x.core == core && x.bank == bank

/-- The team has an engine command or an operation that is not done. -/
def teamBusy (s : State) (t : Team) : Bool :=
  (s.cmds.any fun c => !c.ended && t.groups.contains c.group) ||
  t.groups.any fun g => match s.group? g with
    | some G => G.eng.mops.any fun m => m.st == .flight
    | none => false

/-- A group of the team that is gone has an engine command or an operation that is not done. -/
def teamLeftover (s : State) (t : Team) : Bool :=
  teamBusy s { t with groups := t.groups.filter fun g => match s.group? g with
    | some G => G.gone
    | none => false }

/-- The team that holds a bank of a core. -/
def bankHolder (s : State) (core bank : Nat) : Option Nat :=
  s.teams.findIdx? fun t => (t.cores.any fun c => c.1 == core && c.2.getLsbD bank) && !t.hasSaved core bank &&
    (!t.ended || teamBusy s t)

/-- Cells of a range, apart from the rest. -/
def splitCells (m : List Host.Cell) (lo n : Nat) : List Host.Cell × List Host.Cell :=
  m.partition fun c => decide (lo ≤ c.1) && decide (c.1 < lo + n)

/-- A bank with its scale bytes copied to its team's save area. -/
def saveBank (s : State) (team core bank : Nat) : State :=
  let (data, spad) := splitCells s.spad (core * coreBytes + bank * bankBytes) bankBytes
  let (sc, scale) := splitCells s.scale (core * coreScale + bank * 768) 768
  let lo := core * coreBytes + bank * bankBytes
  let mine := s.padw.filterMap fun w =>
    if rangesMeet w.lo w.hi lo (lo + bankBytes) then some { w with lo := max w.lo lo, hi := min w.hi (lo + bankBytes) } else none
  (padForget { s with spad := spad, scale := scale } lo bankBytes).modTeam team fun t =>
    { t with saved := ⟨core, bank, data, sc, mine⟩ :: t.saved }

/-- The saved banks of a team put back. -/
def restoreBanks (s : State) (team : Nat) : State :=
  match s.teams[team]? with
  | none => s
  | some t =>
    let s := t.saved.foldl (fun s x =>
      { s with
        spad := x.data.foldl (fun m c => cellSet m c.1 c.2) s.spad
        scale := x.scale.foldl (fun m c => cellSet m c.1 c.2) s.scale
        padw := s.padw ++ x.writes }) s
    s.modTeam team fun t => { t with saved := [] }

/-- Saves every bank of a team. -/
def saveBanks (s : State) (team : Nat) : State :=
  match s.teams[team]? with
  | none => s
  | some t => t.cores.foldl (fun s c => (banksOf c.2).foldl (fun s b => if t.hasSaved c.1 b then s else saveBank s team c.1 b) s) s

/-- Every group of a team is halted or gone. -/
def teamHalted (s : State) (t : Team) : Bool := t.groups.all fun g => match s.group? g with
  | some G => G.halt.isSome || G.gone
  | none => true

/-- A halted team's banks can be saved for another team: no engine work of a group that has exited is left on them. -/
def Team.saveable (s : State) (t : Team) : Bool := teamHalted s t && !t.ended && !teamLeftover s t

/-- A bank made free for another team: one that a halted team holds is saved. None when a running team holds it, or one with engine work of
a group that has exited (R170). -/
def claimBank (s : State) (core bank : Nat) : Option State :=
  match bankHolder s core bank with
  | none => some s
  | some t => match s.teams[t]? with
    | some T => if T.saveable s then some (saveBank s t core bank) else none
    | none => some s

/-- A slot made free for another group: a halted holder is displaced. -/
def claimSlot (s : State) (quad slot : Nat) : Option State :=
  match slotHolder s quad slot with
  | none => some s
  | some g => match s.group? g with
    | some G => if G.halt.isSome then some (displace s g) else none
    | none => some s

/-! ### Resuming (R221, R362) -/

/-- The quadrants of a core, by number within it, that are enabled and a context's tenant's, a preferred one first (R354). -/
def ownQuads (s : State) (ctx core first : Nat) : List Nat :=
  let mine (q : Nat) : Bool := quadOn s (4 * core + q) && match tenantOf s ctx with
    | some t => t.rcd.quads.contains (4 * core + q)
    | none => true
  ([first, 0, 1, 2, 3].eraseDups).filter mine

/-- The slots of a core that a group of a context may take: quadrant and slot. -/
def ownSlots (s : State) (ctx core first : Nat) : List (Nat × Nat) :=
  (ownQuads s ctx core first).flatMap fun q => (List.range 12).map fun k => (q, k)

/-- A slot has no holder, or a halted one of another team, which can be displaced. -/
def slotOpen (s : State) (core team : Nat) (p : Nat × Nat) : Bool := match slotHolder s (4 * core + p.1) p.2 with
  | some h => match s.group? h with
    | some H => H.halt.isSome && H.bind.team != team
    | none => true
  | none => true

/-- A slot of its core that a resumed group takes: a free one, else one whose halted holder can be displaced. -/
def resumeSlot (s : State) (G : Group) : Option (Nat × Nat) :=
  let core := G.loc.coreId
  let all := ownSlots s G.bind.ctx core G.loc.quad.toNat
  match all.find? fun p => (slotHolder s (4 * core + p.1) p.2).isNone with
  | some p => some p
  | none => all.find? (slotOpen s core G.bind.team)

/-- A halted group put back in a slot. -/
def rebind (s : State) (g : Nat) : Option State :=
  match s.group? g with
  | none => none
  | some G =>
    if G.inSlot ∨ G.gone = true then some s
    else match resumeSlot s G with
      | none => none
      | some (q, k) => match claimSlot s (4 * G.loc.coreId + q) k with
        | none => none
        | some s => some (s.modGroup g fun G =>
            { G with inSlot := true, loc := { G.loc with quad := BitVec.ofNat 2 q, slot := BitVec.ofNat 4 k } })

/-- Runs a partial step over a list. -/
def foldSome {α β : Type} (f : β → α → Option β) (b : β) : List α → Option β
  | [] => some b
  | x :: t => match f b x with
    | none => none
    | some b => foldSome f b t

/-- A spilled register of a kept operation refetched at a resume. DESIGN CHOICE (log 109): a lane whose word cannot be read is undefined, for
there is no instruction to trap. -/
def refetchKept (g : Nat) (regs : List VNum) (s : State) (r : VNum) : Option State :=
  match s.group? g with
  | none => none
  | some G =>
    if (G.vreg r).st ≠ .spilled then some s
    else match slotWords s G r with
      | (ws, s) => match roomFor s g 0 regs with
        | .ok s => some (s.modGroup g fun G => G.putV r ((G.vreg r).fetched ws))
        | .wait _ => none

/-- A group runs again: the registers of its operations are refetched and pinned, where its quadrant's pins permit it (R122, R221). -/
def unhalt (s : State) (g : Nat) : Option State :=
  match s.group? g with
  | none => some s
  | some G =>
    if G.gone then some s
    else
      let regs := (G.eng.mops.flatMap MOp.regs).eraseDups
      if 672 < quadPinned s G.loc.quadId + regs.length then none
      else match foldSome (refetchKept g regs) s regs with
      | none => none
      | some s => match pinRows s g regs with
        | .ok s => some ((rereadLists s g).modGroup g fun G => { G with halt := none })
        | _ => none

/-- The quadrant where a group sits. -/
def quadOfGroup (s : State) (g : Nat) : Nat := match s.group? g with
  | some G => G.loc.quadId
  | none => 0

/-- A group's compaction entries name a meeting slot; those in the spill area are written again. -/
def Group.setSlotBit (s : State) (g : Nat) (b : Bool) : State :=
  let fix (e : StackEntry) : StackEntry := if e.kind = .compaction then { e with mslot := b } else e
  let s := s.modGroup g fun G => { G with lane := { G.lane with stack := G.lane.stack.map fix } }
  match s.group? g with
  | none => s
  | some G => match s.ctxOf G with
    | some c =>
      if G.lane.stack.length ≤ 8 then s
      else areaPut s G.loc.coreId c (stackAddr G 8) ((G.lane.stack.drop 8).flatMap StackEntry.words)
    | none => s

/-- A BRC meeting of a resumed team, in the quadrant where its first member now sits: in its slot there, or in the other one. None where
both are taken. DESIGN CHOICE (log 100): the spec does not say which slot it takes there. -/
def rehomeMeet (s : State) (n : Nat) : Option State :=
  match s.meets[n]? with
  | none => some s
  | some m => match m.members with
    | [] => some s
    | x :: _ =>
      let q := quadOfGroup s x.group
      let used := slotsUsed { s with meets := s.meets.eraseIdx n } q
      if m.closed then some s
      else if !used.contains m.mslot then some { s with meets := s.meets.set n { m with quad := q } }
      else if !used.contains (!m.mslot) then
        some (m.members.foldl (fun s y => Group.setSlotBit s y.group (!m.mslot))
          { s with meets := s.meets.set n { m with quad := q, mslot := !m.mslot } })
      else none

/-- A quad meeting of a resumed team that has not started, in the quadrant where its first member now sits (R209). None where another one is
open there. -/
def rehomeQuad (s : State) (n : Nat) : Option State :=
  match s.qmeets[n]? with
  | none => some s
  | some m => match m.members with
    | [] => some s
    | x :: _ =>
      let q := quadOfGroup s x.2.1
      if m.started || m.ended then some s
      else if (openQuad { s with qmeets := s.qmeets.eraseIdx n } q).isSome then none
      else some { s with qmeets := s.qmeets.set n { m with quad := q } }

/-- The positions of a team's meetings. -/
def meetsOf (s : State) (team : Nat) : List Nat := (s.meets.zipIdx.filter fun p => p.1.team == team && !p.1.closed).map (·.2)
def quadsOf (s : State) (team : Nat) : List Nat := (s.qmeets.zipIdx.filter fun p => p.1.team == team && !p.1.ended).map (·.2)

/-- A team is a tenant's. -/
def Tenant.owns (s : State) (t : Tenant) (T : Team) : Bool := ((s.contexts[T.ctx]?).map fun c => c.tenant == t.tid).getD false

/-- Banks that a tenant's teams hold on a core: those not saved. -/
def tenantBanks (s : State) (t : Tenant) (core : Nat) : Nat :=
  (s.teams.map fun T =>
    if (T.ended && !teamBusy s T) || !t.owns s T then 0
    else ((teamBanks T core).filter fun b => !T.hasSaved core b).length).foldl (· + ·) 0

/-- The banks of a core that halted teams of a tenant hold and another of its teams can claim, with their teams. -/
def lazyBanks (s : State) (t : Tenant) (team core : Nat) : List (Nat × Nat) :=
  s.teams.zipIdx.flatMap fun p =>
    if p.2 ≠ team ∧ t.owns s p.1 = true ∧ p.1.saveable s = true then
      ((teamBanks p.1 core).filter fun b => !p.1.hasSaved core b).map fun b => (p.2, b)
    else []

/-- A core's saved banks of a team may be put back under its tenant's BANKS (R353, R354): banks of other halted teams are saved where the
count asks for it. None where the tenant has no quadrant there, or keeps too few banks. -/
def homeBanks (team : Nat) (T : Team) (s : State) (core : Nat) : Option State :=
  let need := (T.saved.filter fun x => x.core == core).length
  if need = 0 then some s
  else if (ownQuads s T.ctx core 0).isEmpty then none
  else match tenantOf s T.ctx with
    | none => some s
    | some t =>
      let s := (lazyBanks s t team core).foldl (fun s x =>
        if tenantBanks s t core + need ≤ t.rcd.banks then s else saveBank s x.1 core x.2) s
      if tenantBanks s t core + need ≤ t.rcd.banks then some s else none

/-- Resumes a halted team on its cores: slots, banks, pins, meetings. None while something that it needs is held. -/
def resumeHome (s : State) (team : Nat) : Option State :=
  match s.teams[team]? with
  | none => none
  | some t =>
    match foldSome rebind s t.groups with
    | none => none
    | some s => match (foldSome (homeBanks team t) s (t.cores.map (·.1))).bind fun s =>
        foldSome (fun s x => claimBank s x.core x.bank) s t.saved with
      | none => none
      | some s => match foldSome unhalt (restoreBanks s team) t.groups with
        | none => none
        | some s => match foldSome rehomeMeet s (meetsOf s team) with
          | none => none
          | some s => foldSome rehomeQuad s (quadsOf s team)

/-! ### Resuming on other cores (R116, R354, R362) -/

/-- A team's banks are all saved, and it holds no slot: it may resume on other cores of its cluster. -/
def Team.movable (s : State) (t : Team) : Bool :=
  (t.cores.all fun c => (banksOf c.2).all (t.hasSaved c.1)) &&
  t.groups.all fun g => match s.group? g with
    | some G => !G.inSlot
    | none => true

/-- A core has room for an item queue (R114). -/
def itemRoom (s : State) (core : Nat) : Bool :=
  decide ((s.teams.filter fun t => !t.ended && t.queues.any fun q => q.core == core).length < 4)

/-- The groups of a team that are not gone, on a core. -/
def liveOn (s : State) (t : Team) (core : Nat) : Nat := (t.groups.filter fun g => match s.group? g with
  | some G => !G.gone && G.loc.coreId == core
  | none => false).length

/-- The banks of a core that a tenant keeps beside those of its teams that cannot be saved (R353). -/
def bankRoom (s : State) (ctx core : Nat) : Nat := match tenantOf s ctx with
  | some t => t.rcd.banks - (tenantBanks s t core - (lazyBanks s t s.teams.length core).length)
  | none => 32

/-- The banks of a core that a team of a context could be given: no more than its tenant keeps there. -/
def openBanks (s : State) (ctx core : Nat) : List Nat :=
  ((List.range 32).filter fun b => (claimBank s core b).isSome).take (bankRoom s ctx core)

/-- The mask of some banks. -/
def bankMask (bs : List Nat) : W32 := bs.foldl (fun m b => m ||| (1#32 <<< b)) 0

/-- A core can take what a team has on another one: so many groups, banks, and an item queue. -/
def coreFits (s : State) (t : Team) (team groups banks core : Nat) : Bool :=
  coreOn s core && !(ownQuads s t.ctx core 0).isEmpty && decide (groups ≤ ((ownSlots s t.ctx core 0).filter (slotOpen s core team)).length) &&
  decide (banks ≤ (openBanks s t.ctx core).length) && (t.queues.isEmpty || itemRoom s core)

/-- For each core of a team in turn, the first core of its cluster that can take its place and leaves a place for the later ones, with the
banks there. -/
def pickCores (s : State) (t : Team) (team : Nat) : List (Nat × W32) → List Nat → Option (List (Nat × W32 × Nat × W32))
  | [], _ => some []
  | (c, m) :: rest, used =>
    let n := (banksOf m).length
    let fit := ((List.range 64).map fun k => 64 * (c / 64) + k).filter fun k =>
      !used.contains k && coreFits s t team (liveOn s t c) n k
    fit.findSome? fun k => (pickCores s t team rest (k :: used)).map fun l =>
      (c, m, k, bankMask ((openBanks s t.ctx k).take n)) :: l

/-- Cells at one base placed at another. -/
def shiftCells (a b : Nat) (l : List Host.Cell) : List Host.Cell := l.map fun c => (c.1 - a + b, c.2)

/-- The place that a list of moves gives a core of a team. -/
def newCore (l : List (Nat × W32 × Nat × W32)) (core : Nat) : Nat := match l.find? fun x => x.1 == core with
  | some x => x.2.2.1
  | none => core

/-- A saved bank as it is to be put back after a move: the i-th bank of its core into the i-th one there. -/
def movedBank (l : List (Nat × W32 × Nat × W32)) (x : SavedBank) : SavedBank :=
  match l.find? fun y => y.1 == x.core with
  | none => x
  | some (c, m, k, m') =>
    let b := (banksOf m').getD ((banksOf m).idxOf x.bank) 0
    let old := c * coreBytes + x.bank * bankBytes
    let new := k * coreBytes + b * bankBytes
    ⟨k, b, shiftCells old new x.data, shiftCells (c * coreScale + x.bank * 768) (k * coreScale + b * 768) x.scale,
      x.writes.map fun w => { w with lo := w.lo - old + new, hi := w.hi - old + new }⟩

/-- A deed whose creating or holding team goes to other cores (R180): its banks lie, or it is held, there. DESIGN CHOICE (log 119): its handle
stays. -/
def Deed.moved (team : Nat) (l : List (Nat × W32 × Nat × W32)) (d : Deed) : Deed :=
  { d with
    core := if d.creator = team then newCore l d.core else d.core
    st := match d.st with
      | .held h c => .held h (if h = team then newCore l c else c)
      | .transit c => .transit c }

/-- A team on its new cores: banks, item queues, groups, deeds and engine commands follow. -/
def moveTeam (s : State) (team : Nat) (t : Team) (l : List (Nat × W32 × Nat × W32)) : State :=
  let bank (k : Nat) : W32 := ((l.find? fun x => x.2.2.1 == k).map (·.2.2.2)).getD 0
  let place (G : Group) : Group :=
    let k := newCore l G.loc.coreId
    { G with loc := { G.loc with core := BitVec.ofNat 6 k }, bind := { G.bind with banks := bank k } }
  let s := s.modTeam team fun t => { t with
    cores := sortBy (fun a b => decide (a.1 ≤ b.1)) (l.map fun x => (x.2.2.1, x.2.2.2))
    queues := t.queues.map fun q => { q with core := newCore l q.core }
    saved := t.saved.map (movedBank l) }
  let s := t.groups.foldl (fun s g => s.modGroup g place) s
  { s with
    cmds := s.cmds.map fun c => if t.groups.contains c.group then { c with core := newCore l c.core } else c
    deeds := s.deeds.map (Deed.moved team l) }

/-- Resumes a halted team: on its own cores, else on others of its cluster (log 48). -/
def resumeTeam (s : State) (team : Nat) : Option State :=
  match resumeHome s team, s.teams[team]? with
  | some s, _ => some s
  | none, some t =>
    if t.movable s then match pickCores s t team t.cores [] with
      | some l => resumeHome (moveTeam s team t l) team
      | none => none
    else none
  | none, none => none

/-- Resumes every halted team of a context that can be resumed. -/
def resumeContext (s : State) (ctx : Nat) : State :=
  (ctxTeams s ctx).foldl (fun s t => (resumeTeam s t).getD s) s

/-! ### Ready launches (R99, R100, R104) -/

/-- The instance of a node waits for an earlier one of the same graph (R104). -/
def instBlocked (s : State) (n : Nat) (i : GraphInst) : Bool :=
  !i.conc && (s.graphs.take n).any fun j => j.ctx == i.ctx && j.hdr == i.hdr && !j.ended

/-- A launch has completed. -/
def launchDone (s : State) (n : Nat) : Bool := match s.launches[n]? with
  | some l => l.st == .completed
  | none => false

/-- A launch is ready (R100). -/
def launchReady (s : State) (l : Launch) : Bool :=
  l.st == .accepted && l.sat.all (fun b => b) && match l.inst with
    | none => true
    | some (n, k) => match s.graphs[n]? with
      | none => false
      | some i => !instBlocked s n i && i.edges.all fun e => e.2 != k || launchDone s (i.nodes.getD e.1 0)

/-- A launch has a team left to bind. -/
def teamsLeft (l : Launch) : Bool := decide (l.nextTeam < l.rcd.teams)

/-- The priority at which a context has a bound team or a ready launch: one more than its PRIO, 0 for none. -/
def ctxPrio (s : State) (ctx : Nat) : Nat :=
  (s.launches.zipIdx.filter fun p => p.1.ctx == ctx && p.1.st == .accepted &&
    ((launchReady s p.1 && teamsLeft p.1) || s.teams.any fun t => t.launch == p.2 && !t.ended)).foldl
      (fun m p => max m (p.1.rcd.prio + 1)) 0

/-- The contexts of a tenant. -/
def tenantCtxs (s : State) (t : Tenant) : List Nat := (s.contexts.zipIdx.filter fun p => p.1.live && p.1.tenant == t.tid).map (·.2)

/-- The context that firmware picks next (R359): the highest priority, equal ones in rotation after the running one. -/
def pickContext (s : State) (t : Tenant) : Option Nat :=
  let cs := tenantCtxs s t
  let order := match t.running with
    | some r => cs.filter (fun c => decide (r < c)) ++ cs.filter (fun c => decide (c ≤ r))
    | none => cs
  (order.foldl (fun (m : Option (Nat × Nat)) c =>
    let p := ctxPrio s c
    if p = 0 then m else match m with
      | none => some (c, p)
      | some (d, q) => if q < p then some (c, p) else some (d, q)) none).map (·.1)

/-- The state with a tenant changed. -/
def State.modTenant (s : State) (tid : Nat) (f : Tenant → Tenant) : State :=
  { s with tenants := s.tenants.map fun t => if t.tid = tid then f t else t }

/-- A tenant by number. -/
def State.tenant? (s : State) (tid : Nat) : Option Tenant := s.tenants.find? fun t => t.tid == tid

/-- Switches a tenant's partition to a context. -/
def switchContext (s : State) (t : Tenant) (c : Option Nat) : State :=
  if t.running = c then s
  else
    let s := match t.running with
      | some r => haltContext s r
      | none => s
    let s := s.modTenant t.tid fun t => { t with running := c }
    match c with
    | some c => resumeContext s c
    | none => s

/-! ### The counts of the vacate controller (R366, R367) -/

/-- The launches of a queue, with their positions. -/
def queueLaunches (s : State) (ctx prio : Nat) : List (Launch × Nat) :=
  s.launches.zipIdx.filter fun p => p.1.ctx == ctx && p.1.rcd.prio == prio && p.1.st == .accepted

/-- A cached word is of a context's memory: under its own identifier, its spill areas with it, or written by it under the global one. -/
def Line.ofCtx (s : State) (ctx : Nat) (l : Line) : Bool :=
  l.ctx == some ctx || (s.contexts[ctx]?).any fun c => keyTag l.key == c.asid

/-- The distinct dirty sectors of a context in the caches. -/
def dirtySectors (s : State) (ctx : Nat) : Nat :=
  ((s.lines.filter fun l => l.isDirty && l.ofCtx s ctx).map (·.key / 32)).eraseDups.length

/-- state(q). -/
def queueState (s : State) (ctx prio : Nat) : Nat :=
  let ts := (teamsIn s ctx prio).filterMap fun t => s.teams[t]?
  let gs := (ts.flatMap (·.groups)).filterMap s.group?
  (gs.filter fun G => !G.gone).foldl (fun n G => n + 128 * G.held + 8192) 0 +
  (ts.map fun t => 13056 * (match t.cores with
    | c :: _ => (banksOf c.2).length
    | [] => 0) * t.cores.length).foldl (· + ·) 0 + 128 * dirtySectors s ctx

/-- Entries of a table of a level, and the bytes that a leaf there maps (R279). -/
def tableSize : Nat → Nat
  | 3 => 512
  | 2 => 8192
  | 1 => 8192
  | _ => 32
def leafBytes (level : Nat) : Nat := if level = 1 then 2 ^ 21 else 2 ^ 16

/-- Bytes mapped below a table of a level. -/
def mappedBelow (s : State) (table : Nat) : Nat → Nat
  | 0 => ((List.range 32).map fun i =>
      let e := rawDouble s (table + 8 * i)
      if leafV e && leafLeaf e then leafBytes 0 else 0).foldl (· + ·) 0
  | n + 1 => ((List.range (tableSize (n + 1))).map fun i =>
      let e := rawDouble s (table + 8 * i)
      if !leafV e then 0 else if leafLeaf e then leafBytes (n + 1) else mappedBelow s (leafAddr e) n).foldl (· + ·) 0

/-- A word of a context's memory as it stands. -/
def peekWord (s : State) (c : Context) (va : Nat) : W32 :=
  match hitLine s c.asid (va / 4) with
  | some l => l.value
  | none => match (xlate s c va .own).1 with
    | .ok l big => corrWord s (leafPa l big va)
    | .fault _ => 0

/-- Sectors recorded in a context's delta map (R293). -/
def deltaSectors (s : State) (c : Context) : Nat :=
  ((List.range (2 ^ c.deltaLogn.toNat)).map fun i =>
    let a := c.deltaAddr + 128 * i
    if (peekWord s c a).getLsbD 0 then
      ((List.range 16).map fun k => popCount (peekWord s c (a + 8 + 4 * k)).toNat 32).foldl (· + ·) 0
    else 0).foldl (· + ·) 0

/-- mem(q) of a context: what its delta map records where DLTEN = 1, DERR or not. -/
def ctxMem (s : State) (ctx : Nat) : Nat := match s.contexts[ctx]? with
  | none => 0
  | some c => if c.xlctl.getLsbD 5 then 128 * deltaSectors s c else mappedBelow s c.root 3

/-- Periods of CYCLE in a second and in a microsecond. -/
def second : Nat := 2000000000
def microsecond : Nat := 2000

/-- REMAIN: whole microseconds to the deadline (R365). -/
def remainOf (s : State) (t : Tenant) : Nat := match t.req with
  | some r => (r.deadline.toNat - s.cycle.toNat) / microsecond
  | none => 0

/-- ckpt(q) and mtail(q) in periods of CYCLE times VRATE. -/
def ckptCost (vrate st mem : Nat) : Nat := second / 10 * vrate + 2 * (st + mem)

/-- The bytes that R366 counts in each section of a checkpoint before MEMORY, in the order of R372: HEAD, CONTEXT and LAUNCH, the teams, the
groups, their saved banks, ENGINE. -/
def sectionCosts (s : State) (ctx prio : Nat) : List Nat :=
  let ts := (teamsIn s ctx prio).filterMap fun t => s.teams[t]?
  let gs := ((ts.flatMap (·.groups)).filterMap s.group?).filter fun G => !G.gone
  [0, 0, 0] ++ ts.map (fun _ => 0) ++ gs.map (fun G => 128 * G.held + 8192) ++ (ts.flatMap (·.saved)).map (fun _ => 13056) ++ [0]

/-- state(q) of a planned queue: of a checkpoint sent in part, what it still has to send (R368). -/
def QPlan.state (s : State) (q : QPlan) : Nat :=
  if q.sent = 0 then queueState s q.ctx q.prio
  else ((sectionCosts s q.ctx q.prio).drop q.sent).foldl (· + ·) 0 + 128 * dirtySectors s q.ctx

/-- The progress of a queue: I, D, and E in periods. -/
def queueProgress (s : State) (ctx prio : Nat) : Nat × Nat × Nat :=
  let ls := queueLaunches s ctx prio
  let first := ls.foldl (fun m p => min m p.1.start.toNat) s.cycle.toNat
  (ls.foldl (fun n p => n + p.1.rcd.items) 0, ls.foldl (fun n p => n + p.1.retired.toNat) 0, s.cycle.toNat - first)

/-- est(q) exists and est(q) + mtail(q) fits a time, all times VRATE. -/
def willRun (vrate : Nat) (p : Nat × Nat × Nat) (tail : Nat) (room : Int) : Bool :=
  let (i, d, e) := p
  decide (0 < i ∧ 0 < d ∧ (e : Int) * ((i : Int) - d) * vrate + tail * d ≤ room * d)

/-! ### The plan (R368 to R370) -/

/-- The queues of a tenant in plan order: descending PRIO, ascending ASID. -/
def tenantQueues (s : State) (t : Tenant) : List (Nat × Nat) :=
  let cs := sortBy (fun a b => decide (
    ((s.contexts[a]?).map fun c => c.asid.toNat).getD 0 ≤ ((s.contexts[b]?).map fun c => c.asid.toNat).getD 0)) (tenantCtxs s t)
  (List.range 8).reverse.flatMap fun p => (cs.filter fun c => !(queueLaunches s c p).isEmpty).map fun c => (c, p)

/-- A queue is discardable. -/
def queueDisc (s : State) (ctx prio : Nat) : Bool := (queueLaunches s ctx prio).all fun p => p.1.rcd.disc

/-- mem as it is charged: to the first queue of a context in plan order. -/
def chargedMem (s : State) (qs : List (Nat × Nat)) (q : Nat × Nat) : Nat :=
  match qs.find? fun x => x.1 == q.1 with
  | some x => if x = q then ctxMem s q.1 else 0
  | none => 0

/-- The neighbour of a tenant's current request. -/
def Tenant.neighbour (t : Tenant) : BitVec 16 := match t.req with
  | some r => r.neigh
  | none => t.rcd.neigh

/-- The checkpoint of a queue in progress under a tenant's plan. DESIGN CHOICE (log 51): where the neighbour has changed, it is sent there from
its first section on. -/
def Tenant.inProgress (t : Tenant) (ctx prio : Nat) : Option QPlan :=
  (t.plan.find? fun q => q.ctx == ctx && q.prio == prio && q.choice == .checkpoint && q.settled).map fun q =>
    if q.dst = t.neighbour then q else { q with sent := 0 }

/-- A queue as a plan first chooses for it. -/
def QPlan.new (ctx prio : Nat) (k : Choice) (disc : Bool) : QPlan :=
  { ctx := ctx, prio := prio, choice := k, disc := disc, committed := false, acked := false, settled := false, readyAt := 0, sent := 0
    dst := 0, outcome := none }

/-- Plans queues in order, given the time and C. A checkpoint in progress goes on or is discarded (R370). -/
def planQueues (s : State) (t : Tenant) (all : List (Nat × Nat)) (R : Int) : List (Nat × Nat) → Int → List QPlan
  | [], _ => []
  | (c, p) :: rest, C =>
    let v := t.rcd.vrate
    let disc := queueDisc s c p
    let mem := chargedMem s all (c, p)
    let old := t.inProgress c p
    let ck : Int := ckptCost v ((old.getD (.new c p .checkpoint disc)).state s) mem
    let tail := ckptCost v 0 mem
    let go (k : Choice) (C : Int) : List QPlan := (match old, k with
      | some q, .checkpoint => { q with disc := disc }
      | _, _ => .new c p k disc) :: planQueues s t all R rest C
    if old.isNone && willRun v (queueProgress s c p) tail (R - C) then go .run (if disc then C + tail else C)
    else if !disc then go .checkpoint C
    else if C + ck ≤ R then go .checkpoint (C + ck)
    else go .discard C

/-- The plan of a tenant under its request, with the queues of an earlier plan that a re-plan leaves alone. -/
def planTenant (s : State) (t : Tenant) : List QPlan :=
  let kept := t.plan.filter fun q => q.committed || q.outcome.isSome || (q.choice == .run && q.settled)
  let qs := (tenantQueues s t).filter fun q => !kept.any fun k => k.ctx == q.1 && k.prio == q.2
  let R : Int := ((remainOf s t * microsecond : Nat) - (second : Int)) * t.rcd.vrate
  let C : Int := (qs.filter fun q => !queueDisc s q.1 q.2).foldl
    (fun n q => n + (ckptCost t.rcd.vrate (((t.inProgress q.1 q.2).getD (.new q.1 q.2 .checkpoint false)).state s) (chargedMem s qs q) : Nat)) 0
  kept ++ planQueues s t qs R qs C

/-- Writes back and drops every cached word of a context, escrow settled (R259, R369): under its own identifier, and what it wrote
under the global one. -/
def drainContext (s : State) (ctx : Nat) : State :=
  match s.contexts[ctx]? with
  | none => s
  | some c =>
    let lo := lineKey c.asid 0
    let s := flushRange (flushWrites s lo (2 ^ 54)) lo (2 ^ 54)
    let s := (s.lines.filter fun l => keyTag l.key == globalTag).foldl (fun s l => settle s l.key) s
    (s.lines.filter fun l => l.ctx == some ctx).foldl (fun s l => flushRange s l.key 1) s

/-- Every collective of a context that is not complete is aborted (R393). -/
def abortColls (s : State) (ctx : Nat) : State :=
  { s with groups := s.groups.map fun G =>
      if G.bind.ctx = ctx then { G with eng := { G.eng with colls := G.eng.colls.map Coll.abort } } else G }

/-- CHECKPOINT of a queue: its teams are halted and saved, and its context's words drained. -/
def saveQueue (s : State) (ctx prio : Nat) : State :=
  let ts := teamsIn s ctx prio
  let s := ts.foldl haltTeam s
  let s := ts.foldl saveBanks s
  let s := ts.foldl (fun s t => (groupsOf s t).foldl displace s) s
  drainContext (abortColls s ctx) ctx

/-- A discarded queue: its context is reset once it has no other queue. -/
def loseQueue (s : State) (ctx prio : Nat) : State :=
  let s := discardQueue s ctx prio
  if (List.range 8).all fun p => (queueLaunches s ctx p).isEmpty then discardContext s ctx else s

/-- Acts on a planned queue: a checkpoint is saved, a discard made; a RUN queue without a team has finished. -/
def actOn (s : State) (q : QPlan) : QPlan × State :=
  if q.settled || q.outcome.isSome then (q, s)
  else match q.choice with
    | .run => (q.ran s, s)
    | .checkpoint => ({ q with settled := true, readyAt := s.cycle.toNat }, saveQueue s q.ctx q.prio)
    | .discard => ({ q with settled := true, outcome := some 2 }, loseQueue s q.ctx q.prio)

/-- Acts on every queue of a plan. -/
def actAll (s : State) : List QPlan → List QPlan × State
  | [] => ([], s)
  | q :: t =>
    let (q, s) := actOn s q
    let (t, s) := actAll s t
    (q :: t, s)

/-- Plans and acts for a tenant (R368 to R370). -/
def replan (s : State) (tid : Nat) : State :=
  match s.tenant? tid with
  | none => s
  | some t =>
    let (plan, s) := actAll s (planTenant s t)
    s.modTenant tid fun t => { t with plan := plan }

/-- What a new request does to a tenant's current one (R364): the new current request, whether a re-plan starts, or a refusal. -/
def mergeReq (cur : Option Vacate) (new : Vacate) : Option (Vacate × Bool) :=
  match cur with
  | none => some (new, true)
  | some c =>
    if c.prio.toNat < new.prio.toNat then some (new, true)
    else if new.neigh = c.neigh then
      (if new.deadline.toNat < c.deadline.toNat then some ({ c with deadline := new.deadline }, true) else some (c, false))
    else none

/-- Posts a vacate request for a tenant; false for a refusal. -/
def postVacate (s : State) (tid : Nat) (remain : Nat) (prio : BitVec 3) (neigh : Option (BitVec 16)) : Bool × State :=
  match s.tenant? tid with
  | none => (false, s)
  | some t =>
    let new : Vacate := ⟨s.cycle + BitVec.ofNat 64 (remain * microsecond), prio, neigh.getD t.rcd.neigh, s.cycle⟩
    match mergeReq t.req new with
    | none => (false, s)
    | some (r, again) =>
      let s := s.modTenant tid fun t => { t with req := some r, phase := 1 }
      (true, if again then replan s tid else s)

end Sys2Proof.Machine
end

