-- ==== Sys2Proof/Machine/System.lean ====
section
/-! DEFINITION. The system registers: GETC and SETC (spec/03_opcode_map.md R69, R70; spec/13_translation_and_frames.md R296; each
register's own rule). -/

namespace Sys2Proof.Machine

/-! ### Selectors and privilege (R57, R70) -/

/-- The selectors of R70. -/
def selectors : List Nat :=
  [0x001, 0x002, 0x003, 0x004, 0x005, 0x010, 0x011, 0x012, 0x013, 0x014, 0x015, 0x016, 0x017, 0x018, 0x019, 0x020, 0x021, 0x022,
    0x023, 0x030, 0x031, 0x032, 0x033, 0x034, 0x040, 0x050, 0x051]

/-- Registers that only a handler accesses. -/
def handlerSel (sel : Nat) : Bool := [0x010, 0x011, 0x012, 0x013, 0x014].contains sel
/-- Registers that only a privileged context accesses; two of them can be read by any program. -/
def privSel (sel : Nat) : Bool := [0x015, 0x016, 0x017, 0x018, 0x023, 0x032].contains sel
def privWriteSel (sel : Nat) : Bool := privSel sel || [0x031, 0x051].contains sel

/-- PRIV of a selector (R335). -/
def selRaise (sel : Nat) : Raise := { Raise.plain cPRIV with aux0 := BitVec.ofNat 64 sel }

/-- The checks of a selector: it is listed, and its privilege is met. -/
def selCheck (s : State) (G : Group) (sel : Nat) (write : Bool) : Option Raise :=
  if !selectors.contains sel then some (.plain cILL)
  else if (handlerSel sel && !G.trap.hmode) || ((if write then privWriteSel sel else privSel sel) && !s.privOf G) then
    some (selRaise sel)
  else none

/-! ### Values -/

/-- A register from fields: each a value and its lowest bit. -/
def fields (l : List (Nat × Nat)) : W64 := BitVec.ofNat 64 (l.foldl (fun n f => n + f.1 * 2 ^ f.2) 0)

/-- A bit as a number. -/
def bitNat (b : Bool) : Nat := if b then 1 else 0

/-- FLANES (R333): LANES of the current cause's record. -/
def flanesReg (G : Group) : W64 := match G.trap.recs.toList.getD G.trap.cur none with
  | some r => r.info >>> 32
  | none => 0

/-- BUDGET (R121). -/
def budgetReg (G : Group) : W64 := fields [(G.spilled, 30), (G.pinned.length, 20), (G.held, 10), (G.bind.budget, 0)]

/-- FRESV (R290). -/
def fresvReg (c : Context) : W64 :=
  fields (c.reserves.toList.zipIdx.flatMap fun p =>
    [(p.1.free.length, 6 * p.2), (bitNat (decide (p.1.free.length + p.1.used.length < 17)), 6 * p.2 + 5)])

/-- FREE and CAP of a region as a read of its descriptor gives them (R301): undefined where a word is uncorrectable, for XPOOL reports no
failure. -/
def poolCounts (s : State) (c : Context) (r : BitVec 8) : (W32 × W32) × State :=
  match physWords s [regionAt c r 16, regionAt c r 20] with
  | (some [free, cap], s) => ((free, cap), s)
  | (_, s) => (((freeAt s 0).setWidth 32, (freeAt s 1).setWidth 32), s.useFree 2)

/-- XPOOL (R313), with the state after the reads that it takes. -/
def xpoolRead (s : State) (G : Group) : W64 × State :=
  match G.wait.region, s.ctxOf G with
  | some r, some c =>
    let ((free, cap), s) := poolCounts s c r
    (fields [(r.toNat, 48), (free.toNat % 2 ^ 24, 24), (cap.toNat % 2 ^ 24, 0)], s)
  | _, _ => (fields [(1, 63)], s)

/-- TENANT (R358). -/
def tenantReg (t : Tenant) : W64 :=
  fields [(t.rcd.quads.length, 36), (t.rcd.banks, 30), (popCount t.rcd.ways.toNat 16, 25), (t.rcd.bws, 18), (bitNat t.req.isSome, 17),
    (bitNat (t.losing != 0), 16), (t.tid, 0)]

/-- VACATE (R365). -/
def vacateReg (s : State) (t : Tenant) : W64 :=
  fields [(bitNat t.req.isSome, 63), (t.phase.toNat, 61), (match t.req with
    | some r => r.prio.toNat
    | none => 0, 58), (remainOf s t % 2 ^ 32, 0)]

/-- A field of a group's context, 0 without one. -/
def ctxReg (s : State) (G : Group) (f : Context → W64) : W64 := match s.ctxOf G with
  | some c => f c
  | none => 0

/-- A register of a group's tenant. -/
def tenReg (s : State) (G : Group) (f : Tenant → W64) : W64 := match tenantOf s G.bind.ctx with
  | some t => f t
  | none => 0

/-- DELTA (R292), HBASE (R333). -/
def deltaReg (c : Context) : W64 := (0#8 ++ c.deltaBase ++ 0#11 ++ c.deltaLogn).setWidth 64
def hbaseReg (c : Context) : W64 := (0#8 ++ c.hbase ++ 0#1 ++ BitVec.ofBool c.hbaseEn).setWidth 64

/-- The value of a register that a selector names. -/
def readSel (s : State) (G : Group) (sel : Nat) : W64 :=
  if sel = 0x001 then s.units
  else if sel = 0x002 then G.loc.reg
  else if sel = 0x003 then G.bind.gidx
  else if sel = 0x004 then G.bind.dbase
  else if sel = 0x005 then s.cycle
  else if sel = 0x010 then G.trap.cause
  else if sel = 0x011 then G.trap.epcs
  else if sel = 0x012 then G.trap.epcl
  else if sel = 0x013 then flanesReg G
  else if sel = 0x014 then recAddr G G.trap.cur
  else if sel = 0x015 then ctxReg s G hbaseReg
  else if sel = 0x016 then zext64 G.dbg.stepm
  else if sel = 0x017 then G.dbg.waddr
  else if sel = 0x018 then zext64 G.dbg.wctl
  else if sel = 0x019 then ctxReg s G fun c => c.calla
  else if sel = 0x020 then zext64 G.sc.fpctl
  else if sel = 0x021 then zext64 G.sc.fpstat
  else if sel = 0x022 then budgetReg G
  else if sel = 0x023 then G.bind.area
  else if sel = 0x030 then ctxReg s G fun c => zext64 c.asid
  else if sel = 0x031 then ctxReg s G fun c => zext64 c.xlctl
  else if sel = 0x032 then ctxReg s G deltaReg
  else if sel = 0x033 then ctxReg s G fresvReg
  else if sel = 0x034 then zext64 G.sc.scout
  else if sel = 0x040 then (xpoolRead s G).1
  else if sel = 0x050 then tenReg s G tenantReg
  else tenReg s G (vacateReg s)

/-! ### GETC -/

/-- GETC of a selector, after a wait. -/
def getSel (s : State) (d : SReg) (sel : Nat) (idle : Bool) : Host.Outcome State Fault Refusal :=
  runScalar s fun g G =>
    match selCheck s G sel false with
    | some r => .trap s r
    | none =>
      let k := sWrite s g G d (readSel s G sel)
      if idle then whenLaneIdle s g G k else k

def execGetc (d : SReg) (sel : BitVec 13) (s : State) : Host.Outcome State Fault Refusal := getSel s d sel.toNat false
def execGetcFpstat (d : SReg) (s : State) : Host.Outcome State Fault Refusal := getSel s d 0x021 true
def execGetcXpool (d : SReg) (s : State) : Host.Outcome State Fault Refusal :=
  runScalar s fun g G => whenLaneIdle s g G (sWrite (xpoolRead s G).2 g G d (readSel s G 0x040))

/-! ### SETC -/

/-- SETC of a selector, after a wait: f gives the state. -/
def setSel (s : State) (a : SReg) (sel : Nat) (idle : Bool) (f : Nat → Group → W64 → State) : Host.Outcome State Fault Refusal :=
  runScalar s fun g G =>
    match selCheck s G sel true with
    | some r => .trap s r
    | none =>
      let k := SRes.done (f g G (G.sreg a)) G.nextPc
      if idle then whenLaneIdle s g G k else k

/-- A group with its trap state, its debug state, or its scalar state changed. -/
def setTrap (s : State) (g : Nat) (f : TrapSt → TrapSt) : State := s.modGroup g fun G => { G with trap := f G.trap }
def setDbg (s : State) (g : Nat) (f : DebugSt → DebugSt) : State := s.modGroup g fun G => { G with dbg := f G.dbg }
def setSc (s : State) (g : Nat) (f : ScalarSt → ScalarSt) : State := s.modGroup g fun G => { G with sc := f G.sc }

/-- CAUSE as a write leaves it (R332): no bit is created. -/
def causeWrite (old x : W64) : W64 := old &&& x &&& 0x80000000001FFFFF#64

/-- WCTL as a write leaves it (R347). -/
def wctlWrite (old : BitVec 8) (x : W64) : BitVec 8 :=
  x.extractLsb' 5 3 ++ (if 16 < bitsOf x.toNat 4 0 then old.setWidth 5 else x.setWidth 5)

/-- XLCTL as a write leaves it (R295). -/
def xlctlWrite (old : BitVec 7) (x : W64) : BitVec 7 :=
  let fsvc : BitVec 2 := if x.extractLsb' 2 2 = 3#2 then old.extractLsb' 2 2 else x.extractLsb' 2 2
  BitVec.ofBool (old.getLsbD 6 && !x.getLsbD 6) ++ x.extractLsb' 4 2 ++ fsvc ++ x.extractLsb' 1 1 ++ 0#1

/-- LOGN as a write leaves it (R292). -/
def lognWrite (old : BitVec 5) (x : W64) : BitVec 5 :=
  if 6 ≤ bitsOf x.toNat 4 0 ∧ bitsOf x.toNat 4 0 ≤ 20 then x.setWidth 5 else old

/-- SETC of a register without a behaviour of its own: EPCS is written, a read-only one keeps its value. -/
def execSetc (a : SReg) (sel : BitVec 13) (s : State) : Host.Outcome State Fault Refusal :=
  setSel s a sel.toNat false fun g _ x =>
    if sel = 0x011#13 then setTrap s g fun t => { t with epcs := x &&& 0x00FFFFFFFFFFFFFC#64 } else s
def execSetcFpctl (a : SReg) (s : State) : Host.Outcome State Fault Refusal :=
  setSel s a 0x020 true fun g _ x => setSc s g fun c => { c with fpctl := x.setWidth 4 }
def execSetcFpstat (a : SReg) (s : State) : Host.Outcome State Fault Refusal :=
  setSel s a 0x021 true fun g _ x => setSc s g fun c => { c with fpstat := c.fpstat &&& ~~~(x.setWidth 4) }
def execSetcXlctl (a : SReg) (s : State) : Host.Outcome State Fault Refusal :=
  setSel s a 0x031 true fun _ G x => s.modCtx G.bind.ctx fun c => { c with xlctl := xlctlWrite c.xlctl x }
def execSetcDelta (a : SReg) (s : State) : Host.Outcome State Fault Refusal :=
  setSel s a 0x032 true fun _ G x => s.modCtx G.bind.ctx fun c =>
    { c with deltaBase := x.extractLsb' 16 40, deltaLogn := lognWrite c.deltaLogn x }
def execSetcVacate (a : SReg) (s : State) : Host.Outcome State Fault Refusal :=
  match setSel s a 0x051 false fun _ _ _ => s, s.group? s.cur with
  | .next t, some G =>
    let us := bitsOf (G.sreg a).toNat 31 0
    match s.ctxOf G with
    | some c => if (selCheck s G 0x051 true).isSome ∨ us = 0 then .next t else .next (postVacate t c.tenant us ((G.sreg a).extractLsb' 58 3) none).2
    | none => .next t
  | r, _ => r
def execSetcCause (a : SReg) (s : State) : Host.Outcome State Fault Refusal :=
  setSel s a 0x010 false fun g _ x => setTrap s g fun t => { t with cause := causeWrite t.cause x }
def execSetcHbase (a : SReg) (s : State) : Host.Outcome State Fault Refusal :=
  setSel s a 0x015 false fun _ G x => s.modCtx G.bind.ctx fun c => { c with hbase := x.extractLsb' 2 54, hbaseEn := x.getLsbD 0 }
def execSetcStepm (a : SReg) (s : State) : Host.Outcome State Fault Refusal :=
  setSel s a 0x016 true fun g _ x => setDbg s g fun d => if x.setWidth 2 = 3#2 then d else { d with stepm := x.setWidth 2 }
def execSetcWaddr (a : SReg) (s : State) : Host.Outcome State Fault Refusal :=
  setSel s a 0x017 true fun g _ x => setDbg s g fun d => { d with waddr := x &&& 0x00FFFFFFFFFFFFFC#64 }
def execSetcWctl (a : SReg) (s : State) : Host.Outcome State Fault Refusal :=
  setSel s a 0x018 true fun g _ x => setDbg s g fun d => { d with wctl := wctlWrite d.wctl x }
def execSetcScout (a : SReg) (s : State) : Host.Outcome State Fault Refusal :=
  setSel s a 0x034 false fun g _ x => setSc s g fun c => if 63 < x.toNat then c else { c with scout := x.setWidth 6 }
def execSetcEpcl (a : SReg) (s : State) : Host.Outcome State Fault Refusal :=
  setSel s a 0x012 false fun g _ x => setTrap s g fun t => { t with epcl := x &&& 0x80FFFFFFFFFFFFFF#64, epclSet := true }

end Sys2Proof.Machine
end

