-- ==== Sys2Proof/Machine/Traps.lean ====
section
/-! DEFINITION. The instructions of traps and of the debugger: TRAP, BRK, SRET, HALT, INJECT, and an unassigned word
(spec/16_traps_and_calls.md R330 to R341, R350, R351; spec/03_opcode_map.md R58). -/

namespace Sys2Proof.Machine

/-- A cause with a code. -/
def codeRaise (c : Cause) (code : BitVec 13) : Raise := { Raise.plain c with num := code.toNat }

/-- TRAP: retires, then traps (R341). In handler mode the cause is held pending. -/
def execTrap (code : BitVec 13) (s : State) : Host.Outcome State Fault Refusal :=
  let g := s.cur
  match s.group? g with
  | none => .fault .noGroup
  | some G =>
    let pc := G.sc.spc
    let s := writeCause (clearParty s (.scalar g) pc) G (codeRaise cTRAP code) false pc pc false
    let G := { G with
      sc := { G.sc with spc := pc + 4 }
      trap := { G.trap with firstS := false }
      wait := { G.wait with barTok := none } }
    let G := noteCause G (codeRaise cTRAP code) false pc pc false
    .next (if G.trap.hmode then s.setGroup g G else takeCause s g G cTRAP)

/-- BRK does not retire (R341). -/
def execBrk (code : BitVec 13) (s : State) : Host.Outcome State Fault Refusal :=
  runScalar s fun _ _ => .trap s (codeRaise cBRK code)

/-- SRET (R337). -/
def execSret (s : State) : Host.Outcome State Fault Refusal :=
  match s.group? s.cur with
  | none => .fault .noGroup
  | some G =>
    if G.trap.hmode && G.laneIdle then
      .next (syncStack (returnFromTrap (clearParty s (.scalar s.cur) G.sc.spc) s.cur G) s.cur G.lane.stack)
    else runScalar s fun g G => if G.trap.hmode then whenLaneIdle s g G (.wait s) else .trap s (.plain cPRIV)

/-- A group halted by HALT, with the number of the halt: EPCS names the next instruction, but in handler mode, where it is kept (R340). -/
def Group.stopAt (G : Group) (n : Nat) (next : W64) : Group :=
  { G with
    status := .stopped, stopNo := n
    lane := G.lane.halted
    trap := { G.trap with epcs := if G.trap.hmode then G.trap.epcs else epcsOf next } }

/-- HALT (R350). -/
def execHalt (s : State) : Host.Outcome State Fault Refusal :=
  runScalar s fun g G =>
    if s.privOf G then .done ((dropStreams s g).modGroup g fun G => G.stopAt (nextHalt s) (G.sc.spc + 4)) G.nextPc else .trap s (.plain cPRIV)

/-! ### INJECT (R350, R351) -/

/-- Runs k in a privileged context once the lane stream is idle. bad says that a must-be-zero bit is set. -/
def inject (s : State) (bad : Group → Bool) (k : Nat → Group → SRes) : Host.Outcome State Fault Refusal :=
  runScalar s fun g G =>
    if !s.privOf G then .trap s (.plain cPRIV)
    else if bad G then .trap s (.plain cILL)
    else whenLaneIdle s g G (k g G)

/-- A group with bits of a register's lane flipped, at once or when the operations in flight on its row are done. -/
def Group.flip (G : Group) (r : VNum) (lane : Nat) (x : W32) : Group :=
  ({ G with eng := { G.eng with flips := G.eng.flips ++ [(r, lane, x)] } }).settleFlips

/-- INJECT.reg. -/
def execInjectReg (d a b : SReg) (s : State) : Host.Outcome State Fault Refusal :=
  inject s (fun G => (G.sreg a &&& ~~~0x1F7F#64) != 0 || decide (2 ^ 32 ≤ (G.sreg b).toNat)) fun g G =>
    let r : VNum := (G.sreg a).setWidth 7
    let lane := bitsOf (G.sreg a).toNat 12 8
    if (G.vreg r).st = .unmapped then sWrite s g G d 0
    else match ensureRows s g [r] [] false with
      | .trap s x => .trap s x.first
      | .wait s _ => .wait s
      | .ok s => .done (s.modGroup g fun G => (G.flip r lane ((G.sreg b).setWidth 32)).setS d 1) G.nextPc

/-- INJECT.mem. -/
def execInjectMem (d a b : SReg) (s : State) : Host.Outcome State Fault Refusal :=
  inject s (fun G => decide (2 ^ 40 ≤ (G.sreg b).toNat)) fun g G =>
    let x := G.sreg a
    let m := G.sreg b
    let va := x.toNat
    if 2 ^ 56 ≤ va then .trap s (.at cXLAT 4 x)
    else if va % 4 ≠ 0 then .trap s (.at cALIGN 0 x)
    else match whoScalar s g G with
      | none => .wait s
      | some w => match locateMapped s w va .write with
        | (.wait, s) => .wait s
        | (.raise c k, s) => .trap s (.xlat c k va)
        | (.ok l, s) =>
          let ret (y : W64) (s : State) : SRes := .done (s.modGroup g fun G => G.setS d y) G.nextPc
          match l with
          | .mem tag pa _ _ =>
            let key := lineKey tag (va / 4)
            let s := flushRange (flushWrites s key 1) key 1
            ret 1 (dramFlip s pa (m.setWidth 32) (m.extractLsb' 32 8))
          | _ => ret 0 s

/-- INJECT.trip. -/
def execInjectTrip (d a b : SReg) (s : State) : Host.Outcome State Fault Refusal :=
  inject s (fun G => G.sreg b != 0) fun g G =>
    .done (s.modGroup g fun G =>
      ({ G with dbg := { G.dbg with trip := some (G.sreg a &&& ~~~3#64) } }).setS d 1) G.nextPc

/-- A fetched word that is no instruction (R58): ILL at the stream's PC. -/
def execUnassignedInstruction (s : State) : Host.Outcome State Fault Refusal :=
  match s.group? s.cur with
  | none => .fault .noGroup
  | some G =>
    if s.curLane then
      let G := G.lane.rel.foldl Group.release G
      let s := s.setGroup s.cur { G with lane := { G.lane with chain := none, rel := [] } }
      if G.lane.run.isSome then trapLane s s.cur G.lane.lpc (.plain cILL) else .fault .noGroup
    else runScalar s fun _ _ => .trap s (.plain cILL)

end Sys2Proof.Machine
end

