-- ==== Sys2Proof/Machine/StreamEvents.lean ====
section
/-! DEFINITION. The part's own steps that act on a group's streams: runs that start, waits that end, stores that are performed, and
firmware's resume of a halted group (spec/02 R28; spec/05 R108; spec/07 R156, R160; spec/12 R265; spec/16 R330, R350; spec/18 R387). -/

namespace Sys2Proof.Machine

/-- Runs k on a group that can make the step. -/
def onGroup (s : State) (g : Nat) (ok : Group → Bool) (k : Group → State) : Host.Outcome State Fault Refusal :=
  match s.group? g with
  | some G => if ok G then .next (k G) else .fault .notEnabled
  | none => .fault .notEnabled

/-- A group with the head run of its decision queue started (R28). -/
def Group.startRun (G : Group) : Group :=
  match G.lane.dq with
  | [] => G
  | r :: t => { G with lane := { G.lane with
      run := some r, lpc := r.addr, dq := t, latches := noLatches, chain := none, rel := [], stall := .none } }

/-- RUN_START. -/
def execRunStart (g : Nat) (s : State) : Host.Outcome State Fault Refusal :=
  onGroup s g (fun G => G.running && G.lane.run.isNone && !G.lane.dq.isEmpty) fun G => s.setGroup g G.startRun

/-- The item queue of a group has an item, or is closed. -/
def queueMoves (s : State) (G : Group) : Bool :=
  match (s.teamOf G).bind fun t => itemQueue t G.loc.coreId with
  | some q => q.closed || !q.ranges.isEmpty
  | none => true

/-- ITEM_RETRY: the waiting ITEM executes again (R156). -/
def execItemRetry (g : Nat) (s : State) : Host.Outcome State Fault Refusal :=
  onGroup s g (fun G => G.running && G.lane.stall == .item && queueMoves s G) fun G =>
    s.setGroup g { G with lane := { G.lane with stall := .none } }

/-- YIELD_RESUME (R108). -/
def execYieldResume (g : Nat) (s : State) : Host.Outcome State Fault Refusal :=
  onGroup s g (fun G => G.wait.paused) fun G => s.setGroup g { G with wait := { G.wait with paused := false } }

/-- BRC_ADMISSION_CLOSE (R160). -/
def execBrcAdmissionClose (m : Nat) (s : State) : Host.Outcome State Fault Refusal :=
  match s.meets[m]? with
  | some x =>
    if x.admitting && !x.closed && !anyHalted s (x.members.map (·.group)) then .next (closeAdmission s m x) else .fault .notEnabled
  | none => .fault .notEnabled

/-- QUEUE noted for each frozen queue that a group has been given (R387): the first one's record, OVF for more. -/
def noteQueues (s : State) (G : Group) : List W64 → State × Group
  | [] => (s, G)
  | b :: t =>
    let r := { Raise.plain cQUEUE with aux1 := b }
    noteQueues (writeCause s G r false G.sc.spc G.sc.spc false) (noteCause G r false G.sc.spc G.sc.spc false) t

/-- QUEUE taken at a boundary of the scalar stream. -/
def takeQueue (s : State) (g : Nat) (G : Group) : State :=
  let (s, G) := noteQueues s { G with queueDue := [] } G.queueDue
  if G.trap.hmode then s.setGroup g G else takeCause s g G cQUEUE

/-- QUEUE_CAUSE. -/
def execQueueCause (g : Nat) (s : State) : Host.Outcome State Fault Refusal :=
  onGroup s g (fun G => G.running && !G.queueDue.isEmpty) fun G => takeQueue s g G

/-! ### Stores on their way (R265) -/

/-- Positions in the list of writes of a group's writes. -/
def writesOf (s : State) (g : Nat) : List Nat := (s.sq.zipIdx.filter fun p => p.1.group == g).map (·.2)

/-- A write may move on: of the queued writes of a group to one word, the oldest is performed first. -/
def mayPerform (s : State) (i : Nat) (w : PWrite) : Bool := w.stage != 0 || !(s.sq.take i).any (queuedAt w.group w.key)

/-- A write moves on by one point of R265: performed in its core cache with ownership of its word, written to its slice, and visible to
every party. -/
def performWrite (s : State) (i : Nat) (w : PWrite) : State :=
  if w.stage = 0 then { applyWrite s w with sq := s.sq.set i { w with stage := 1 } }
  else if w.stage = 1 then { writeToSlice s w with sq := s.sq.set i { w with stage := 2 } }
  else { s with sq := s.sq.eraseIdx i }

/-- ACCESS_PERFORMED: the n-th write of a group on its way. -/
def execAccessPerformed (g n : Nat) (s : State) : Host.Outcome State Fault Refusal :=
  match (writesOf s g)[n]? with
  | none => .fault .notEnabled
  | some i => match s.sq[i]? with
    | none => .fault .notEnabled
    | some w => if mayPerform s i w then .next (performWrite s i w) else .fault .notEnabled

/-! ### Resuming a group that halted in place (R330, R350) -/

/-- A context's HBASE written by firmware. -/
def writeHbase (s : State) (ctx : Nat) (x : W64) : State :=
  s.modCtx ctx fun c => { c with hbase := x.extractLsb' 2 54, hbaseEn := x.getLsbD 0 }

/-- A group that halted with a cause resumes: the trap is delivered where HBASE is enabled, else the cause is dropped. -/
def resumeTrapped (s : State) (g : Nat) (G : Group) (c : Cause) : State :=
  let G := { G with status := .running }
  match s.ctxOf G with
  | some x =>
    if x.hbaseEn then s.setGroup g (enterHandler G x.handler)
    else s.setGroup g { G with lane := G.lane.halted, trap := { G.trap with cause := G.trap.cause &&& ~~~(1#64 <<< c) } }
  | none => s

/-- GROUP_RESUME. -/
def execGroupResume (g : Nat) (hbase : Option W64) (s : State) : Host.Outcome State Fault Refusal :=
  match s.group? g with
  | none => .fault .notEnabled
  | some G =>
    let s := match hbase with
      | some x => writeHbase s G.bind.ctx x
      | none => s
    match G.status with
    | .trapped c => .next (resumeTrapped (rereadLists s g) g G c)
    | .stopped => .next ((rereadLists s g).setGroup g { G with status := .running })
    | _ => .fault .notEnabled

end Sys2Proof.Machine
end

