-- ==== Sys2Proof/Machine/EngineEvents.lean ====
section
/-! DEFINITION. The part's own steps that complete engine work, and drops of the record cache (spec/08 R189, R193 to R196; spec/09 R205
to R209, R214; spec/15 R316, R323). -/

namespace Sys2Proof.Machine

/-- Runs k on a command of a group whose commands run, once the engine has started it. -/
def onCmd (s : State) (n : Nat) (copy : Bool) (k : Cmd → Nat → State) : Host.Outcome State Fault Refusal :=
  match s.cmds[n]? with
  | none => .fault .notEnabled
  | some c => match s.group? c.group with
    | none => .fault .notEnabled
    | some G =>
      if !c.ended && c.kind.isCopy == copy && cmdsRun s G && startable s n c then .next (k c G.bind.team) else .fault .notEnabled

/-- COPY_COMPLETE (R193 to R195): the rest of a copy. -/
def execCopyComplete (n : Nat) (s : State) : Host.Outcome State Fault Refusal :=
  onCmd s n true fun c t => copyRun s n c t clearMost 0

/-- CLEARING_COMPLETE (R323): the rest of a clearing command. -/
def execClearingComplete (n : Nat) (odd : List Nat) (s : State) : Host.Outcome State Fault Refusal :=
  onCmd s n false fun c t => clearRun s n c t clearMost 0 odd

/-- Some accesses of a command on their own: k elements of a copy, k entries of a walk, or k rows of a table command, from its next one on or from
one ahead of it (R193, R269, R320). -/
def advanceCmd (n k ahead : Nat) (s : State) : Host.Outcome State Fault Refusal :=
  match s.cmds[n]? with
  | none => .fault .notEnabled
  | some c =>
    if c.kind.isCopy then onCmd s n true fun c t => copyRun s n c t k ahead else onCmd s n false fun c t => clearRun s n c t k ahead []

/-- The oldest operation in flight of a group whose operations run (R206). -/
def headOp (s : State) (G : Group) : Option MOp := if cmdsRun s G then G.eng.mops.find? fun m => m.st == .flight else none

/-- An operation waits for its meeting to start. -/
def waitsMeeting (s : State) (m : MOp) : Bool :=
  match m.kind with
  | .mmq _ _ _ _ _ (some n) => match s.qmeets[n]? with
    | some q => !q.started
    | none => false
  | _ => false

/-- An operation's turn has come in its quadrant: no other group's oldest operation was issued before it (R216). -/
def isTurn (s : State) (quad : Nat) (m : MOp) : Bool :=
  (quadGroups s quad).all fun G => match headOp s G with
    | some h => waitsMeeting s h || decide (m.ord ≤ h.ord)
    | none => true

/-- The operation that a group's token names, when every earlier one of the group is done and its turn has come. -/
def nextOp (s : State) (G : Group) (tok : BitVec 8) : Option MOp :=
  match headOp s G with
  | some m => if m.num % 256 = tok.toNat ∧ isTurn s G.loc.quadId m = true then some m else none
  | none => none

/-- An operation is its group's next one. -/
def isNext (s : State) (g num : Nat) : Option MOp :=
  match (s.group? g).bind (headOp s) with
  | some m => if m.num = num then some m else none
  | none => none

/-- The members of an operation that can run now: itself, or the four of its meeting. -/
def partsOf (s : State) (g : Nat) (m : MOp) : Option (List Part × Option Nat) :=
  match m.kind with
  | .had _ _ _ _ => none
  | .mmq _ _ _ _ _ none => some ([⟨0, g, m⟩], none)
  | .mmq _ _ _ _ _ (some n) => match s.qmeets[n]? with
    | none => none
    | some q =>
      if q.started ∧ q.ended = false then
        let ps := ((sortBy (fun a b => decide (a.1 ≤ b.1)) q.members).map fun x =>
          (isNext s x.2.1 x.2.2).map fun o => (⟨x.1, x.2.1, o⟩ : Part))
        if ps.all Option.isSome then some (ps.filterMap id, some n) else none
      else none

/-- The rows of groups that are gone, freed as their operations complete (R109); so are the hazards of those operations. -/
def freeGone (s : State) (gs : List Nat) : State :=
  gs.foldl (fun s g => s.modGroup g fun G => if G.gone then G.freeRows else G) s

/-- MATRIX_OP_COMPLETE (R205). -/
def execMatrixOpComplete (g : Nat) (token : BitVec 8) (s : State) : Host.Outcome State Fault Refusal :=
  match s.group? g with
  | none => .fault .notEnabled
  | some G => match nextOp s G token with
    | none => .fault .notEnabled
    | some m => match partsOf s g m with
      | none => .fault .notEnabled
      | some (ps, n) =>
        let s := runMatrix s ps
        let s := match n with
          | some n => { s with qmeets := s.qmeets.modify n fun q => { q with ended := true } }
          | none => s
        .next (freeGone s (ps.map (·.g)))

/-- HAD_COMPLETE (R214). -/
def execHadComplete (g : Nat) (token : BitVec 8) (s : State) : Host.Outcome State Fault Refusal :=
  match s.group? g with
  | none => .fault .notEnabled
  | some G => match nextOp s G token with
    | none => .fault .notEnabled
    | some m => match m.kind with
      | .had _ _ _ _ => .next (freeGone (runHad s g G m) [g])
      | .mmq _ _ _ _ _ _ => .fault .notEnabled

/-- RECORD_CACHE_DROP (R189). -/
def execRecordCacheDrop (cluster : Nat) (asid : BitVec 16) (addr : W64) (s : State) : Host.Outcome State Fault Refusal :=
  let hit (e : RcEntry) : Bool := e.cluster == cluster && e.tag == asid && e.addr == addr
  if s.rcache.any hit then .next { s with rcache := s.rcache.filter fun e => !hit e } else .fault .notEnabled

end Sys2Proof.Machine
end

