-- ==== Sys2Proof/Machine/MemoryEvents.lean ====
section
/-! DEFINITION. The part's own steps of the memory side: translation, the fault service, migration, evictions, bursts, scrubs, refresh,
the strand split and soft errors (spec/10 R223 to R235; spec/11 R247, R248; spec/13 R279 to R291, R300; spec/06 R118; spec/08 R173). -/

namespace Sys2Proof.Machine

/-! ### Page tables as firmware edits them (R279, R280, R285) -/

/-- The live context of an identifier. -/
def ctxByAsid (s : State) (asid : BitVec 16) : Option Nat := s.contexts.findIdx? fun c => c.live && c.asid == asid

/-- The physical address of the entry for an address at a level, below a table; none where a table above it is missing. -/
def entryPlace (s : State) (va target table : Nat) : Nat → Option Nat
  | 0 => if target = 0 then some (table + 8 * tableIndex va 0) else none
  | n + 1 =>
    let pa := table + 8 * tableIndex va (n + 1)
    if target = n + 1 then some pa
    else
      let e := rawDouble s pa
      if leafV e && !leafLeaf e then entryPlace s va target (leafAddr e) n else none

/-- The leaf that maps an address: the place of its entry, its level, the entry. -/
def leafPlace (s : State) (c : Context) (va : Nat) : Option (Nat × Nat × W64) :=
  let at_ (l : Nat) : Option (Nat × Nat × W64) := match entryPlace s va l c.root 3 with
    | some pa => let e := rawDouble s pa
      if leafV e && leafLeaf e then some (pa, l, e) else none
    | none => none
  match at_ 1 with
  | some x => some x
  | none => at_ 0

/-- The words of the entries on the way to the leaf of an address, as firmware reads them. -/
def pathWords (s : State) (c : Context) (va : Nat) : List Nat :=
  [3, 2, 1, 0].flatMap fun l => match entryPlace s va l c.root 3 with
    | some pa => [pa, pa + 4]
    | none => []

/-- The leaves below a table of a level: address, place, level, entry. -/
def leavesBelow (s : State) (table base : Nat) : Nat → List (Nat × Nat × Nat × W64)
  | 0 => (List.range 32).filterMap fun i =>
      let pa := table + 8 * i
      let e := rawDouble s pa
      if leafV e && leafLeaf e then some (base + 65536 * i, pa, 0, e) else none
  | n + 1 => (List.range (tableSize (n + 1))).flatMap fun i =>
      let pa := table + 8 * i
      let e := rawDouble s pa
      let va := base + i * (if n = 0 then 2 ^ 21 else if n = 1 then 2 ^ 34 else 2 ^ 47)
      if !leafV e then [] else if leafLeaf e then [(va, pa, n + 1, e)] else leavesBelow s (leafAddr e) va n

/-- A change of an entry that firmware makes without an invalidation (R285): V or W from 0 to 1. -/
def quietChange (old new : W64) : Bool := !leafV old || (leafLeaf old && !leafW old && new == (old ||| 4#64))

/-- An entry written, through an invalidation of its range where R285 asks for one. -/
def changeEntry (s : State) (c : Context) (va level pa : Nat) (new : W64) : State :=
  let old := rawDouble s pa
  let bytes := leafBytes level
  let base := va / bytes * bytes
  let s := if quietChange old new then s
    else if leafLeaf old then invalidatePage s c.asid (leafG old) base bytes
    else invalidatePage (invalidatePage s c.asid false base bytes) c.asid true base bytes
  dramWrite64 s pa new

/-! ### The unique writable mapping rule (R247) -/

/-- Two ranges of bytes, each from its start and length, overlap. -/
def meets (a n b m : Nat) : Bool := decide (a < b + m ∧ b < a + n)

/-- A leaf as it maps memory: context, identifier, address, first frame byte, bytes, writable. -/
structure Mapping where
  ctx : Nat
  tag : BitVec 16
  va : Nat
  pa : Nat
  bytes : Nat
  w : Bool
  deriving DecidableEq, Repr

/-- The mapping of a leaf; none for a sparse page, whose ADDR names no frame. -/
def mappingOf (ctx : Nat) (asid : BitVec 16) (va level : Nat) (e : W64) : Option Mapping :=
  if leafV e && leafLeaf e && !leafSparse e then some ⟨ctx, leafTag asid e, va, leafAddr e, leafBytes level, leafW e⟩ else none

/-- Two mappings break the unique writable mapping rule: a page writable in an address space is mapped there once, and by another
identifier not writable. -/
def mapClash (a b : Mapping) : Bool :=
  meets a.pa a.bytes b.pa b.bytes &&
  (if a.ctx = b.ctx ∨ a.tag = b.tag then decide (a.va + b.pa ≠ b.va + a.pa) && (a.w || b.w) else a.w && b.w)

/-- The mappings of a context but for those of a range of addresses. -/
def mappingsOf (s : State) (ctx : Nat) (c : Context) (lo bytes : Nat) : List Mapping :=
  (leavesBelow s c.root 0 3).filterMap fun l =>
    if meets lo bytes l.1 (leafBytes l.2.2.1) then none else mappingOf ctx c.asid l.1 l.2.2.1 l.2.2.2

/-- The mappings that a new entry makes: its own, or those of the table it points to. -/
def newMappings (s : State) (ctx : Nat) (asid : BitVec 16) (va level : Nat) (e : W64) : List Mapping :=
  if !leafV e then []
  else if leafLeaf e then (mappingOf ctx asid va level e).toList
  else (List.range 32).filterMap fun i => mappingOf ctx asid (va + 65536 * i) 0 (rawDouble s (leafAddr e + 8 * i))

/-- A new entry would break the rule. -/
def entryClash (s : State) (ctx va level : Nat) (e : W64) : Bool :=
  match s.contexts[ctx]? with
  | none => false
  | some c =>
    let mine := newMappings s ctx c.asid va level e
    let others := s.contexts.zipIdx.flatMap fun p =>
      if !p.1.live then [] else if p.2 = ctx then mappingsOf s p.2 p.1 va (leafBytes level) else mappingsOf s p.2 p.1 0 0
    mine.any fun a => others.any (mapClash a) || mine.any fun b => a != b && mapClash a b

/-! ### Frames (R289) -/

/-- The state with the free list of a stack replaced. -/
def State.setFrames (s : State) (st : Nat) (l : List Nat) : State := { s with frames := s.frames.setIfInBounds st l }
/-- The free list of a stack. -/
def framesOf (s : State) (st : Nat) : List Nat := s.frames.toList.getD st []
/-- The reserve of a context in a stack. -/
def reserveOf (c : Context) (st : Nat) : Reserve := c.reserves.toList.getD st ⟨[], []⟩
/-- The state with a reserve replaced. -/
def State.setReserve (s : State) (ctx st : Nat) (r : Reserve) : State :=
  s.modCtx ctx fun c => { c with reserves := c.reserves.setIfInBounds st r }

/-- Frames that a context sets aside in each stack. -/
def reserveFrames : Nat := 17

/-- The 64 KiB frames of a page. -/
def pageFrames (a level : Nat) : List Nat := (List.range (leafBytes level / 65536)).map fun i => a + 65536 * i

/-- The pages that the instruction of a fault record's first party needs, and the page of the fault, in 64 KiB units. -/
def neededPages (s : State) (f : OpenFault) : List Nat :=
  f.page :: match f.joined with
    | [] => []
    | p :: _ => (s.psets.filter fun e => e.party == p.1).flatMap (·.need)

/-- A page that may be evicted: its address, its level, the place of its entry, and the entry. -/
structure OutPage where
  va : Nat
  level : Nat
  place : Nat
  leaf : W64
  deriving DecidableEq, Repr

/-- The 64 KiB frames of a page that may be evicted. -/
def OutPage.frames (p : OutPage) : List Nat := pageFrames (leafAddr p.leaf) p.level

/-- The pages of a context that may be evicted from a stack for a fault: unpinned, not sparse, and not needed. -/
def evictable (s : State) (c : Context) (st : Nat) (f : OpenFault) : List OutPage :=
  (leavesBelow s c.root 0 3).filterMap fun l =>
    let n := leafBytes l.2.2.1 / 65536
    if l.2.2.1 ≤ 1 ∧ leafPin l.2.2.2 = false ∧ leafSparse l.2.2.2 = false ∧ paStack (leafAddr l.2.2.2) = st ∧
        (neededPages s f).any (fun p => decide (l.1 / 65536 ≤ p ∧ p < l.1 / 65536 + n)) = false then some ⟨l.1, l.2.2.1, l.2.1, l.2.2.2⟩ else none

/-- The addresses of the words of a page of 64 KiB. -/
def pageAt (pa : Nat) : List Nat := (List.range 16384).map fun i => pa + 4 * i

/-- A page of 64 KiB sent to the host, none where a word is uncorrectable. DESIGN CHOICE (log 110): the spec names no packet kind for it, and the
model sends kind 0. -/
def sendPage (s : State) (c : Context) (va pa : Nat) : State :=
  let ws := (pageAt pa).map (wordValue s)
  (sendPkt (touch s (pageAt pa)) 0#8 c.creator c.asid 0 (.pageOut (BitVec.ofNat 64 va) ws)).2

/-- A page evicted: through an invalidation, its words sent to the host and its leaf set to V = 0. -/
def pageOut (s : State) (c : Context) (p : OutPage) : State :=
  let s := changeEntry s c p.va p.level p.place 0
  p.frames.zipIdx.foldl (fun s x => sendPage s c (p.va + 65536 * x.2) x.1) s

/-- The frames of an evicted page go on: those of the reserve are free in it again, the others join the free list of their stack. -/
def freeOut (s : State) (ctx st : Nat) (fs : List Nat) : State := match s.contexts[ctx]? with
  | none => s
  | some c =>
    let r := reserveOf c st
    let mine := fs.filter r.used.contains
    let s := s.setReserve ctx st ⟨r.free ++ mine, r.used.filter fun f => !mine.contains f⟩
    s.setFrames st (framesOf s st ++ fs.filter fun f => !mine.contains f)

/-- The page in a frame evicted, if it may be; the frame is the caller's. -/
def evictPage (s : State) (ctx : Nat) (c : Context) (f : OpenFault) (frame : Nat) : Option State :=
  ((evictable s c (paStack frame) f).find? fun p => p.frames.contains frame).map fun p =>
    freeOut (pageOut s c p) ctx (paStack frame) (p.frames.filter (· ≠ frame))

/-- A reserve refilled from the free list. -/
def fillReserve (s : State) (ctx st : Nat) : State := match s.contexts[ctx]? with
  | none => s
  | some c =>
    let r := reserveOf c st
    let l := framesOf s st
    let k := min (reserveFrames - r.free.length) l.length
    (s.setFrames st (l.drop k)).setReserve ctx st ⟨r.free ++ l.take k, r.used.take (reserveFrames - (r.free.length + k))⟩

/-- A used reserve refilled before the context's next fault in its stack, from the free list or by evicting pages that the fault's instruction
does not need, at most n of them. DESIGN CHOICE (log 118): the pages go in the order of their addresses. -/
def refillReserve (s : State) (ctx st : Nat) (f : OpenFault) : Nat → State
  | 0 => fillReserve s ctx st
  | n + 1 =>
    let s := fillReserve s ctx st
    match s.contexts[ctx]? with
    | none => s
    | some c =>
      if reserveFrames ≤ (reserveOf c st).free.length then s
      else match evictable s c st f with
        | [] => s
        | p :: _ => refillReserve (freeOut (pageOut s c p) ctx st p.frames) ctx st f n

/-- A frame taken for a page in the order of R289; none when it is not to be had. A pinned page takes no frame of a reserve. -/
def takeFor (s : State) (ctx : Nat) (c : Context) (f : OpenFault) (pin : Bool) (frame : Nat) : Option State :=
  let st := paStack frame
  let l := framesOf s st
  let r := reserveOf c st
  if l.contains frame then some (s.setFrames st (l.filter (· ≠ frame)))
  else if !l.isEmpty then none
  else if r.free.contains frame then
    if pin then none else some (s.setReserve ctx st ⟨r.free.filter (· ≠ frame), r.used ++ [frame]⟩)
  else if (!r.free.isEmpty && !pin) || (pin && r.used.contains frame) then none
  else evictPage s ctx c f frame

/-- A 2 MiB frame taken from the free list; none when it is not free. -/
def takeBig (s : State) (frame : Nat) : Option State :=
  let st := paStack frame
  let l := framesOf s st
  let fs := pageFrames frame 1
  if fs.all l.contains then some (s.setFrames st (l.filter fun f => !fs.contains f)) else none

/-- A page that becomes pinned takes its frame out of the context's reserve (R289). -/
def pinFrame (s : State) (ctx : Nat) (c : Context) (leaf : W64) : State :=
  let st := paStack (leafAddr leaf)
  let r := reserveOf c st
  if leafV leaf && leafLeaf leaf && leafPin leaf && r.used.contains (leafAddr leaf) then
    s.setReserve ctx st { r with used := r.used.filter (· ≠ leafAddr leaf) }
  else s

/-- A zeroed table in a free frame of the lowest stack that has one. -/
def newTable (s : State) : Option (Nat × State) :=
  match (List.range 8).find? fun st => !(framesOf s st).isEmpty with
  | none => none
  | some st => match framesOf s st with
    | [] => none
    | f :: t => some (f, fillWords (s.setFrames st t) f 0 16384)

/-- The place of the entry of an address at a target level, with missing tables built on the way from a level; none where a leaf stands
above it, or no frame is free. -/
def buildPlace (s : State) (va target table : Nat) : Nat → Option (Nat × State)
  | 0 => if target = 0 then some (table + 8 * tableIndex va 0, s) else none
  | n + 1 =>
    let pa := table + 8 * tableIndex va (n + 1)
    let e := rawDouble s pa
    if target = n + 1 then some (pa, s)
    else if leafV e then (if leafLeaf e then none else buildPlace s va target (leafAddr e) n)
    else match newTable s with
      | none => none
      | some (f, s) => buildPlace (dramWrite64 s pa (BitVec.ofNat 64 (f + 1))) va target f n

/-- No table or leaf stands for the 2 MiB range of an address. -/
def rangeOpen (s : State) (c : Context) (va : Nat) : Bool := match entryPlace s va 1 c.root 3 with
  | some pa => !leafV (rawDouble s pa)
  | none => true

/-- The level of a page that the service maps with a leaf. DESIGN CHOICE (log 54): 2 MiB where nothing stands for the range and the leaf's
frame begins a free 2 MiB frame, else 64 KiB. -/
def serveLevel (s : State) (c : Context) (va : Nat) (leaf : W64) : Nat :=
  let a := leafAddr leaf
  if !leafSparse leaf && rangeOpen s c va && a % 2 ^ 21 == 0 && (takeBig s a).isSome then 1 else 0

/-- The place where the service writes the leaf of a page, and its level. -/
def servePlace (s : State) (c : Context) (va : Nat) (leaf : W64) : Option (Nat × Nat × State) :=
  match leafPlace s c va with
  | some (pa, l, _) => some (pa, l, s)
  | none =>
    let l := serveLevel s c va leaf
    (buildPlace s va l c.root 3).map fun p => (p.1, l, p.2)

/-! ### The fault service (R286 to R289) -/

/-- An open fault record. -/
def openFault (s : State) (n : Nat) : Option OpenFault := match s.faults[n]? with
  | some f => if f.closed then none else some f
  | none => none

/-- A fault record closed: its joined accesses are made again. -/
def closeFault (s : State) (n : Nat) : State := { s with faults := s.faults.modify n fun f => { f with closed := true } }

/-- The frame of a leaf taken for the page of a fault at a level; none when it is not to be had. -/
def serveFrame (s : State) (f : OpenFault) (c : Context) (level : Nat) (old leaf : W64) : Option State :=
  let frame := leafAddr leaf
  if leafSparse leaf || (leafV old && leafAddr old == frame) then some s
  else if level = 1 then takeBig s frame
  else
    let s := refillReserve s f.ctx (paStack frame) f reserveFrames
    match s.contexts[f.ctx]? with
    | some c => takeFor s f.ctx c f (leafPin leaf) frame
    | none => none

/-- Resolves a fault with a leaf; none when the leaf or its frame is not to be had, or the leaf would break the rule of R247. -/
def serveFault (s : State) (n : Nat) (f : OpenFault) (leaf : W64) : Option State :=
  match s.contexts[f.ctx]? with
  | none => none
  | some c =>
    let va := f.page * 65536
    match servePlace s c va leaf with
    | none => none
    | some (pa, level, s) =>
      let base := va / leafBytes level * leafBytes level
      if !leafV leaf || !leafLeaf leaf || entryBad s c.asid va level leaf then none
      else (serveFrame (touch s (pathWords s c va)) f c level (rawDouble s pa) leaf).bind fun s =>
        if entryClash s f.ctx base level leaf then none
        else some (closeFault (pinFrame (changeEntry s c va level pa leaf) f.ctx c leaf) n)

/-- Delivers a fault to every joined access: what each gets by its own subcode. -/
def deliverFault (s : State) (n : Nat) (f : OpenFault) (k : Nat → Cause × Nat) : State :=
  closeFault { s with verdicts := s.verdicts ++ f.joined.map fun p => ⟨p.1, f.page, f.big, (k p.2).1, (k p.2).2⟩ } n

/-- A fault delivered as it is. -/
def asItIs (sub : Nat) : Cause × Nat := (faultCause sub, sub)

/-- FAULT_RESOLVE, by firmware (R287, R289). -/
def execFaultResolve (n : Nat) (leaf : W64) (s : State) : Host.Outcome State Fault Refusal :=
  match openFault s n with
  | some f => if f.toHost then .fault .notEnabled else match serveFault s n f leaf with
    | some s => .next s
    | none => .fault .notEnabled
  | none => .fault .notEnabled

/-- No frame is to be had for the page of a fault (R289). -/
def frameSpent (s : State) (f : OpenFault) : Bool := match s.contexts[f.ctx]? with
  | none => true
  | some c =>
    let leaf := (leafPlace s c (f.page * 65536)).map (·.2.2)
    let tag := match leaf with
      | some e => leafTag c.asid e
      | none => c.asid
    let st := homeStack tag (f.page * 65536)
    (framesOf s st).isEmpty && (reserveOf c st).free.isEmpty && (evictable s c st f).isEmpty

/-- FAULT_DELIVER, by firmware: FRAME where no frame is to be had; with FSVC = 1 a fault that firmware cannot resolve goes on to the host
(R287, R295). -/
def execFaultDeliver (n : Nat) (frame : Bool) (s : State) : Host.Outcome State Fault Refusal :=
  match openFault s n with
  | none => .fault .notEnabled
  | some f =>
    if f.toHost then .fault .notEnabled
    else if frame then
      if frameSpent s f then .next (deliverFault s n f fun _ => (cFRAME, 0)) else .fault .notEnabled
    else match s.contexts[f.ctx]? with
      | some c =>
        if c.fsvc = 1#2 then
          .next (noticeCtx { s with faults := s.faults.modify n fun f => { f with toHost := true } } f.ctx (.faultRecord n))
        else .next (deliverFault s n f asItIs)
      | none => .fault .notEnabled

/-- FAULT_HOST_TIMEOUT (R286). -/
def execFaultHostTimeout (n : Nat) (s : State) : Host.Outcome State Fault Refusal :=
  match openFault s n with
  | some f => if f.toHost then .next (deliverFault s n f fun _ => (cXLAT, 8)) else .fault .notEnabled
  | none => .fault .notEnabled

/-! ### Misses and the scout (R194, R283, R287) -/

/-- The memory address of an element of a copy, and whether it is written; none for one that touches no memory. -/
def copyPlace (c : Cmd) (f : Nat) : Option (Nat × Bool) :=
  let place (store : Bool) (org sz : W64) : Option (Nat × Bool) :=
    let i := elemCoord c.rcd org sz f
    match boundsOf c.rcd store i with
    | .at i => some (if c.rcd.described then (elemBlock c.rcd i).1 else elemAddr c.rcd i, store)
    | _ => none
  match c.kind with
  | .copyLd _ org sz => place false org sz
  | .copySt _ org sz => place true org sz
  | .accst _ _ _ org sz _ => place true org sz
  | _ => none

/-- The number of elements of a copy. -/
def copyCount (c : Cmd) : Nat :=
  match c.kind with
  | .copyLd _ _ sz => boxCount c.rcd sz
  | .copySt _ _ sz => boxCount c.rcd sz
  | .accst _ _ _ _ sz _ => boxCount c.rcd sz
  | _ => 0

/-- The distinct pages of elements from f on, at most k of them, latest first; page gives the page of an address. -/
def pagesFrom (place : Nat → Option (Nat × Bool)) (page : Nat → Nat) (k : Nat) (seen : List Nat) (f : Nat) : Nat → List Nat
  | 0 => seen
  | n + 1 => match place f with
    | none => pagesFrom place page k seen (f + 1) n
    | some (a, _) =>
      if seen.contains (page a) then pagesFrom place page k seen (f + 1) n
      else if k ≤ seen.length then seen
      else pagesFrom place page k (page a :: seen) (f + 1) n

/-- The number of the page of an address in a context, of 2 MiB where its leaf is at level 1 (R279). -/
def ctxPage (s : State) (c : Context) (va : Nat) : Nat := match leafPlace s c va with
  | some (_, l, _) => pageNo va (decide (l = 1))
  | none => pageNo va false

/-- A command's scout pass covers an access: one of its next DIST pages beyond the current one (R194). -/
def scouts (s : State) (ctx : Context) (c : Cmd) (va : Nat) (k : AccKind) : Bool :=
  let page := ctxPage s ctx
  let here := ((copyPlace c c.next).map fun p => page p.1).getD 0
  let pages := (pagesFrom (copyPlace c) page (c.scout + 1) [] c.next (copyCount c - c.next)).filter (· != here)
  (peerIn ctx va).isNone && pages.contains (page va) && (k == .read || k == .write) && (copyPlace c c.next).all fun p => p.2 == (k == .write)

/-- A copy at work of a context scouts an access. -/
def scouted (s : State) (ctx : Nat) (c : Context) (va : Nat) (k : AccKind) : Bool :=
  s.cmds.zipIdx.any fun p => !p.1.ended && p.1.ctx == ctx && startable s p.2 p.1 && scouts s c p.1 va k && match s.group? p.1.group with
    | some G => cmdsRun s G
    | none => false

/-- The home unit posts a fault that a scout has met; an open record of the page stands (R287). -/
def postMiss (s : State) (ctxNo : Nat) (c : Context) (va : Nat) (f : XFault) : State :=
  if c.nosvc || s.faults.any fun r => r.covers ctxNo va then s else openRecord s ctxNo c [] va f

/-- TRANSLATION_MISS: the home unit translates an address ahead of its access. A fault is posted for a scout (R194); one that an access
meets, that access posts in its own step. -/
def execTranslationMiss (asid : BitVec 16) (va : W64) (k : AccKind) (s : State) : Host.Outcome State Fault Refusal :=
  match ctxByAsid s asid with
  | none => .fault .notEnabled
  | some i => match s.contexts[i]? with
    | none => .fault .notEnabled
    | some c =>
      let n : Need := match k with
        | .read => .read
        | .write => .write
        | .exec => .exec
      if 2 ^ 56 ≤ va.toNat then .fault .notEnabled
      else match xlate s c va.toNat n with
        | (.ok _ _, s) => .next s
        | (.fault f, t) => if scouted s i c va.toNat k then .next (postMiss t i c va.toNat f) else .fault .notEnabled

/-! ### Migration (R291, R300) -/

/-- n words copied from one place to another: corrected words are counted, uncorrectable ones are poisoned. -/
def copyFrame (s : State) (src dst : Nat) : Nat → State
  | 0 => s
  | n + 1 =>
    let s := match dramRead s src with
      | (some x, s) => dramWrite s dst x
      | (none, s) => dramPoison s dst
    copyFrame s (src + 4) (dst + 4) n

/-- The lifetime counters of the units that store a frame show repeated corrected words (R291, R404). -/
def frameWorn (s : State) (frame : Nat) : Bool := s.life.any fun c => match c.1 with
  | .corrected u => u / 512 == paStack frame && decide (2 ≤ c.2)
  | _ => false

/-- Bytes of the part of the existence map that a sparse page's leaf names. -/
def mapBytes (level : Nat) : Nat := if level = 1 then 4096 else 128

/-- A reserve whose pages have moved from one run of bytes to another. -/
def Reserve.move (r : Reserve) (old new bytes : Nat) : Reserve :=
  { r with used := r.used.map fun f => if old ≤ f ∧ f < old + bytes then f - old + new else f }

/-- A migrated page's frames after it: the new ones leave the free list, and the old ones join it, unless they are retired. A new frame takes
the place of an old one in a context's reserve. A sparse page moves only its map part, whose old frame holds others' too. -/
def swapFrames (s : State) (sparse retire : Bool) (level old new : Nat) : State :=
  let st := paStack old
  let l := framesOf s st
  if sparse then s.setFrames st (l.filter fun f => f != new / 65536 * 65536)
  else
    let fs := pageFrames new level
    let s := s.setFrames st (l.filter (fun f => !fs.contains f) ++ if retire then [] else pageFrames old level)
    { s with contexts := s.contexts.map fun c => { c with reserves := c.reserves.map fun r => r.move old new (leafBytes level) } }

/-- A leaf of some context on the frames that a migration moves: the context, the address, the level, the place of the entry, and the entry. -/
structure MovedLeaf where
  ctx : Context
  va : Nat
  level : Nat
  place : Nat
  leaf : W64
  deriving DecidableEq, Repr

/-- The leaves of every context on some bytes of frames: those of a global page stand in several tables, and a frame that is not written may be
mapped by others (R247, R280). -/
def leavesOn (s : State) (sparse : Bool) (old bytes : Nat) : List MovedLeaf :=
  (s.contexts.filter (·.live)).flatMap fun c => (leavesBelow s c.root 0 3).filterMap fun l =>
    if leafSparse l.2.2.2 == sparse && decide (old ≤ leafAddr l.2.2.2 ∧ leafAddr l.2.2.2 < old + bytes) then
      some ⟨c, l.1, l.2.2.1, l.2.1, l.2.2.2⟩ else none

/-- PAGE_MIGRATE. DESIGN CHOICE (log 55): the counters are by word unit, and every frame of a stack lies on all of them; a migration away from
a worn frame retires it. -/
def execPageMigrate (ctx : Nat) (va frame : W64) (s : State) : Host.Outcome State Fault Refusal :=
  match s.contexts[ctx]? with
  | none => .fault .notEnabled
  | some c => match leafPlace s c va.toNat with
    | none => .fault .notEnabled
    | some (_, level, e) =>
      let old := leafAddr e
      let new := frame.toNat
      let st := paStack old
      let sparse := leafSparse e
      let bytes := if sparse then mapBytes level else leafBytes level
      let fs := if sparse then [new / 65536 * 65536] else pageFrames new level
      let retire := frameWorn s old
      let ls := leavesOn s sparse old bytes
      if !c.live || 2 ^ 56 ≤ va.toNat || ls.any (fun l => leafPin l.leaf) || new % bytes != 0 || paStack new != st ||
          !(fs.all fun f => (framesOf s st).contains f && wordExists s f) || !(ls.all (fun l => l.ctx.xlctl.getLsbD 4) || retire) then
        .fault .notEnabled
      else
        let s := touch s (pathWords s c va.toNat)
        let s := ls.foldl (fun s l => invalidatePage s l.ctx.asid (leafG l.leaf) l.va (leafBytes l.level)) s
        let s := copyFrame s old new (bytes / 4)
        let s := ls.foldl (fun s l => dramWrite64 s l.place (l.leaf - BitVec.ofNat 64 old + BitVec.ofNat 64 new)) s
        .next (swapFrames s sparse retire level old new)

/-! ### Evictions (R248, R259) -/

/-- CACHE_EVICT: a block leaves a core cache, or both levels. -/
def execCacheEvict (core : Option Nat) (tag : BitVec 16) (block : Nat) (s : State) : Host.Outcome State Fault Refusal :=
  let lo := lineKey tag (32 * block)
  if 2 ^ 49 ≤ block ∨ (linesIn s lo 32).isEmpty = true then .fault .notEnabled
  else match core with
    | some k => .next (evictCoreBlock s k lo)
    | none => .next (flushRange s lo 32)

/-! ### Bursts and scrubs (R225, R226, R233) -/

/-- The physical address of the word that a pseudo-channel stores at a bank, row, column and die; none where it stores none. -/
def storedWord (s : State) (pch bank row col die : Nat) : Option Nat :=
  let st := pch / 32
  let p := pch % 32
  let pa (p row : Nat) : Nat := st * 2 ^ 36 + 4 * (row * 2 ^ 19 + bank * 2 ^ 15 + col * 2 ^ 9 + p * 2 ^ 4 + die)
  if 256 ≤ pch ∨ 16 ≤ bank ∨ 24576 ≤ row ∨ 64 ≤ col ∨ 16 ≤ die then none
  else match s.pchOff.toList.getD st none with
    | none => some (pa p row)
    | some x =>
      if p = x.toNat then none
      else if row < 23808 then some (pa p row)
      else some (pa x.toNat ((row - 23808) * 31 + (if p < x.toNat then p else p - 1)))

/-- The dies of a mask. -/
def diesOf (m : BitVec 16) : List Nat := (List.range 16).filter fun d => m.getLsbD d

/-- The mask of a pattern. -/
def patMask : BurstPattern → BitVec 16
  | .linear m _ _ _ => m
  | .stride m _ _ _ _ => m
  | .list m _ _ _ => m
  | .rowlist m _ _ _ => m

/-- The word that a burst carries on a die. -/
def burstWord (s : State) (pch : Nat) (pat : BurstPattern) (d : Nat) : Option Nat :=
  match pat with
  | .linear _ b r c => storedWord s pch b r c d
  | .stride m b r c step =>
    let low := (diesOf m).headD 0
    let col : Int := (c : Int) + step * ((d : Int) - low)
    if col < 0 ∨ step < -63 ∨ 63 < step then none else storedWord s pch b r col.toNat d
  | .list _ b r cs => storedWord s pch b r (cs.toList.getD d 0) d
  | .rowlist _ bs rs cs => storedWord s pch (bs.toList.getD d 0) (rs.toList.getD d 0) (cs.toList.getD d 0) d

/-- A waiting scrub made: the word as it was corrected (R233). -/
def scrubWord (s : State) (pa : Nat) : State :=
  match s.scrubs.find? fun q => q.1 == pa with
  | some q => dramWrite s pa q.2
  | none => s

/-- A request served by a read of its word: the word fills its block, or the request has failed. -/
def fillReq (r : WordReq) (x : Option W32) (s : State) : State :=
  let s := { s with reqs := s.reqs.filter (· ≠ r) }
  match x with
  | none => { s with reqs := s.reqs ++ [{ r with failed := true }] }
  | some v => if (findLine s r.key).isSome then s else useLine s ⟨r.key, .clean v [], some r.pa, r.ex, r.perm, r.ctx⟩ none

/-- The requests for a word that wait. -/
def reqsAt (s : State) (pa : Nat) : List WordReq := s.reqs.filter fun r => r.pa == pa && !r.failed

/-- One read that serves every waiting request for its word (R226). -/
def serveWord (s : State) (pa : Nat) : State :=
  let rs := reqsAt s pa
  let (x, s) := dramRead s pa
  rs.foldl (fun s r => fillReq r x s) s

/-- A pseudo-channel serves bursts. -/
def pchOpen (s : State) (pch : Nat) : Bool := match s.pchs.toList[pch]? with
  | some p => !p.drain
  | none => false

/-- The dies of a stack that refresh. -/
def refreshing (s : State) (st : Nat) : BitVec 16 := match s.stks.toList[st]? with
  | some k => k.refreshing
  | none => 0

/-- PCH_BURST: a read burst serves the requests for its words; a write burst makes the scrubs of its words, none of which a queued read still
has to read. -/
def execPchBurst (pch : Nat) (isWrite : Bool) (pat : BurstPattern) (s : State) : Host.Outcome State Fault Refusal :=
  let ds := diesOf (patMask pat)
  let ws := ds.map (burstWord s pch pat)
  let pas := ws.filterMap id
  let asked (pa : Nat) : Bool := if isWrite then (s.scrubs.any fun q => q.1 == pa) && (reqsAt s pa).isEmpty else !(reqsAt s pa).isEmpty
  if ds.isEmpty || !pchOpen s pch || patMask pat &&& refreshing s (pch / 32) != 0 || ws.any Option.isNone || !pas.all asked then
    .fault .notEnabled
  else .next (if isWrite then pas.foldl scrubWord s else pas.foldl serveWord s)

/-- SCRUB_WRITE: the first waiting scrub of a pseudo-channel. -/
def execScrubWrite (pch : Nat) (s : State) : Host.Outcome State Fault Refusal :=
  match s.scrubs.find? fun q => wordPch s q.1 == pch with
  | some q => if dieBusy s q.1 || !(reqsAt s q.1).isEmpty then .fault .notEnabled else .next (scrubWord s q.1)
  | none => .fault .notEnabled

/-! ### Refresh (R230) -/

/-- The state with a stack controller changed. -/
def State.modStk (s : State) (st : Nat) (f : Stk → Stk) : State :=
  match s.stks.toList[st]? with
  | some k => { s with stks := s.stks.setIfInBounds st (f k) }
  | none => s

/-- RESV of a die. -/
def Stk.resvOf (k : Stk) (die : Nat) : Nat := k.resv.toList.getD die 0

/-- Runs k on a die of a stack. -/
def onDie (s : State) (st die : Nat) (ok : Stk → Bool) (k : Stk → Stk) : Host.Outcome State Fault Refusal :=
  match s.stks.toList[st]? with
  | some x => if decide (die < 16) && ok x then .next (s.modStk st k) else .fault .notEnabled
  | none => .fault .notEnabled

/-- A die begins a refresh. -/
def Stk.begin (k : Stk) (die : Nat) : Stk := { k with refreshing := k.refreshing ||| (1#16 <<< die) }

/-- The queued requests of a die. -/
def dieRequests (s : State) (stack die : Nat) : Nat :=
  (s.reqs.filter fun r => paStack r.pa == stack && wordDie r.pa == die && !r.failed).length

/-- REFRESH_DUE: postponed against the reserve when the die has 16 or more queued requests. -/
def execRefreshDue (stack die : Nat) (s : State) : Host.Outcome State Fault Refusal :=
  onDie s stack die (fun k => !k.refreshing.getLsbD die) fun k =>
    if 0 < k.resvOf die ∧ 16 ≤ dieRequests s stack die then { k with resv := k.resv.setIfInBounds die (k.resvOf die - 1) } else k.begin die

/-- REFRESH_AHEAD. -/
def execRefreshAhead (stack die : Nat) (s : State) : Host.Outcome State Fault Refusal :=
  onDie s stack die (fun k => k.cb && decide (k.resvOf die < 8) && !k.refreshing.getLsbD die && dieRequests s stack die == 0) fun k =>
    { k.begin die with resv := k.resv.setIfInBounds die (k.resvOf die + 1) }

/-- REFRESH_END. -/
def execRefreshEnd (stack die : Nat) (s : State) : Host.Outcome State Fault Refusal :=
  onDie s stack die (fun k => k.refreshing.getLsbD die) fun k => { k with refreshing := k.refreshing &&& ~~~(1#16 <<< die) }

/-- CB_EVALUATE. -/
def execCbEvaluate (stack : Nat) (below10 : Bool) (s : State) : Host.Outcome State Fault Refusal :=
  if stack < 8 then .next (s.modStk stack fun k => { k with cb := cbOf s below10 }) else .fault .notEnabled

/-! ### The strand split (R228, R229) -/

/-- The state with a pseudo-channel changed. -/
def State.modPch (s : State) (n : Nat) (f : Pch → Pch) : State :=
  match s.pchs.toList[n]? with
  | some p => { s with pchs := s.pchs.setIfInBounds n (f p) }
  | none => s

/-- A pseudo-channel is enabled. -/
def pchEnabled (s : State) (n : Nat) : Bool := decide (n < 256) && match s.pchOff.toList.getD (n / 32) none with
  | some x => x.toNat != n % 32
  | none => true

/-- A change of RDSTR: made at once, which drains the pseudo-channel, or waiting for its 100 µs interval. -/
def Pch.want (p : Pch) (v : BitVec 4) : Pch :=
  if p.held then { p with waiting := some v }
  else if v = p.rdstr then p
  else ⟨v, true, true, none⟩

/-- The register block of a stack controller in the management cores' addresses (R228, R403). -/
def ctlBase (stack : Nat) : Nat := 0x80000000 + 0x10000 * stack

/-- The pseudo-channel whose PCCTL lies at a management-core address: 0x100 + 4p of its stack's block. -/
def pcctlAt (a : Nat) : Option Nat :=
  let o := (a - ctlBase 0) % 0x10000
  if ctlBase 0 ≤ a ∧ a < ctlBase 8 ∧ 0x100 ≤ o ∧ o < 0x180 ∧ o % 4 = 0 then some (32 * ((a - ctlBase 0) / 0x10000) + (o - 0x100) / 4) else none

/-- What a register of a stack controller reads as: STKCTL, STKRF, or a PCCTL; every other place reads as 0. -/
def ctlRead (s : State) (a : Nat) : W64 :=
  match pcctlAt a with
  | some n => match s.pchs.toList[n]? with
    | some p => zext64 p.rdstr ||| (if pchEnabled s n then 0 else 0x80#64)
    | none => 0
  | none => match s.stks.toList[(a - ctlBase 0) / 0x10000]? with
    | some k =>
      if a = ctlBase ((a - ctlBase 0) / 0x10000) then zext64 (BitVec.ofBool k.cb)
      else if a = ctlBase ((a - ctlBase 0) / 0x10000) + 8 then
        BitVec.ofNat 64 (k.resv.toList.zipIdx.foldl (fun n p => n + p.1 % 16 * 16 ^ p.2) 0)
      else 0
    | none => 0

/-- PCCTL_WRITE: the management core writes the PCCTL at an address. RDSTR takes 4 to 12, and the pseudo-channel drains. -/
def execPcctlWrite (addr v : W32) (s : State) : Host.Outcome State Fault Refusal :=
  match pcctlAt addr.toNat with
  | none => .fault .notEnabled
  | some pch =>
    if pchEnabled s pch then
      .next (if 4 ≤ bitsOf v.toNat 3 0 ∧ bitsOf v.toNat 3 0 ≤ 12 then s.modPch pch fun p => p.want (v.setWidth 4) else s)
    else .fault .notEnabled

/-- STRAND_DRAIN_END. -/
def execStrandDrainEnd (pch : Nat) (s : State) : Host.Outcome State Fault Refusal :=
  match s.pchs.toList[pch]? with
  | some p => if p.drain then .next (s.modPch pch fun p => { p with drain := false }) else .fault .notEnabled
  | none => .fault .notEnabled

/-- RDSTR_DEFERRED: the interval ends, and a change that waits is made. -/
def execRdstrDeferred (pch : Nat) (s : State) : Host.Outcome State Fault Refusal :=
  match s.pchs.toList[pch]? with
  | some p =>
    if p.held && !p.drain then
      .next (s.modPch pch fun p =>
        let q : Pch := { p with held := false, waiting := none }
        match p.waiting with
        | some v => q.want v
        | none => q)
    else .fault .notEnabled
  | none => .fault .notEnabled

/-- The split in force of a stack (R229). -/
def splitInForce (s : State) (st : Nat) : Nat :=
  let ts := s.tenants.filter fun t => t.running.isSome
  let den := ts.foldl (fun n t => n + t.rcd.bws) 0
  let num := ts.foldl (fun n t => n + t.rcd.bws * t.pref.toList.getD st 12) 0
  if den = 0 then 12 else (2 * num + den) / (2 * den)

/-- Firmware writes the split in force of every stack to its enabled pseudo-channels. -/
def applySplits (s : State) : State :=
  (List.range 256).foldl (fun s n =>
    if pchEnabled s n then s.modPch n fun p => p.want (BitVec.ofNat 4 (splitInForce s (n / 32))) else s) s

/-- A tenant's preferences follow its running context (R229). -/
def preferContext (s : State) (tid : Nat) : State :=
  let pref (t : Tenant) : Vector Nat 8 := match t.running.bind fun c => s.contexts[c]? with
    | some c => c.split.map fun x => x.getD 12
    | none => Vector.replicate 8 12
  s.modTenant tid fun t => { t with pref := pref t }

/-! ### Soft errors and retraining (R118, R173, R404) -/

/-- A half of a latch with bits flipped. -/
def LatchLane.flip (l : LatchLane) (x : W64) : LatchLane :=
  ⟨l.lo.map fun y => y ^^^ x.setWidth 32, l.hi.map fun y => y ^^^ (x >>> 32).setWidth 32⟩

/-- SOFT_ERROR: a value changes, with no trap and no record. -/
def execSoftError (t : SoftTarget) (s : State) : Host.Outcome State Fault Refusal :=
  match t with
  | .row g v lane x => onGroup s g (fun G => (G.vreg v).st == .mapped && decide (lane < 32)) fun G =>
      let r := G.vreg v
      s.setGroup g (G.putV v { r with val := r.val.setIfInBounds lane (r.val.toList.getD lane 0 ^^^ x) })
  | .latch g n lane x => onGroup s g (fun _ => decide (lane < 32)) fun G =>
      let ls := G.lane.latches.toList.getD n.toNat (splat ⟨none, none⟩)
      let l := (ls.toList.getD lane ⟨none, none⟩).flip x
      s.setGroup g { G with lane := { G.lane with latches := G.lane.latches.setIfInBounds n.toNat (ls.setIfInBounds lane l) } }
  | .scratch core bank off x =>
    if core < 512 ∧ bank < 32 ∧ off < bankBytes then
      let a := core * coreBytes + bank * bankBytes + off
      .next (match cellGet s.spad a with
        | some b => spadPut s a (b ^^^ x)
        | none => s)
    else .fault .notEnabled
  | .scale core bank granule x =>
    if core < 512 ∧ bank < 32 ∧ granule < 768 then
      let a := core * coreScale + bank * 768 + granule
      .next (match cellGet s.scale a with
        | some b => scalePut s a (b ^^^ x)
        | none => s)
    else .fault .notEnabled

/-- STRAND_RETRAIN. -/
def execStrandRetrain (pch : Nat) (s : State) : Host.Outcome State Fault Refusal :=
  if pchEnabled s pch then .next (s.count (.strandRetrain pch) 1) else .fault .notEnabled

end Sys2Proof.Machine
end

