-- ==== Sys2Proof/Machine/LaunchEvents.lean ====
section
/-! DEFINITION. Firmware's steps on launches: team commits, completion, dependences and launch queues (spec/05_slots_and_launches.md R94
to R101, R103, R106, R110, R111, R114; spec/17 R371; spec/18 R386, R387). -/

namespace Sys2Proof.Machine

/-! ### Team commit: what must hold -/

/-- Groups of a team. -/
def teamSize (r : LaunchRec) : Nat := r.cgroups + r.pgroups

/-- The cores of a placement, ascending. -/
def placeCores (p : Placement) : List Nat := sortBy (fun a b => decide (a ≤ b)) (p.slots.map (·.core)).eraseDups

/-- The launch of a context whose team binds next (R100): the highest priority, then the order of acceptance. -/
def nextReady (s : State) (ctx : Nat) : Option Nat :=
  (s.launches.zipIdx.foldl (fun (m : Option (Nat × Nat)) p =>
    if p.1.ctx ≠ ctx ∨ launchReady s p.1 = false ∨ teamsLeft p.1 = false then m
    else match m with
      | none => some (p.2, p.1.rcd.prio)
      | some (i, q) => if q < p.1.rcd.prio then some (p.2, p.1.rcd.prio) else some (i, q)) none).map (·.1)

/-- A placement names a slot of the part for each group of a team. -/
def slotsNamed (r : LaunchRec) (p : Placement) : Bool :=
  decide (p.slots.length = teamSize r) && p.slots.all fun x => decide (x.core < 512 ∧ x.slot < 12)

/-- The slots of a placement lie in a tenant's quadrants of one cluster, on at most CORES cores, each once. -/
def slotsGood (t : Tenant) (r : LaunchRec) (p : Placement) : Bool :=
  let keys := p.slots.map fun x => (4 * x.core + x.quad.toNat, x.slot)
  decide ((placeCores p).length ≤ r.cores) &&
  ((placeCores p).all fun c => decide (c / 64 = (placeCores p).headD 0 / 64)) &&
  (p.slots.all fun x => t.rcd.quads.contains (4 * x.core + x.quad.toNat)) && decide (keys.eraseDups.length = keys.length)

/-- A spill area of a context is free (R123). -/
def areaFree (s : State) (ctx : Nat) (area : W64) : Bool :=
  s.groups.all fun G => G.bind.ctx != ctx || G.bind.area != area || (G.gone && G.mapped == 0)

/-- The address of a spill area. -/
def areaAddr (c : Context) (k : Nat) : W64 := c.spillBase + BitVec.ofNat 64 (32768 * k)

/-- The areas of a placement are free and distinct. -/
def areasGood (s : State) (ctx : Nat) (c : Context) (p : Placement) : Bool :=
  let ks := p.slots.map (·.area)
  decide (ks.eraseDups.length = ks.length) && ks.all fun k => decide (k < c.spillCount) && areaFree s ctx (areaAddr c k)

/-- The banks of a placement: BANKS on each core of the team. -/
def banksGood (r : LaunchRec) (p : Placement) : Bool :=
  decide (p.banks.map (·.1) = placeCores p) && p.banks.all fun b => (banksOf b.2).length == r.banks

/-- The bytes of a tenant's ways in the enabled slices, 64 KiB a way, and of its cores' caches (R245, R371). -/
def cacheBytes (s : State) (t : Tenant) : Nat :=
  popCount t.rcd.ways.toNat 16 * (slicesOn s).length * 2 ^ 16 + (t.rcd.quads.map (· / 4)).eraseDups.length * 2 ^ 18

/-- The part of the checkpoint bound that one team adds. -/
def teamBound (r : LaunchRec) : Nat :=
  r.cgroups * (128 * min r.cregs 192 + 8192) + r.pgroups * (128 * min r.pregs 192 + 8192) + 13056 * r.banks * r.cores

/-- The checkpoint bound of a tenant with one more team of a context (R371): the teams of its non-discardable queues, and once for each context
with such a queue its memory and the caches. -/
def ckptBound (s : State) (t : Tenant) (ctx : Nat) (r : LaunchRec) : Nat :=
  let held := s.teams.filter fun T => !T.ended && t.owns s T &&
    match s.launches[T.launch]? with
    | some l => !queueDisc s l.ctx l.rcd.prio
    | none => false
  let sum := held.foldl (fun n T => n + match s.launches[T.launch]? with
    | some l => teamBound l.rcd
    | none => 0) (teamBound r)
  let cs := (tenantCtxs s t).filter fun c => c == ctx || (List.range 8).any fun p => !queueDisc s c p
  sum + cs.foldl (fun n c => n + cacheBytes s t + ctxMem s c) 0

/-- A team may be bound under the checkpoint bound. -/
def boundOk (s : State) (t : Tenant) (ctx : Nat) (r : LaunchRec) : Bool :=
  queueDisc s ctx r.prio || decide (ckptBound s t ctx r ≤ (t.rcd.mindl - 1) * t.rcd.vrate * 10 ^ 9)

/-! ### Team commit: what it makes -/

/-- The lane stream, scalar stream and the rest of a group at its start (R111). -/
def LaneSt.start (lbase : W64) : LaneSt :=
  ⟨lbase, none, 0xFFFFFFFF#32, 0, noLatches, none, [], [], [], [], .none, [], 0, 0, 0, 0⟩
def ScalarSt.start (spc : W64) : ScalarSt := ⟨spc, Vector.replicate 64 0, Vector.replicate 8 0, 0, 0, 4⟩
def TrapSt.start : TrapSt :=
  ⟨0, 0, false, 0, 0, false, Vector.replicate 21 none, none, splat none, splat 0, 0, false, false⟩
def EngineSt.start : EngineSt := ⟨0, [], 0, [], 0, [], []⟩

/-- A group at its start. -/
def Group.start (b : BindRec) (loc : SlotId) : Group :=
  { bind := b, loc := loc, inSlot := true, status := .running, halt := none, stopNo := 0, queueDue := []
    sc := ScalarSt.start b.spc, vec := ⟨Vector.replicate 128 VReg.none, Vector.replicate 7 0⟩, lane := LaneSt.start b.lbase
    trap := TrapSt.start, dbg := ⟨0, 0, 0, none, none⟩, wait := ⟨none, none, false, none⟩, eng := EngineSt.start }

/-- The location of a slot (R95). -/
def slotIdOf (core : Nat) (quad : BitVec 2) (slot : Nat) : SlotId :=
  ⟨BitVec.ofNat 2 (core / 128), BitVec.ofNat 1 (core / 64), BitVec.ofNat 6 core, quad, BitVec.ofNat 4 slot⟩

/-- The k-th group of a team. -/
def bindGroup (c : Context) (l : Launch) (launch team : Nat) (p : Placement) (k : Nat) (x : SlotPlace) : Group :=
  let r := l.rcd
  let prod := decide (r.cgroups ≤ k)
  let b : BindRec :=
    { ctx := l.ctx, launch := launch, team := team, teamNo := BitVec.ofNat 24 l.nextTeam, role := prod
      group := BitVec.ofNat 9 (if prod then k - r.cgroups else k), budget := if prod then r.pregs else r.cregs
      banks := match p.banks.find? fun b => b.1 == x.core with
        | some b => b.2
        | none => 0
      spc := (r.sbase + zext64 (if prod then r.pentry else r.centry)) &&& 0x00FFFFFFFFFFFFFF#64
      lbase := r.lbase, dbase := r.dbase, area := areaAddr c x.area }
  Group.start b (slotIdOf x.core x.quad x.slot)

/-- The slot-table entry of a group: its bind record (R110). -/
def slotEntry (s : State) (G : Group) : BitVec 256 :=
  let no : Nat := ((s.contexts[G.bind.ctx]?).map (·.no)).getD 0
  let idx : Nat := ((s.launches[G.bind.launch]?).map (·.idx)).getD 0
  (BitVec.ofBool G.inSlot ++ 0#11 ++ BitVec.ofNat 12 no ++ BitVec.ofNat 10 idx ++ G.bind.teamNo ++ G.bind.group ++
    BitVec.ofBool G.bind.role ++ BitVec.ofNat 10 G.bind.budget ++ G.bind.banks ++ G.bind.spc.setWidth 56 ++
    G.bind.lbase.setWidth 56 ++ 0#34).setWidth 256

/-- An entry has a reserved bit set or a field out of range. -/
def entryOut (e : BitVec 256) : Bool :=
  let at_ (hi lo : Nat) : Nat := bitsOf e.toNat hi lo
  at_ 254 244 != 0 || at_ 33 0 != 0 || decide (384 ≤ at_ 197 189) || at_ 187 178 == 0 || decide (768 < at_ 187 178) ||
  at_ 91 90 != 0 || at_ 37 34 != 0

/-- The dispatch hardware refuses an entry: it is malformed, names a disabled core or quadrant, or its slot is already VALID (R22, R111). A
slot that a halted group holds is freed before the commit (R361). -/
def entryRefused (s : State) (G : Group) : Bool :=
  entryOut (slotEntry s G) || !coreOn s G.loc.coreId || !quadOn s G.loc.quadId ||
  match slotHolder s G.loc.quadId G.loc.slot.toNat with
  | some h => match s.group? h with
    | some H => H.halt.isNone
    | none => false
  | none => false

/-- The item queues of a team as they are seeded (R114). -/
def seedQueues (r : LaunchRec) (team : Nat) (cores : List Nat) : List ItemQueue :=
  if r.items = 0 then []
  else
    let lo := team * r.items / r.teams
    let n := (team + 1) * r.items / r.teams - lo
    cores.zipIdx.map fun p =>
      let a := lo + p.2 * n / cores.length
      let b := lo + (p.2 + 1) * n / cores.length
      ⟨p.1, if a < b then [(BitVec.ofNat 32 a, BitVec.ofNat 32 (b - a))] else [], !r.openq⟩

/-- A closed barrier in its first phase. -/
def Barrier.start : Barrier := ⟨0, false, 0, 0, 0, []⟩

/-- The cells of a bank forgotten: its values are undefined (R170). -/
def clearBank (s : State) (core bank : Nat) : State :=
  let lo := core * coreBytes + bank * bankBytes
  padForget { s with spad := cellDrop s.spad lo bankBytes, scale := cellDrop s.scale (core * coreScale + bank * 768) 768 } lo bankBytes

/-- Queue freezes that wait for a group go to one (R387). -/
def giveFrozen (s : State) (ctx g : Nat) : State :=
  match s.contexts[ctx]? with
  | none => s
  | some c =>
    (s.modGroup g fun G => { G with queueDue := G.queueDue ++ c.frozen }).modCtx ctx fun c => { c with frozen := [] }

/-- Firmware runs a context on a tenant's partition: its preferences and splits follow. -/
def runContext (s : State) (t : Tenant) (ctx : Nat) : State :=
  if t.running = some ctx then s
  else applySplits (preferContext (s.modTenant t.tid fun t => { t with running := some ctx, since := s.cycle }) t.tid)

/-- The groups of a team as its placement binds them. -/
def boundGroups (s : State) (c : Context) (l : Launch) (launch : Nat) (p : Placement) : List Group :=
  p.slots.zipIdx.map fun x => bindGroup c l launch s.teams.length p x.2 x.1

/-- The team made and its groups bound, once its slots and banks are free. -/
def commitTeam (s : State) (c : Context) (l : Launch) (launch : Nat) (p : Placement) : State :=
  let first := s.groups.length
  let gs := boundGroups s c l launch p
  let T : Team :=
    { ctx := l.ctx, launch := launch, no := BitVec.ofNat 24 l.nextTeam, cores := p.banks
      groups := (List.range gs.length).map (first + ·), atCommit := gs.length, live := 32 * gs.length
      barriers := Vector.replicate 16 Barrier.start, queues := seedQueues l.rcd l.nextTeam (placeCores p), ended := false, saved := [] }
  let s := p.banks.foldl (fun s b => (banksOf b.2).foldl (fun s k => clearBank s b.1 k) s) s
  let s := { s with
    groups := s.groups ++ gs, teams := s.teams ++ [T]
    launches := s.launches.modify launch fun l => { l with nextTeam := l.nextTeam + 1 } }
  evalCb (giveFrozen s l.ctx first)

/-- The slots and banks of a placement claimed. -/
def claimAll (s : State) (p : Placement) : Option State :=
  match foldSome (fun s x => claimSlot s (4 * x.core + x.quad.toNat) x.slot) s p.slots with
  | none => none
  | some s => foldSome (fun s b => foldSome (fun s k => claimBank s b.1 k) s (banksOf b.2)) s p.banks

/-- Firmware may issue the commit of a team: its launch is next in its context, and its tenant may bind. -/
def commitDue (s : State) (c : Context) (t : Tenant) (l : Launch) (launch team : Nat) : Bool :=
  c.live && l.nextTeam == team && nextReady s l.ctx == some launch && !t.vacating && match t.running with
    | none => true
    | some x => x == l.ctx

/-- Firmware can place a team so: slots, spill areas, banks, the checkpoint bound, and item queues. -/
def placeGood (s : State) (c : Context) (t : Tenant) (l : Launch) (p : Placement) : Bool :=
  let r := l.rcd
  slotsGood t r p && areasGood s l.ctx c p && banksGood r p && boundOk s t l.ctx r &&
    (r.items == 0 || (placeCores p).all (itemRoom s))

/-- TEAM_COMMIT (R111). A commit that the dispatch hardware refuses starts nothing, and the slot is reported to firmware. -/
def execTeamCommit (launch team : Nat) (p : Placement) (s : State) : Host.Outcome State Fault Refusal :=
  match s.launches[launch]? with
  | none => .fault .notEnabled
  | some l => match s.contexts[l.ctx]?, tenantOf s l.ctx with
    | some c, some t =>
      if !commitDue s c t l launch team || !slotsNamed l.rcd p then .fault .notEnabled
      else match (boundGroups s c l launch p).find? (entryRefused s) with
        | some G => .next { s with refused := G.loc :: s.refused }
        | none =>
          if !placeGood s c t l p then .fault .notEnabled
          else match claimAll s p with
            | none => .fault .notEnabled
            | some s =>
              if (placeCores p).all fun k => decide (tenantBanks s t k + l.rcd.banks ≤ t.rcd.banks) then
                .next (commitTeam (runContext s t l.ctx) c l launch p)
              else .fault .notEnabled
    | _, _ => .fault .notEnabled

/-! ### Accesses of firmware under a context (R99, R101) -/

/-- Firmware as an accessor that uses the fault service. -/
def fwService (c : Context) (ctx : Nat) : Who := ⟨.firmware, 0, 0, ctx, c, none, none⟩

/-- The answers that firmware's access to a page has met are spent. -/
def spendVerdict (s : State) (va : Nat) : State :=
  { s with verdicts := s.verdicts.filter fun v => !(v.party == .firmware && pageHolds v.page v.big va) }

/-- A completion store (R101): the state with the store made or dropped with a NOTICE; none while a fault is served. -/
def storeDone (s : State) (ctx : Nat) (a : W64) (v : W32) (seq : W64) : Option State × State :=
  if a = 0 then (some s, s)
  else match s.contexts[ctx]? with
    | none => (some s, s)
    | some c => match engWrite s (fwService c ctx) false a.toNat 0xF#4 v with
      | (.ok _, s) => (some s, s)
      | (.fail _ _, s) => (some (noticeCtx (spendVerdict s a.toNat) ctx (.doneFailure seq a)), s)
      | (.park, s) => (none, s)

/-- Every group of a launch is done with its engine work and stores (R101). -/
def groupSettled (s : State) (g : Nat) : Bool :=
  (s.cmds.all fun c => c.group != g || c.ended) && (s.sq.all fun w => w.group != g) && match s.group? g with
    | some G => G.status == .exited && (G.eng.mops.all fun m => m.st != .flight) && G.eng.colls.all fun c => c.status.isSome
    | none => true

/-- A launch has run to its end. -/
def launchOver (s : State) (n : Nat) (l : Launch) : Bool :=
  l.st == .accepted && !teamsLeft l && s.teams.all fun t => t.launch != n || (t.ended && t.groups.all (groupSettled s))

/-- The state with a launch completed, its completion store due or made. -/
def markLaunch (s : State) (n : Nat) (due : Bool) : State :=
  { s with launches := s.launches.modify n fun l => { l with st := .completed, due := due } }

/-- The state with a graph instance completed, its completion store due or made. -/
def markGraph (s : State) (n : Nat) (due : Bool) : State :=
  { s with graphs := s.graphs.modify n fun i => { i with ended := true, due := due } }

/-- LAUNCH_COMPLETE: the launch completes, which frees its entry, and then its store is made. While that meets a fault, it stays due, and the
step tries it again. -/
def execLaunchComplete (launch : Nat) (s : State) : Host.Outcome State Fault Refusal :=
  match s.launches[launch]? with
  | none => .fault .notEnabled
  | some l =>
    if launchOver s launch l || l.due then match storeDone (markLaunch s launch true) l.ctx l.rcd.donea l.rcd.donev l.seq with
      | (some s, _) => .next (markLaunch s launch false)
      | (none, s) => .next s
    else .fault .notEnabled

/-- GRAPH_COMPLETE (R103). -/
def execGraphComplete (inst : Nat) (s : State) : Host.Outcome State Fault Refusal :=
  match s.graphs[inst]? with
  | none => .fault .notEnabled
  | some i =>
    if (!i.ended && i.nodes.all (launchDone s)) || i.due then match storeDone (markGraph s inst true) i.ctx i.donea i.donev i.seq with
      | (some s, _) => .next (markGraph s inst false)
      | (none, s) => .next s
    else .fault .notEnabled

/-! ### Dependences (R99) -/

/-- A dependence is satisfied by a value. -/
def depMet (v req : W32) : Bool := decide ((v - req).toNat < 2 ^ 31)

/-- The state with a dependence of a launch satisfied, or its failure told once. -/
def depSat (s : State) (n k : Nat) : State :=
  { s with launches := s.launches.modify n fun l => { l with sat := l.sat.set k true } }
def depFail (s : State) (n k : Nat) (l : Launch) (a : W64) : State :=
  if l.told.getD k true then s
  else noticeCtx { s with launches := s.launches.modify n fun l => { l with told := l.told.set k true } } l.ctx (.depFailure l.seq a)

/-- Firmware reads a dependence word. -/
def readDep (s : State) (n k : Nat) : Host.Outcome State Fault Refusal :=
  match s.launches[n]? with
  | none => .fault .notEnabled
  | some l => match l.rcd.deps[k]?, s.contexts[l.ctx]? with
    | some (a, req), some c =>
      if l.st ≠ .accepted ∨ l.sat.getD k true = true then .fault .notEnabled
      else match engRead s (fwService c l.ctx) a.toNat with
        | (.ok (some v), s) => .next (if depMet v req then depSat s n k else s)
        | (.ok none, s) => .next (depFail s n k l a)
        | (.fail _ _, s) => .next (depFail (spendVerdict s a.toNat) n k l a)
        | (.park, s) => .next s
    | _, _ => .fault .notEnabled

def execDependencePoll (launch dep : Nat) (s : State) : Host.Outcome State Fault Refusal := readDep s launch dep
def execDependenceWriteReport (launch dep : Nat) (s : State) : Host.Outcome State Fault Refusal := readDep s launch dep

/-! ### Launch queues (R106, R386, R387) -/

/-- The state with a queue of a context changed. -/
def State.modLq (s : State) (ctx q : Nat) (f : LaunchQueue → LaunchQueue) : State :=
  s.modCtx ctx fun c => { c with queues := c.queues.modify q f }

/-- The bound group of a context with the lowest LOC. -/
def lowestBound (s : State) (ctx : Nat) : Option Nat :=
  (s.groups.zipIdx.foldl (fun (m : Option (Nat × Nat)) p =>
    if p.1.bind.ctx ≠ ctx ∨ p.1.inSlot = false then m
    else match m with
      | none => some (p.2, p.1.loc.reg.toNat)
      | some (i, l) => if p.1.loc.reg.toNat < l then some (p.2, p.1.loc.reg.toNat) else some (i, l)) none).map (·.1)

/-- A queue freezes. -/
def freezeQueue (s : State) (ctx q : Nat) (base : W64) (reason : Nat) : State :=
  let s := noticeCtx (s.modLq ctx q fun l => { l with frozen := some reason }) ctx (.queueFreeze base reason)
  match lowestBound s ctx with
  | some g => s.modGroup g fun G => { G with queueDue := G.queueDue ++ [base] }
  | none => s.modCtx ctx fun c => { c with frozen := c.frozen ++ [base] }

/-- Reads n words of a queue: the words, or the reason of a freeze. -/
def queueWords (s : State) (c : Context) (ctx va n : Nat) : (List W32 ⊕ Nat) × State :=
  match collRead s (firmware c ctx) va [] n with
  | (.ok ws, s) => (.inl ws, s)
  | (.fail k _, s) => (.inr (if k = cUE then 4 else 3), s)
  | (.park, s) => (.inr 3, s)

/-- A word that firmware writes in a queue header. -/
def queuePut (s : State) (c : Context) (ctx va : Nat) (x : W32) : State :=
  match locate s (firmware c ctx) va .own false with
  | (.ok l, s) => devWriteLoc s ctx (va / 4) l 0xF#4 x
  | (_, s) => s

/-- Records from HEAD on, n of them. -/
def watchFrom (s : State) (ctx q : Nat) (c : Context) (l : LaunchQueue) (head : W32) : Nat → State
  | 0 => s
  | n + 1 =>
    let slot := l.base.toNat + 128 + 128 * (head.toNat % l.size)
    match queueWords s c ctx slot 32 with
    | (.inr k, s) => freezeQueue s ctx q l.base k
    | (.inl ws, s) =>
      let (code, _, s) := if bitsOf (ws.getD 0 0).toNat 31 24 = 2 then submitGraph (some (l.base.toNat, l.base.toNat + 128 * (l.size + 1))) s ctx (BitVec.ofNat 64 slot) ws
        else submitLaunch s ctx ws
      let s := if code = 0 then s
        else queuePut s c ctx (l.base.toNat + 12) (BitVec.ofNat 32 (code * 2 ^ 24 + head.toNat % 2 ^ 24))
      let s := queuePut s c ctx (l.base.toNat + 4) (head + 1)
      watchFrom (s.modLq ctx q fun l => { l with head := head + 1 }) ctx q c l (head + 1) n

/-- LAUNCH_QUEUE_WATCH (R386). -/
def execLaunchQueueWatch (ctx q : Nat) (s : State) : Host.Outcome State Fault Refusal :=
  match s.contexts[ctx]? with
  | none => .fault .notEnabled
  | some c => match c.queues[q]? with
    | none => .fault .notEnabled
    | some l =>
      if !c.live || l.frozen.isSome then .fault .notEnabled
      else match queueWords s c ctx l.base.toNat 1 with
        | (.inr k, s) => .next (freezeQueue s ctx q l.base k)
        | (.inl ws, s) =>
          let t := ws.getD 0 0
          if 2 ^ 31 ≤ (t - l.t0).toNat then .next (freezeQueue s ctx q l.base 1)
          else if l.size < (t - l.head).toNat then .next (freezeQueue s ctx q l.base 2)
          else .next (watchFrom (s.modLq ctx q fun l => { l with t0 := t }) ctx q c l l.head (t - l.head).toNat)

end Sys2Proof.Machine
end

