-- ==== Sys2Proof/Machine/Checkpoint.lean ====
section
/-! DEFINITION. What the sections of a checkpoint carry (spec/17_tenancy_and_vacating.md R372, R374; spec/13 R293, R294). -/

namespace Sys2Proof.Machine

/-! ### Memory by sectors -/

/-- The frame address of a word under its leaf; none in a tile that does not exist. -/
def frameOf (s : State) (level : Nat) (e : W64) (va : Nat) : Option Nat :=
  if leafSparse e then
    let x := rawDouble s (mapEntry e (level == 1) va)
    if x.getLsbD 63 then some (mapFrame x + va % 4096) else none
  else some (leafAddr e + va % leafBytes level)

/-- Where a word of a context is read in DRAM: in its frame, where no cache holds it. -/
def wordPa (s : State) (c : Context) (va : Nat) : Option Nat :=
  if (hitLine s c.asid (va / 4)).isSome then none else (leafPlace s c va).bind fun x => frameOf s x.2.1 x.2.2 va

/-- A word of a context as it stands, in a cache or in its frame; none for one that is uncorrectable or not there. -/
def wordNow (s : State) (c : Context) (va : Nat) : Option W32 :=
  match hitLine s c.asid (va / 4) with
  | some l => match l.st with
    | .escrow _ b _ => b
    | _ => some l.value
  | none => (wordPa s c va).bind (wordValue s)

/-- Where the words of a range are read in DRAM. -/
def rangePas (s : State) (c : Context) (va n : Nat) : List Nat := (List.range n).filterMap fun i => wordPa s c (va + 4 * i)

/-- The words of a range. -/
def wordsNow (s : State) (c : Context) (va n : Nat) : List (Option W32) := (List.range n).map fun i => wordNow s c (va + 4 * i)

/-- The 64 KiB pages that a context maps. -/
def mappedPages (s : State) (c : Context) : List Nat :=
  (leavesBelow s c.root 0 3).flatMap fun l => (List.range (leafBytes l.2.2.1 / 65536)).map fun k => l.1 + 65536 * k

/-- The sectors of a page for which a test holds. -/
def sectorMask (p : Nat → Bool) : BitVec 512 := (List.range 512).foldl (fun m n => if p n then m ||| (1#512 <<< n) else m) 0

/-- The sectors of a page that have a frame. -/
def framedMask (s : State) (c : Context) (va : Nat) : BitVec 512 := match leafPlace s c va with
  | some x => sectorMask fun n => (frameOf s x.2.1 x.2.2 (va + 128 * n)).isSome
  | none => 0

/-- Some sectors of a page with their words: those that have a frame. -/
def pageImage (s : State) (c : Context) (m : BitVec 512) (va : Nat) : PageImage :=
  let k := m &&& framedMask s c va
  ⟨va, k, ((List.range 512).filter k.getLsbD).flatMap fun n => wordsNow s c (va + 128 * n) 32⟩

/-- The pages that a record of the delta map stands for: that of its TAG, or, with CONF, every mapped page whose index selects it. -/
def recordPages (s : State) (c : Context) (i : Nat) : List Nat :=
  let a := c.deltaAddr + 128 * i
  let t : W64 := peekWord s c (a + 4) ++ peekWord s c a
  if t.getLsbD 0 = false then []
  else if t.getLsbD 1 then (mappedPages s c).filter fun va => va / 65536 % 2 ^ c.deltaLogn.toNat == i
  else [bitsOf t.toNat 55 16 * 65536]

/-- The sectors that a record names. -/
def recordMask (s : State) (c : Context) (i : Nat) : BitVec 512 :=
  sectorMask fun n => (peekWord s c (c.deltaAddr + 128 * i + 8 + 4 * (n / 32))).getLsbD (n % 32)

/-- What a MEMORY section of a context carries: the sectors recorded in its delta map, or every mapped byte (R366). -/
def memPages (s : State) (ctx : Nat) : List PageImage := match s.contexts[ctx]? with
  | none => []
  | some c =>
    if c.tracking then
      (List.range (2 ^ c.deltaLogn.toNat)).flatMap fun i => (recordPages s c i).map (pageImage s c (recordMask s c i))
    else (mappedPages s c).map (pageImage s c (BitVec.allOnes 512))

/-! ### Sections -/

/-- TYPE. -/
def CkptBody.ty (x : CkptBody) : Byte := match x with
  | .head .. => 1
  | .context .. => 2
  | .launch .. => 3
  | .team .. => 4
  | .group .. => 5
  | .bank .. => 6
  | .engine .. => 7
  | .memory _ => 8
  | .commit .. => 0x0F

/-- The TYPEs of R372. -/
def ckptTypes : List Byte := [1#8, 2#8, 3#8, 4#8, 5#8, 6#8, 7#8, 8#8, 0x0F#8]

/-- CONTEXT. -/
def contextSection (s : State) (c : Context) : CkptBody :=
  .context c.xlctl c.deltaBase c.deltaLogn c.hbase c.hbaseEn c.calla ((List.range 4096).map fun i => wordValue s (c.regions + 4 * i))
    ((leavesBelow s c.root 0 3).map fun l => (l.1, l.2.2.2))

/-- TEAM. -/
def teamSection (s : State) (n : Nat) (t : Team) : CkptBody :=
  .team t (((s.launches[t.launch]?).map (·.retired)).getD 0) (s.meets.filter fun m => m.team == n && !m.closed)
    (s.qmeets.filter fun m => m.team == n && !m.ended) (s.deeds.filter fun d => d.creator == n || match d.st with
      | .held h _ => h == n
      | .transit _ => false)

/-- GROUP: its bind record and its spill area. -/
def groupSection (s : State) (c : Context) (G : Group) : CkptBody := .group G.bind (wordsNow s c G.bind.area.toNat 8192)

/-- BANK: the saved banks of a team, by core and local number. -/
def bankSections (t : Team) : List CkptBody := t.cores.flatMap fun x =>
  (banksOf x.2).zipIdx.filterMap fun b => (t.saved.find? fun y => y.core == x.1 && y.bank == b.1).map fun y =>
    .bank x.1 b.2 (shiftCells (x.1 * coreBytes + b.1 * bankBytes) 0 y.data) (shiftCells (x.1 * coreScale + b.1 * 768) 0 y.scale)

/-- The words of DRAM that a section is read from: each of them is counted, scrubbed or poisoned as any read (R233 to R235). -/
def sectionPas (s : State) (c : Context) (x : CkptBody) : List Nat := match x with
  | .context .. => (List.range 4096).map fun i => c.regions + 4 * i
  | .group b _ => rangePas s c b.area.toNat 8192
  | .memory ps => ps.flatMap fun p => ((List.range 512).filter p.mask.getLsbD).flatMap fun n => rangePas s c (p.va + 128 * n) 32
  | _ => []

/-- The sections of a queue's checkpoint between HEAD and COMMIT, in ascending TYPE order. -/
def innerSections (s : State) (c : Context) (ctx prio : Nat) : List CkptBody :=
  let ts := (teamsIn s ctx prio).filterMap fun n => (s.teams[n]?).map fun t => (n, t)
  let gs := (ts.flatMap fun x => x.2.groups).filter fun g => match s.group? g with
    | some G => !G.gone
    | none => false
  let ls := s.launches.filter fun l => l.ctx == ctx && l.rcd.prio == prio && l.st == .accepted
  [contextSection s c, .launch ls (s.graphs.filter fun i => i.ctx == ctx && !i.ended)] ++ ts.map (fun x => teamSection s x.1 x.2) ++
  (gs.filterMap s.group?).map (groupSection s c) ++ ts.flatMap (fun x => bankSections x.2) ++
  [.engine (s.cmds.filter fun x => gs.contains x.group && !x.ended) ((gs.filterMap s.group?).flatMap fun G => G.eng.colls),
    .memory (memPages s ctx)]

/-- The checkpoint of a queue but for COMMIT: HEAD counts that one too. -/
def ckptSections (s : State) (tenant ctx prio : Nat) : List CkptBody := match s.contexts[ctx]? with
  | none => []
  | some c =>
    let xs := innerSections s c ctx prio
    .head tenant c.asid prio (xs.length + 2) :: xs

end Sys2Proof.Machine
end

