-- ==== Sys2Proof/Machine/TenancyEvents.lean ====
section
/-! DEFINITION. The part's own steps of tenancy: slices, tenant records, way drains, the vacate controller and checkpoints
(spec/17_tenancy_and_vacating.md R353 to R374). -/

namespace Sys2Proof.Machine

/-- The part has booted (R401). -/
def State.ready (s : State) : Bool := s.power.st == .ready

/-! ### Slices (R359) -/

/-- Firmware picks the next context of a tenant, and a slice begins: the other ones halt, and its halted teams resume. -/
def nextSlice (s : State) (t : Tenant) : State :=
  let c := pickContext s t
  let s := s.modTenant t.tid fun t => { t with since := s.cycle }
  applySplits (if t.running = c then (match c with
      | some c => resumeContext s c
      | none => s)
    else preferContext (switchContext s t c) t.tid)

/-- A tenant's slice is over: it has lasted SLICE microseconds, or its context has nothing to run. -/
def sliceOver (s : State) (t : Tenant) : Bool := match t.running with
  | none => true
  | some c => decide (t.rcd.slice * microsecond ≤ (s.cycle - t.since).toNat) || ctxPrio s c == 0

/-- SLICE_END. -/
def execSliceEnd (tenant : Nat) (s : State) : Host.Outcome State Fault Refusal :=
  match s.tenant? tenant with
  | some t => if t.req.isSome || !sliceOver s t then .fault .notEnabled else .next (nextSlice s t)
  | none => .fault .notEnabled

/-- A ready launch of another context has a higher priority than every launch of the running one. -/
def preempts (s : State) (t : Tenant) : Bool := match t.running with
  | none => false
  | some r =>
    let top := (s.launches.filter fun l => l.ctx == r && l.st == .accepted).foldl (fun m l => max m (l.rcd.prio + 1)) 0
    s.launches.any fun l => l.ctx != r && (tenantCtxs s t).contains l.ctx && launchReady s l && teamsLeft l &&
      decide (top < l.rcd.prio + 1)

/-- PREEMPTION. -/
def execPreemption (tenant : Nat) (s : State) : Host.Outcome State Fault Refusal :=
  match s.tenant? tenant with
  | some t => if t.req.isSome || !preempts s t then .fault .notEnabled else .next (nextSlice s t)
  | none => .fault .notEnabled

/-! ### Ways (R356) -/

/-- New ways of a tenant: what it gains takes effect at once, what it loses drains, and a loss during a drain waits for its end. The ways that
wait so are the tenant's until then. -/
def Tenant.setWays (t : Tenant) (w : BitVec 16) : Tenant :=
  let lost := t.rcd.ways &&& ~~~w
  let losing := t.losing &&& ~~~w
  if losing = 0 then { t with rcd := { t.rcd with ways := w }, losing := lost, nextWays := none }
  else { t with rcd := { t.rcd with ways := t.rcd.ways ||| w }, losing := losing, nextWays := if lost = 0 then none else some w }

/-- The blocks of a tenant beyond the ways that it keeps in their set, the least recently used ones. DESIGN CHOICE (log 74): the model gives a
block no way of its own, and takes these for the blocks of the lost ways. -/
def overShare (s : State) (tid : Nat) : List Nat :=
  (s.shUse.zipIdx.filter fun p => p.1.2 == tid &&
    decide (waysOf s tid ≤ ((s.shUse.take p.2).filter fun q => q.2 == tid && sameShSet s q.1 p.1.1).length)).map (·.1.1)

/-- WAYS_DRAIN_END: the last blocks leave the lost ways, written back and settled, and the drain ends. -/
def execWaysDrainEnd (tenant : Nat) (s : State) : Host.Outcome State Fault Refusal :=
  match s.tenant? tenant with
  | some t =>
    if t.losing = 0 then .fault .notEnabled
    else
      let t' : Tenant := { t with losing := 0 }
      let s := (overShare s tenant).foldl (fun s b => flushRange s (32 * b) 32) s
      .next (s.modTenant tenant fun _ => match t.nextWays with
        | some w => t'.setWays w
        | none => t')
  | none => .fault .notEnabled

/-! ### Tenant records (R353, R354) -/

/-- The cores that a record touches. -/
def recCores (r : TenantRec) : List Nat := (r.quads.map (· / 4)).eraseDups

/-- A field of a record is outside its limits. -/
def recordOut (s : State) (tid : Nat) (r : TenantRec) : Bool :=
  !decide (tid < 16) || r.quads.isEmpty || (r.quads.any fun q => !decide (q < 2048) || !quadOn s q) ||
  decide (r.quads.eraseDups.length ≠ r.quads.length) || decide (32 < r.banks) || r.ways == 0 ||
  !decide (1 ≤ r.bws ∧ r.bws ≤ 64) || !decide (1 ≤ r.vrate ∧ r.vrate ≤ 4000) || !decide (30 ≤ r.mindl ∧ r.mindl ≤ 3600) ||
  !decide (50 ≤ r.slice ∧ r.slice ≤ 100000)

/-- A record holds every enabled quadrant of each core that it touches. -/
def wholeOk (s : State) (r : TenantRec) : Bool :=
  (recCores r).all fun c => (List.range 4).all fun q => !quadOn s (4 * c + q) || r.quads.contains (4 * c + q)

/-- A record makes two tenants share a resource: ways that drain, or whose loss is queued, are still their tenant's. -/
def recordShares (s : State) (tid : Nat) (r : TenantRec) : Bool :=
  let others := s.tenants.filter fun t => t.tid != tid
  (others.any fun t => t.rcd.quads.any r.quads.contains) ||
  (others.any fun t => (t.rcd.ways ||| t.losing) &&& r.ways != 0) ||
  decide (64 < others.foldl (fun n t => n + t.rcd.bws) r.bws) ||
  ((recCores r).any fun c => decide (32 < (others.filter fun t => (recCores t.rcd).contains c).foldl (fun n t => n + t.rcd.banks) r.banks)) ||
  (others.any fun t => (r.whole || t.rcd.whole) && (recCores t.rcd).any (recCores r).contains)

/-- Firmware refuses a record. -/
def recordRefused (s : State) (tid : Nat) (r : TenantRec) : Bool :=
  recordOut s tid r || (r.whole && !wholeOk s r) || recordShares s tid r

/-- A group holds a slot of a quadrant that a tenant loses, or its core holds more banks than the tenant keeps. -/
def inTheWay (s : State) (t : Tenant) (r : TenantRec) (T : Team) : Bool :=
  (T.groups.any fun g => match s.group? g with
    | some G => G.inSlot && !r.quads.contains G.loc.quadId
    | none => false) ||
  T.cores.any fun c => !(recCores r).contains c.1 || decide (r.banks < tenantBanks s t c.1)

/-- The teams of a tenant that a new record moves are halted and saved (R354). -/
def clearTheWay (s : State) (t : Tenant) (r : TenantRec) : State :=
  let ts := (tenantCtxs s t).flatMap fun c => (ctxTeams s c).filter fun n => match s.teams[n]? with
    | some T => inTheWay s t r T
    | none => false
  let s := ts.foldl haltTeam s
  let s := ts.foldl saveBanks s
  ts.foldl (fun s n => (groupsOf s n).foldl displace s) s

/-- A tenant as its first record makes it. -/
def newTenant (tid : Nat) (r : TenantRec) : Tenant :=
  { tid := tid, rcd := r, losing := 0, nextWays := none, running := none, since := 0, req := none, phase := 0, plan := []
    pref := Vector.replicate 8 12 }

/-- A tenant under a new record: one that was vacated is so no longer. -/
def Tenant.change (t : Tenant) (r : TenantRec) : Tenant :=
  let t' : Tenant := if 2 ≤ t.phase.toNat then { t with req := none, phase := 0, plan := [] } else t
  ({ t' with rcd := { r with ways := t.rcd.ways } } : Tenant).setWays r.ways

/-- A record that passes creates or changes a tenant. -/
def setTenant (s : State) (tid : Nat) (r : TenantRec) : State :=
  match s.tenant? tid with
  | none => { s with tenants := s.tenants ++ [newTenant tid r] }
  | some t => applySplits ((clearTheWay s t r).modTenant tid fun t => t.change r)

/-! ### Vacate requests (R364) -/

/-- A report on the management bus. -/
def busReport (s : State) (r : BusReport) : State := { s with key := { s.key with reports := s.key.reports ++ [r] } }

/-- VACATE_REQUEST: over the management bus. A refusal is reported there and changes nothing else. -/
def execVacateRequest (tenant : Nat) (r : VacateReq) (s : State) : Host.Outcome State Fault Refusal :=
  if s.ready = false then .fault .notEnabled
  else match postVacate s tenant r.remain.toNat r.prio r.neigh with
    | (true, s) => .next s
    | (false, s) => .next (busReport s (.refused tenant))

/-! ### The plan at work (R369, R370) -/

/-- The state with a queue of a tenant's plan changed. -/
def State.modPlan (s : State) (tid q : Nat) (f : QPlan → QPlan) : State :=
  s.modTenant tid fun t => { t with plan := t.plan.modify q f }

/-- A planned queue of a tenant under a request. -/
def planned (s : State) (tid q : Nat) : Option (Tenant × QPlan) := match s.tenant? tid with
  | some t => if t.req.isSome then (t.plan[q]?).map fun p => (t, p) else none
  | none => none

/-- A queue of the plan is still unsent. -/
def QPlan.unsent (p : QPlan) : Bool := !p.committed && p.outcome.isNone

/-- The sum of C for the queues still unsent, in periods of CYCLE times VRATE. -/
def unsentCost (s : State) (t : Tenant) : Nat :=
  let qs := (t.plan.filter QPlan.unsent).map fun p => (p.ctx, p.prio)
  (t.plan.filter QPlan.unsent).foldl (fun n p =>
    let mem := chargedMem s qs (p.ctx, p.prio)
    n + match p.choice with
      | .run => if p.disc || p.settled then ckptCost t.rcd.vrate 0 mem else ckptCost t.rcd.vrate (p.state s) mem
      | .checkpoint => ckptCost t.rcd.vrate (p.state s) mem
      | .discard => 0) 0

/-- VACATE_CONVERT. -/
def execVacateConvert (tenant q : Nat) (s : State) : Host.Outcome State Fault Refusal :=
  match planned s tenant q with
  | some (t, p) =>
    if p.choice = .run ∧ p.settled = false ∧ p.disc = false ∧ p.outcome = none ∧ remainOf s t * microsecond * t.rcd.vrate ≤ unsentCost s t then
      .next ((saveQueue s p.ctx p.prio).modPlan tenant q fun p =>
        { p with choice := .checkpoint, settled := true, readyAt := s.cycle.toNat, sent := 0 })
    else .fault .notEnabled
  | none => .fault .notEnabled

/-- VACATE_RUN_TIMEOUT: 10 ms before R runs out. -/
def execVacateRunTimeout (tenant q : Nat) (s : State) : Host.Outcome State Fault Refusal :=
  match planned s tenant q with
  | some (t, p) =>
    if p.choice = .run ∧ p.settled = false ∧ p.disc = true ∧ p.outcome = none ∧ remainOf s t ≤ 1010000 then
      .next ((loseQueue s p.ctx p.prio).modPlan tenant q fun p => { p with choice := .discard, settled := true, outcome := some 2 })
    else .fault .notEnabled
  | none => .fault .notEnabled

/-- Sends a section of a queue to the neighbour, with its 16-byte header: TYPE, then the byte length of contents whose layout the spec does not
give, an undefined value (log 52). -/
def sendSection (s : State) (t : Tenant) (ctx prio : Nat) (x : CkptBody) : State :=
  let hdr : BitVec 128 := (freeAt s 0 ++ zext64 x.ty).setWidth 128
  let s := match s.contexts[ctx]? with
    | some c => touch s (sectionPas s c x)
    | none => s
  (sendPkt (s.useFree 1) 0#8 t.neighbour 0xFFFF#16 0 (.ckptPart t.tid ctx prio hdr x)).2

/-- Undefined bits, as many as a digest or a signature has. -/
def freeWide (s : State) (k : Nat) : BitVec 512 :=
  BitVec.ofNat 512 ((List.range 8).foldl (fun n i => n + (freeAt s (k + i)).toNat * 2 ^ (64 * i)) 0)

/-- COMMIT sent: a digest and its signature, which the spec's layout of the sections would fix and the model leaves undefined (log 52). -/
def sendCommit (s : State) (t : Tenant) (ctx prio : Nat) : State :=
  sendSection (s.useFree 16) t ctx prio (.commit (freeWide s 0) (freeWide s 8))

/-- An item that is ready to stream and not sent: a checkpoint, or the tail of a RUN queue that has finished (R369). -/
def QPlan.streams (p : QPlan) : Bool := p.choice != .discard && p.settled && !p.committed && p.outcome.isNone

/-- An item has the link: it is in progress; or none is, none became ready before it, and of those ready together none has a higher PRIO
(R369). -/
def streamTurn (t : Tenant) (p : QPlan) : Bool := (t.plan.filter QPlan.streams).all fun q =>
  q == p || decide (p.sent ≠ 0) || (q.sent == 0 && decide (p.readyAt < q.readyAt ∨ p.readyAt = q.readyAt ∧ q.prio ≤ p.prio))

/-- The tail of a finished RUN queue streams: its context's words are drained and its memory sent. The queue ran. -/
def sendTail (s : State) (t : Tenant) (q : Nat) (p : QPlan) : State :=
  let s := drainContext s p.ctx
  (sendSection s t p.ctx p.prio (.memory (memPages s p.ctx))).modPlan t.tid q fun p =>
    { p with committed := true, outcome := some 0, dst := t.neighbour }

/-- The next section of a checkpoint is sent. Behind its MEMORY section, which the last one before COMMIT is, goes COMMIT, and the commit point is
passed (R370). -/
def sendNext (s : State) (t : Tenant) (q : Nat) (p : QPlan) : State :=
  let xs := ckptSections s t.tid p.ctx p.prio
  match xs[p.sent]? with
  | none => sendCommit s t p.ctx p.prio |>.modPlan t.tid q fun p => { p with committed := true }
  | some x =>
    let s := (sendSection s t p.ctx p.prio x).modPlan t.tid q fun p => { p with sent := p.sent + 1, dst := t.neighbour }
    if p.sent + 1 < xs.length then s else (sendCommit s t p.ctx p.prio).modPlan t.tid q fun p => { p with committed := true }

/-- CHECKPOINT_COMMIT: what has the link goes on. Of a checkpoint the next section is sent; the MEMORY section passes the commit point. The tail
of a RUN queue is sent whole. -/
def execCheckpointCommit (tenant q : Nat) (s : State) : Host.Outcome State Fault Refusal :=
  match planned s tenant q with
  | some (t, p) =>
    if p.streams && streamTurn t p then .next (if p.choice = .run then sendTail s t q p else sendNext s t q p) else .fault .notEnabled
  | none => .fault .notEnabled

/-- CHECKPOINT_ACK: the queue lives on at the neighbour, and leaves this part. -/
def execCheckpointAck (tenant q : Nat) (s : State) : Host.Outcome State Fault Refusal :=
  match planned s tenant q with
  | some (_, p) =>
    if p.choice = .checkpoint ∧ p.committed = true ∧ p.acked = false then
      .next ((discardQueue s p.ctx p.prio).modPlan tenant q fun p => { p with acked := true, outcome := some 1 })
    else .fault .notEnabled
  | none => .fault .notEnabled

/-! ### Vacancy (R373) -/

/-- What becomes of a queue of the plan when the tenant is to be vacant: at the deadline what is neither sent nor committed is lost. -/
def closeQueue (s : State) (late : Bool) (p : QPlan) : QPlan × State :=
  if p.outcome.isSome then (p, s)
  else if late && !p.committed then
    ({ p with settled := true, outcome := some (if p.disc then 2 else 3) }, loseQueue s p.ctx p.prio)
  else (p, s)

/-- Closes every queue of a plan. -/
def closeQueues (s : State) (late : Bool) : List QPlan → List QPlan × State
  | [] => ([], s)
  | p :: t =>
    let (p, s) := closeQueue s late p
    let (t, s) := closeQueues s late t
    (p :: t, s)

/-- No slot, command, or dirty or escrow word of a tenant's contexts is left. -/
def tenantEmpty (s : State) (t : Tenant) : Bool :=
  let cs := tenantCtxs s t
  (s.groups.all fun G => !(G.inSlot && cs.contains G.bind.ctx)) &&
  (s.cmds.all fun c => c.ended || !cs.contains c.ctx) &&
  (s.sq.all fun w => !cs.contains w.ctx) &&
  s.lines.all fun l => !l.isDirty || !cs.any fun c => l.ofCtx s c

/-- TENANT_VACANT. -/
def execTenantVacant (tenant : Nat) (s : State) : Host.Outcome State Fault Refusal :=
  match s.tenant? tenant with
  | none => .fault .notEnabled
  | some t =>
    if t.req.isNone then .fault .notEnabled
    else
      let (plan, s) := closeQueues s (remainOf s t == 0) t.plan
      if (plan.all fun p => p.outcome.isSome) && tenantEmpty s t then
        let phase : BitVec 2 := if plan.any fun p => p.outcome == some 3 then 3 else 2
        let s := s.modTenant tenant fun t => { t with plan := plan, req := none, phase := phase, running := none }
        let outcomes := plan.map fun p => (p.ctx, p.prio, p.outcome.getD 0)
        .next (applySplits (noticeAll (busReport s (.outcomes tenant outcomes)) (.vacateOutcome tenant outcomes)))
      else .fault .notEnabled

/-! ### Migration without a deadline, and images received (R372, R374) -/

/-- A record of the delta map read and cleared. -/
def swapRecord (s : State) (c : Context) (a : Nat) : State :=
  match xlate s c a .own with
  | (.fault _, s) => s
  | (.ok l big, s) =>
    let pa := leafPa l big a
    let k := lineKey (leafTag c.asid l) (a / 4)
    (List.range 18).foldl (fun s i => devWrite s (k + i) (pa + 4 * i) 0) s

/-- PRE_COPY_ROUND: with DLTEN = 0 firmware sets it, and sends every mapped byte. With DLTEN = 1 it swaps every valid record of the delta map for
zero and sends its sectors. -/
def execPreCopyRound (ctx : Nat) (s : State) : Host.Outcome State Fault Refusal :=
  match s.contexts[ctx]?, tenantOf s ctx with
  | some c, some t =>
    if !c.live then .fault .notEnabled
    else
      let pages := memPages s ctx
      let s := if c.xlctl.getLsbD 5 then (List.range (2 ^ c.deltaLogn.toNat)).foldl (fun s i =>
        let a := c.deltaAddr + 128 * i
        if (peekWord s c a).getLsbD 0 then swapRecord s c a else s) s
        else s.modCtx ctx fun c => { c with xlctl := c.xlctl ||| 0x20#7 }
      .next (sendSection s t ctx 0 (.memory pages))
  | _, _ => .fault .notEnabled

/-- TYPE of a received section. -/
def sectionType (x : CkptSection) : Byte := x.hdr.extractLsb' 0 8

/-- A section of an image: TYPEs other than those of R372 are refused, and a HEAD begins a new image. -/
def takeSection (x : CkptSection) (src : Nat) (is_ : List Image) : List Image :=
  if !ckptTypes.contains (sectionType x) then is_
  else if sectionType x = 1#8 then is_.filter (fun i => i.src != src || i.committed) ++ [⟨src, [x], false⟩]
  else is_.map fun i =>
    if i.src = src ∧ i.committed = false then { i with sections := i.sections ++ [x], committed := sectionType x == 0x0F#8 } else i

/-- CHECKPOINT_SECTION. -/
def execCheckpointSection (src : Nat) (x : CkptSection) (s : State) : Host.Outcome State Fault Refusal :=
  if s.ready then .next { s with images := takeSection x src s.images } else .fault .notEnabled

end Sys2Proof.Machine
end

