-- ==== Sys2Proof/Machine/PacketEvents.lean ====
section
/-! DEFINITION. Packets that arrive at the part and what the part does with them, and route draining
(spec/18_fabric_and_collectives.md R376 to R395; spec/16 R345, R346; spec/13 R307). -/

namespace Sys2Proof.Machine

/-! ### Lifetime snapshots (R404) -/

/-- The seconds of every block's histograms added to the counts. -/
def histograms (s : State) : State :=
  let add (s : State) (b bin : Nat) : State :=
    (s.count (.temperature b bin) (Config.histogram s.freeCtr false b bin)).count (.voltage b bin) (Config.histogram s.freeCtr true b bin)
  let s' := (List.range 28).foldl (fun t b => (List.range 32).foldl (fun t bin => add t b bin) t) s
  s'.useFree 1

/-- SEQ of a bank, 0 for an empty one. -/
def bankSeq (b : Option (W64 × List (LifeKey × Nat))) : W64 := match b with
  | some x => x.1
  | none => 0

/-- The counts of R404 in the order of its table: each word unit, with the sums of each pseudo-channel and each die, and so on. -/
def lifeRecord (l : List (LifeKey × Nat)) : List Nat :=
  let of (k : LifeKey) : Nat := match l.find? fun p => p.1 == k with
    | some p => p.2
    | none => 0
  let words (f : Nat → LifeKey) : List Nat :=
    let units := (List.range 4096).map fun u => of (f u)
    let sums (n : Nat) : List Nat := (List.range (4096 / n)).map fun i => ((units.drop (n * i)).take n).foldl (· + ·) 0
    units ++ sums 16 ++ (List.range 128).map fun d =>
      ((List.range 32).map fun p => units.getD (512 * (d / 16) + 16 * p + d % 16) 0).foldl (· + ·) 0
  let bins (f : Nat → Nat → LifeKey) : List Nat := (List.range 28).flatMap fun b => (List.range 32).map fun i => of (f b i)
  words .corrected ++ words .uncorrectable ++ (List.range 8).map (fun k => of (.escrowLost k)) ++ bins .temperature ++ bins .voltage ++
  (List.range 144).map (fun n => of (.laneRetrain n)) ++ (List.range 36).map (fun n => of (.crcDrop n)) ++
  (List.range 256).map (fun n => of (.strandRetrain n)) ++ (List.range 21).map (fun n => of (.trapCause n)) ++
  [of .resets, of .bootFailures, of .stageFailures, of .thermalTrips]

/-- A snapshot written to the bank that does not hold the last one. -/
def snapshot (s : State) : State :=
  let s := histograms s
  let a := bankSeq s.key.lifeA
  let b := bankSeq s.key.lifeB
  if b < a then { s with key := { s.key with lifeB := some (a + 1, s.life) } }
  else { s with key := { s.key with lifeA := some (b + 1, s.life) } }

/-! ### SEQ and order (R381) -/

/-- SEQ a comes before SEQ b in wrapped order. -/
def seqBefore (a b : W32) : Bool := decide (0 < (b - a).toNat ∧ (b - a).toNat < 2 ^ 31)

/-- What has been performed of a sender's packets. -/
def seqRec (s : State) (src : BitVec 16) : SeqRec := (s.fab.seqs.find? fun r => r.src == src).getD ⟨src, 0, []⟩

/-- A packet of a sender has been performed. -/
def SeqRec.has (r : SeqRec) (n : W32) : Bool := seqBefore n r.low || r.above.any fun x => x.1 == n

/-- The lowest SEQ not yet performed moves past those that are. -/
def closeLow (low : W32) (above : List (W32 × List Nat)) : Nat → W32 × List (W32 × List Nat)
  | 0 => (low, above)
  | k + 1 => if above.any (fun x => x.1 == low) then closeLow (low + 1) (above.filter fun x => x.1 != low) k else (low, above)

/-- A packet recorded as performed, with the words that it touched. -/
def seqDone (s : State) (src : BitVec 16) (n : W32) (words : List Nat) : State :=
  let r := seqRec s src
  let (low, above) := closeLow r.low ((n, words) :: r.above) (r.above.length + 1)
  s.modFab fun f => { f with seqs := ⟨src, low, above⟩ :: f.seqs.filter fun x => x.src != src }

/-- The words that a memory packet touches (R381), each under two names: its address in its context, or in physical memory, and its place in a
frame where it has one, so that a word is one word whatever the context that names it. -/
def pktSpan (s : State) (asid : BitVec 16) (addr : W64) (count : Nat) : List Nat :=
  (List.range count).flatMap fun i =>
    let va := addr.toNat + 4 * i
    if asid = 0xFFFF#16 then [va % 2 ^ 39]
    else
      let pa := (((ctxByAsid s asid).bind fun n => s.contexts[n]?).bind fun c =>
        (leafPlace s c va).bind fun x => frameOf s x.2.1 x.2.2 va).toList
      (2 ^ 80 + asid.toNat * 2 ^ 64 + va) :: pa

/-- Two packets touch a word in common. -/
def spansMeet (a b : List Nat) : Bool := a.any b.contains

/-- A packet may be performed: once only, an ORD packet after every earlier one, and a memory packet before every later one that
touched one of its words and after every earlier one that does and waits. -/
def seqReady (s : State) (h : Hdr) (ord : Bool) (words : List Nat) : Bool :=
  let r := seqRec s h.src
  !r.has h.seq && (!ord || h.seq == r.low) && (!r.above.any fun x => seqBefore h.seq x.1 && spansMeet words x.2) &&
  !s.fab.inbound.any fun p => p.src == h.src && seqBefore p.seq h.seq && spansMeet words (pktSpan s p.asid p.addr p.count)

/-! ### Answers (R379, R380) -/

/-- What becomes of a packet: an answer; a fault that is being served, so that the step is made again; or nothing, for a step that
firmware's choices do not fit. -/
inductive PktRes where
  | reply (status : W32) (mask : W64) (words : List W32) (s : State)
  | wait (s : State)
  | no

/-- A status word: transport code, code and subcode. -/
def pktStatus (transport code sub : Nat) : W32 := BitVec.ofNat 32 (sub * 65536 + transport * 256 + code)

/-- A refusal with a transport code: nothing else changes. -/
def refuse (t : Nat) (s : State) : PktRes := .reply (pktStatus t 0 0) 0 [] s
/-- An answer with a code. -/
def accept (code : Nat) (s : State) : PktRes := .reply (pktStatus 0 code 0) 0 [] s

/-- A reply sent. -/
def sendReply (s : State) (h : Hdr) (kind : BitVec 8) (status : W32) (mask : W64) (words : List W32) : State :=
  (sendPkt s (0x80#8 ||| kind) h.src h.asid h.tag (.reply status mask words)).2

/-- The part takes packets: it has booted, and its lanes are not idle. -/
def State.online (s : State) : Bool := s.ready && s.fab.drain != .drained

/-- A packet is for this part and may be performed. -/
def pktReady (s : State) (h : Hdr) (ord : Bool) (words : List Nat) : Bool := h.dst == s.fab.pid && seqReady s h ord words

/-- A packet whose access waits has been taken: it is no new request of a drain (R394). -/
def HeldPkt.is (h : Hdr) (p : HeldPkt) : Bool := p.src == h.src && p.seq == h.seq
def heldPkt (s : State) (h : Hdr) : Bool := s.fab.inbound.any (HeldPkt.is h)
def dropHeld (s : State) (h : Hdr) : State := s.modFab fun f => { f with inbound := f.inbound.filter fun p => !p.is h }
def holdPkt (s : State) (h : Hdr) (addr : W64) (count : Nat) : State :=
  (dropHeld s h).modFab fun f => { f with inbound := ⟨h.src, h.seq, h.asid, addr, count⟩ :: f.inbound }

/-- The answer to a packet sent, and the packet recorded; or the packet held. -/
def endPkt (h : Hdr) (kind : BitVec 8) (addr : W64) (count : Nat) (r : PktRes) : Host.Outcome State Fault Refusal :=
  match r with
  | .reply st m ws s => .next (seqDone (sendReply (dropHeld s h) h kind st m ws) h.src h.seq (pktSpan s h.asid addr count))
  | .wait s => .next (holdPkt s h addr count)
  | .no => .fault .notEnabled

/-- A request of an assigned kind: a reserved field, then a drain, then the kind itself. -/
def runPacket (s : State) (h : Hdr) (kind : BitVec 8) (ord : Bool) (addr : W64) (count : Nat) (k : PktRes) : Host.Outcome State Fault Refusal :=
  if !s.online || !pktReady s h ord (pktSpan s h.asid addr count) then .fault .notEnabled
  else endPkt h kind addr count (if h.bad then refuse 5 s else if s.fab.drain ≠ .run ∧ kind ≠ 0x0E#8 ∧ heldPkt s h = false then refuse 3 s else k)

/-- The sender is a host node, or a member of a communicator of a context. -/
def fromHost (s : State) (h : Hdr) : Bool := s.fab.hosts.contains h.src
def fromMember (c : Context) (h : Hdr) : Bool := c.comms.any fun m => m.members.contains h.src

/-- Runs k on the context that a packet names: from the host node that created it, or from a member part where the kind allows it. -/
def withCtx (s : State) (h : Hdr) (parts : Bool) (k : Nat → Context → PktRes) : PktRes :=
  match (ctxByAsid s h.asid).bind fun i => (s.contexts[i]?).map fun c => (i, c) with
  | none => refuse (if fromHost s h then 2 else 1) s
  | some (i, c) =>
    if (fromHost s h && c.creator == h.src) || (parts && fromMember c h) then k i c else refuse 1 s

/-- A memory packet: malformed ones are refused, physical ones go to the controllers for a host node. -/
def memPacket (s : State) (h : Hdr) (kind : BitVec 8) (addr : W64) (count : Nat) (phys : PktRes) (k : Nat → Context → PktRes) :
    Host.Outcome State Fault Refusal :=
  runPacket s h kind h.ord addr count <|
    let bad := addr.toNat % 4 != 0 || !decide (1 ≤ count ∧ count ≤ 64)
    if h.asid = 0xFFFF#16 then
      if !fromHost s h then refuse 1 s
      else if bad || !(List.range count).all (fun i => wordExists s (addr.toNat % 2 ^ 39 + 4 * i)) then refuse 5 s
      else phys
    else withCtx s h true fun i c => if bad then refuse 5 s else k i c

/-- The answers that firmware's accesses to a range have met are spent. -/
def spendRange (s : State) (lo hi : Nat) : State :=
  let touched (v : Verdict) : Bool := decide (v.page ≤ hi / 65536 ∧ lo / 65536 < v.page + (if v.big then 32 else 1))
  { s with verdicts := s.verdicts.filter fun v => !(v.party == .firmware && touched v) }

/-- A delivered fault answers a memory packet with its subcode; FRAME, which has none, with that of its page. -/
def faultReply (s : State) (va sub : Nat) : PktRes :=
  .reply (pktStatus 0 0 (if sub = 0 then 1 else sub)) 0 [] (spendVerdict s va)

/-! ### READ (R382, R383) -/

/-- Words by the physical path: none for an uncorrectable one. -/
def physRange (s : State) (pa : Nat) : Nat → List (Option W32) × State
  | 0 => ([], s)
  | n + 1 =>
    let (x, s) := dramRead s pa
    let (t, s) := physRange s (pa + 4) n
    (x :: t, s)

/-- An address of a packet that lies at or above 2^56 (R278, R286). -/
def pktFar (va : Nat) : Bool := decide (2 ^ 56 ≤ va)

/-- Words of a context: none for an uncorrectable one, or the address and subcode of a fault. -/
def pktWords (s : State) (w : Who) (va : Nat) : Nat → EngRes (List (Option W32)) × Nat × State
  | 0 => (.ok [], va, s)
  | n + 1 => match (if pktFar va then (.fail cXLAT 4, s) else engRead s w va) with
    | (.fail c k, s) => (.fail c k, va, s)
    | (.park, s) => (.park, va, s)
    | (.ok x, s) => match pktWords s w (va + 4) n with
      | (.ok t, a, s) => (.ok (x :: t), a, s)
      | r => r

/-- A READ reply: uncorrectable words read as 0 and are named in the mask. -/
def readReply (xs : List (Option W32)) (s : State) : PktRes :=
  let mask := xs.zipIdx.foldl (fun (m : W64) p => if p.1.isNone then m ||| (1#64 <<< p.2) else m) 0
  .reply 0 mask (xs.map fun x => x.getD 0) s

/-- READ. -/
def execRead (h : Hdr) (addr : W64) (count : Nat) (s : State) : Host.Outcome State Fault Refusal :=
  memPacket s h 0x03#8 addr count
    (let (xs, s) := physRange s (addr.toNat % 2 ^ 39) count
     readReply xs s)
    fun i c => match pktWords s (fwService c i) addr.toNat count with
      | (.ok xs, _, s) => readReply xs (spendRange s addr.toNat (addr.toNat + 4 * count))
      | (.fail _ k, va, s) => faultReply s va k
      | (.park, _, s) => .wait s

/-! ### WRITE -/

/-- The enabled words of a packet: index and data. -/
def enabledWords (en : W64) (count : Nat) (data : List W32) : List (Nat × W32) :=
  (List.range count).filterMap fun i => if en.getLsbD i then some (i, data.getD i 0) else none

/-- The place of a word that a packet writes. -/
def pktPlace (s : State) (w : Who) (va : Nat) : EngRes Loc × State := if pktFar va then (.fail cXLAT 4, s) else engPlace s w va

/-- The places of the enabled words, made ready: none for a word whose tile could not be born. -/
def pktPlaces (s : State) (w : Who) (addr : Nat) : List (Nat × W32) → EngRes (List (Nat × W32 × Option Loc)) × Nat × State
  | [] => (.ok [], 0, s)
  | (i, x) :: t =>
    let one : EngRes (Option Loc) × State := match pktPlace s w (addr + 4 * i) with
      | (.ok l, s) => (.ok (some l), s)
      | (.fail c k, s) => if c = cXALLOC then (.ok none, s) else (.fail c k, s)
      | (.park, s) => (.park, s)
    match one with
    | (.fail c k, s) => (.fail c k, addr + 4 * i, s)
    | (.park, s) => (.park, addr + 4 * i, s)
    | (.ok l, s) => match pktPlaces s w addr t with
      | (.ok r, a, s) => (.ok ((i, x, l) :: r), a, s)
      | r => r

/-- Bit 20 of a status word. -/
def xallocBit : W32 := 1#32 <<< 20

/-- The words written at the shared cache: the mask of those performed. -/
def putPlaces (s : State) (ctx addr : Nat) (l : List (Nat × W32 × Option Loc)) : W64 × State :=
  l.foldl (fun (a : W64 × State) p => match p.2.2 with
    | some loc => (a.1 ||| (1#64 <<< p.1), devWriteLoc a.2 ctx (addr / 4 + p.1) loc 0xF#4 p.2.1)
    | none => a) (0, s)

/-- WRITE. -/
def execWrite (h : Hdr) (addr : W64) (count : Nat) (en : W64) (data : List W32) (s : State) : Host.Outcome State Fault Refusal :=
  let ws := enabledWords en count data
  let all := ws.foldl (fun (m : W64) p => m ||| (1#64 <<< p.1)) 0
  memPacket s h 0x04#8 addr count
    (.reply 0 all [] (ws.foldl (fun s p => dramWrite s (addr.toNat % 2 ^ 39 + 4 * p.1) p.2) s))
    fun i c => match pktPlaces s (fwService c i) addr.toNat ws with
      | (.ok l, _, s) =>
        let (m, s) := putPlaces s i addr.toNat l
        .reply (if l.any (fun p => p.2.2.isNone) then xallocBit else 0) m [] (spendRange s addr.toNat (addr.toNat + 4 * count))
      | (.fail _ k, va, s) => faultReply s va k
      | (.park, _, s) => .wait s

/-! ### ATOMIC -/

/-- The new value of an atomic by its code of R63. -/
def atomicNew (code : Nat) (old x cmp : W32) : Option W32 :=
  match code with
  | 0 => some (old + x)
  | 1 => some (wMinI old x)
  | 2 => some (wMaxI old x)
  | 3 => some (wMinN old x)
  | 4 => some (wMaxN old x)
  | 5 => some (old &&& x)
  | 6 => some (old ||| x)
  | 7 => some (old ^^^ x)
  | 8 => some x
  | 9 => some (if old = cmp then x else old)
  | _ => none

/-- ATOMIC. An operation code that R63 does not list is malformed. -/
def execAtomic (h : Hdr) (addr : W64) (op : BitVec 7) (operand compare : W32) (s : State) : Host.Outcome State Fault Refusal :=
  let code := bitsOf op.toNat 6 3
  let pa := addr.toNat % 2 ^ 39
  memPacket s h 0x05#8 addr 1
    (if 10 ≤ code then refuse 5 s
     else match dramRead s pa with
      | (none, s) => .reply 0 1 [0] s
      | (some v, s) => .reply 0 0 [v] (match atomicNew code v operand compare with
        | some y => dramWrite s pa y
        | none => s))
    fun i c =>
      if 10 ≤ code then refuse 5 s
      else match pktPlace s (fwService c i) addr.toNat with
        | (.fail cause k, s) => if cause = cXALLOC then .reply xallocBit 0 [0] s else faultReply s addr.toNat k
        | (.park, s) => .wait s
        | (.ok l, s) =>
          let s := spendRange s addr.toNat addr.toNat
          match devReadLoc s (addr.toNat / 4) l with
          | (none, s) => .reply 0 1 [0] s
          | (some v, s) => .reply 0 0 [v] (match atomicNew code v operand compare with
            | some y => devWriteLoc s i (addr.toNat / 4) l 0xF#4 y
            | none => s)

/-! ### LAUNCH and LAUNCHG: firmware sets ORD -/

/-- LAUNCH. -/
def execLaunchPacket (h : Hdr) (words : Vector W32 32) (s : State) : Host.Outcome State Fault Refusal :=
  runPacket s h 0x01#8 true 0 0 <| withCtx s h false fun i _ =>
    let r := submitLaunch s i words.toList
    accept r.1 r.2.2

/-- LAUNCHG. A header address that is misaligned or at or above 2^56 has code 3; one that cannot be read has code 8. -/
def execLaunchg (h : Hdr) (addr : W64) (s : State) : Host.Outcome State Fault Refusal :=
  runPacket s h 0x02#8 true 0 0 <| withCtx s h false fun i c =>
    if addr.toNat % 128 ≠ 0 ∨ 2 ^ 56 ≤ addr.toNat then accept 3 s
    else match fwWords s (firmware c i) addr.toNat 32 with
      | (none, s) => accept 8 s
      | (some ws, s) =>
        let r := submitGraph none s i addr ws
        accept r.1 r.2.2

/-! ### QREG (R385) -/

/-- Every byte of a range lies in mapped pages that satisfy a test. -/
def pagesAre (s : State) (c : Context) (lo hi : Nat) (ok : W64 → Bool) : Bool :=
  decide (hi ≤ 2 ^ 56) && (List.range ((hi + 65535) / 65536 - lo / 65536)).all fun k =>
    match leafPlace s c ((lo / 65536 + k) * 65536) with
    | some (_, level, e) => !entryBad s c.asid ((lo / 65536 + k) * 65536) level e && ok e
    | none => false

/-- SIZE is a power of two from 1 to 4,096. -/
def sizeOk (n : W32) : Bool := (List.range 13).any fun k => n.toNat == 2 ^ k

/-- Firmware accepts a queue. -/
def queueOk (s : State) (c : Context) (base : W64) (size : W32) : Bool :=
  base.toNat % 128 == 0 && sizeOk size &&
  pagesAre s c base.toNat (base.toNat + 128 * (size.toNat + 1)) (fun e => leafU e && !leafG e && !leafSparse e && !leafDesc e) &&
  (decide (c.queues.length < 16) || c.queues.any fun q => q.base == base)

/-- A queue registered: a known base again, which unfreezes it. -/
def putQueue (q : LaunchQueue) : List LaunchQueue → List LaunchQueue
  | [] => [q]
  | x :: t => if x.base = q.base then q :: t else x :: putQueue q t

/-- QREG. -/
def execQreg (h : Hdr) (base : W64) (size : W32) (s : State) : Host.Outcome State Fault Refusal :=
  runPacket s h 0x06#8 h.ord 0 0 <| withCtx s h false fun i c =>
    if queueOk s c base size then
      let s := queuePut s c i (base.toNat + 4) 0
      let s := queuePut s c i (base.toNat + 8) size
      let s := queuePut s c i (base.toNat + 12) 0
      accept 0 (s.modCtx i fun c => { c with
        queues := putQueue ⟨base, size.toNat, 0, 0, none⟩ c.queues, frozen := c.frozen.filter (· ≠ base) })
    else refuse 5 s

/-! ### COMM and PEERMAP (R384, R388) -/

/-- A communicator may be registered. -/
def commOk (s : State) (r : CommReg) : Bool :=
  decide (r.idx < 64) && decide (2 ≤ r.members.length ∧ r.members.length ≤ 1024) && decide (r.members.eraseDups.length = r.members.length) &&
  r.members[r.rank]? == some s.fab.pid && r.area.toNat % 4 == 0 && decide (r.area.toNat + 4 * r.cap ≤ 2 ^ 56)

/-- COMM. -/
def execComm (h : Hdr) (r : CommReg) (s : State) : Host.Outcome State Fault Refusal :=
  runPacket s h 0x07#8 h.ord 0 0 <| withCtx s h false fun i _ =>
    if commOk s r then
      accept 0 (s.modCtx i fun c => { c with
        comms := c.comms.filter (fun m => m.idx != r.idx) ++ [⟨r.idx, r.members, r.rank, r.area, r.cap, r.grant, 0, none⟩] })
    else refuse 5 s

/-- A peer range may be set: whole 2 MiB units that meet no mapped page and no other range. -/
def peerOk (s : State) (c : Context) (p : PeerReg) : Bool :=
  let b := p.base.toNat
  let n := p.size.toNat
  b % 2 ^ 21 == 0 && n % 2 ^ 21 == 0 && decide (0 < n ∧ b + n ≤ 2 ^ 56) && decide (c.peers.length < 64) &&
  (c.peers.all fun q => !meets b n q.base.toNat q.size.toNat) &&
  (leavesBelow s c.root 0 3).all fun l => !meets b n l.1 (leafBytes l.2.2.1)

/-- PEERMAP. -/
def execPeermap (h : Hdr) (p : PeerReg) (s : State) : Host.Outcome State Fault Refusal :=
  runPacket s h 0x0D#8 h.ord 0 0 <| withCtx s h false fun i c =>
    if peerOk s c p then accept 0 (s.modCtx i fun c => { c with peers := c.peers ++ [p] }) else refuse 5 s

/-! ### TENANT and VACATE -/

/-- TENANT: firmware refuses a record with transport code 5. -/
def execTenant (h : Hdr) (tid : Nat) (r : TenantRec) (s : State) : Host.Outcome State Fault Refusal :=
  runPacket s h 0x08#8 h.ord 0 0 <|
    if !fromHost s h then refuse 1 s
    else if recordRefused s tid r then refuse 5 s
    else accept 0 (setTenant s tid r)

/-- VACATE over Viaduct: a refused request is reported with transport code 5. -/
def execVacatePacket (h : Hdr) (tenant : Nat) (r : VacateReq) (s : State) : Host.Outcome State Fault Refusal :=
  runPacket s h 0x09#8 h.ord 0 0 <|
    if !(fromHost s h || h.src == s.fab.manager) then refuse 1 s
    else match postVacate s tenant r.remain.toNat r.prio r.neigh with
      | (true, s) => accept 0 s
      | (false, _) => refuse 5 s

/-! ### FAULTR and CALLR (R287, R346) -/

/-- FAULTR: the answer to a fault record that was posted to the host; a refusal is delivered with subcode 9. -/
def execFaultr (h : Hdr) (n : Nat) (ans : FaultAnswer) (s : State) : Host.Outcome State Fault Refusal :=
  runPacket s h 0x0A#8 h.ord 0 0 <| withCtx s h false fun i _ =>
    match openFault s n with
    | some f =>
      if f.ctx ≠ i ∨ f.toHost = false then refuse 5 s
      else match ans with
        | .deliver => accept 0 (deliverFault s n f fun sub => (faultCause sub, 9))
        | .resolve leaf => match serveFault s n f leaf with
          | some s => accept 0 s
          | none => refuse 5 s
    | none => refuse 5 s

/-- A posted call that is neither answered nor timed out. -/
def openCall (c : Context) (n : Nat) : Option CallRec := c.calls.find? fun r => r.index == n && !r.answered && !r.timeout

/-- A call answered: its record is written, and freed at once where no group waits for it any more. -/
def closeCall (s : State) (ctx : Nat) (c : Context) (r : CallRec) (rep : Lanes W32) (timeout : Bool) : State :=
  let put (q : CallRec) : CallRec :=
    if q.index = r.index then { q with rep := rep, answered := !timeout, timeout := timeout } else q
  (callAnswer s c r.index rep timeout).modCtx ctx fun c =>
    { c with calls := if r.dropped then c.calls.filter (fun q => q.index != r.index) else c.calls.map put }

/-- CALLR. -/
def execCallr (h : Hdr) (n : Nat) (seq : W32) (reps : Lanes W32) (s : State) : Host.Outcome State Fault Refusal :=
  runPacket s h 0x0B#8 h.ord 0 0 <| withCtx s h false fun i c =>
    match openCall c n with
    | some r => if r.seq = seq then accept 0 (closeCall s i c r reps false) else refuse 5 s
    | none => refuse 5 s

/-- The FN that selects the responder of a call. -/
def CallRec.fn (r : CallRec) : Nat := match lanesOf r.mask with
  | [] => 0
  | i :: _ => callFn (r.req.toList.getD i 0)

/-- CALL_TIMEOUT: a host call. -/
def execCallTimeout (ctx n : Nat) (s : State) : Host.Outcome State Fault Refusal :=
  match s.contexts[ctx]? with
  | none => .fault .notEnabled
  | some c => match openCall c n with
    | some r => if r.fn < 0x20 then .next (closeCall s ctx c r (splat 0xFFFFFFFF#32) true) else .fault .notEnabled
    | none => .fault .notEnabled

/-! ### Firmware's calls (R229, R307, R345) -/

/-- The stacks that a split request selects. -/
def splitStacks (req : W32) : List Nat :=
  let m := bitsOf req.toNat 11 4
  (List.range 8).filter fun k => m == 0 || m.testBit k

/-- One lane's split request: recorded for its context, followed by the tenant's preference; the reply is the split in force. -/
def splitLane (s : State) (ctx : Nat) (req : W32) : W32 × State :=
  let v := max 4 (min 12 (bitsOf req.toNat 3 0))
  let ks := splitStacks req
  let s := s.modCtx ctx fun c => { c with split := ks.foldl (fun x k => x.setIfInBounds k (some v)) c.split }
  let s := match tenantOf s ctx with
    | some t => s.modTenant t.tid fun t => { t with pref := ks.foldl (fun x k => x.setIfInBounds k v) t.pref }
    | none => s
  (BitVec.ofNat 32 (splitInForce s (ks.headD 0)), applySplits s)

/-- The replies to the lanes of a call in ascending order: f answers one request. -/
def callLanes {α : Type} (f : α → W32 → W32 × α) (r : CallRec) (fn : Nat) (a : α) : Lanes W32 × α :=
  (lanesOf r.mask).foldl (fun (acc : Lanes W32 × α) i =>
    let q := r.req.toList.getD i 0
    if callFn q = fn then
      let (y, a) := f acc.2 q
      (acc.1.setIfInBounds i y, a)
    else (acc.1.setIfInBounds i 0xFFFFFFFF#32, acc.2)) (splat 0, a)

/-- CALL_SERVICE_SPLIT. -/
def execCallServiceSplit (ctx n : Nat) (s : State) : Host.Outcome State Fault Refusal :=
  match s.contexts[ctx]? with
  | none => .fault .notEnabled
  | some c => match openCall c n with
    | some r =>
      if r.fn = 0x20 then
        let (reps, s) := callLanes (fun s q => splitLane s ctx q) r 0x20 s
        .next (closeCall s ctx c r reps false)
      else .fault .notEnabled
    | none => .fault .notEnabled

/-- Tile frames that firmware takes: each from those left of a split frame, or by splitting its free 64 KiB frame. -/
def takeGiven (s : State) : List (BitVec 27) → Option State
  | [] => some s
  | f :: t =>
    let big := f.toNat / 16 * 65536
    if s.tiles.contains f then takeGiven { s with tiles := s.tiles.erase f } t
    else if (framesOf s (paStack big)).contains big then
      takeGiven { s.setFrames (paStack big) ((framesOf s (paStack big)).filter (· ≠ big)) with
        tiles := s.tiles ++ (tileFrames big).filter (· ≠ f) } t
    else none

/-- One lane's refill: the frames left and the state. A pool whose descriptor cannot be read gets none (log 58). -/
def refillLane (ctx : Nat) (c : Context) (a : List (BitVec 27) × State) (req : W32) : W32 × List (BitVec 27) × State :=
  let r : BitVec 8 := BitVec.ofNat 8 (bitsOf req.toNat 23 16)
  let privd := match a.2.contexts[ctx]? with
    | some c => c.priv
    | none => false
  match readPool a.2 c r with
  | (none, s) => (0, a.1, s)
  | (some p, s) =>
    if !p.flags.getLsbD 0 || !(p.flags.getLsbD 1 || privd) then (0, a.1, s)
    else
      let k := min (min (bitsOf req.toNat 15 0) p.room) a.1.length
      (BitVec.ofNat 32 k, a.1.drop k, poolPush s c r p (a.1.take k))

/-- CALL_SERVICE_REFILL: firmware's frames serve the lanes in turn, and none is left over. -/
def execCallServiceRefill (ctx n : Nat) (frames : List (BitVec 27)) (s : State) : Host.Outcome State Fault Refusal :=
  match s.contexts[ctx]? with
  | none => .fault .notEnabled
  | some c => match openCall c n, takeGiven s frames with
    | some r, some s =>
      let (reps, fs, s) := callLanes (refillLane ctx c) r 0x21 (frames, s)
      if r.fn = 0x21 ∧ fs = [] then .next (closeCall s ctx c r reps false) else .fault .notEnabled
    | _, _ => .fault .notEnabled

/-! ### Route draining (R394) -/

/-- The states by number (R401). -/
def DrainSt.code (d : DrainSt) : BitVec 8 := match d with
  | .run => 0
  | .quiesce => 1
  | .withdraw => 2
  | .drained => 3

/-- The part enters a state of the drain and reports it. -/
def enterDrain (s : State) (d : DrainSt) : State := noticeAll (s.modFab fun f => { f with drain := d }) (.drainState d.code none)

/-- A lane of a Viaduct port is enabled, a port has one, a plane has one. -/
def vlaneOn (s : State) (lane : Nat) : Bool := decide (lane < 144) && configBit s 448 lane
def portOn (s : State) (port : Nat) : Bool := (List.range 4).any fun l => vlaneOn s (4 * port + l)
def planesOn (s : State) : List Nat := (List.range 36).filter fun p => portOn s p

/-- A NOTICE to every host node and the fabric manager on every enabled port (R394, R399). -/
def noticePorts (s : State) (body : Nat → PktBody) : State := (planesOn s).foldl (fun s p => noticeAll s (body p)) s

/-- Requests of the part that are not answered and not timed out. -/
def outbound (s : State) : Bool := (s.fab.peers.any fun p => p.answer.isNone && !p.late) || !s.fab.colldOut.isEmpty

/-- DRAIN = 1. -/
def execDrainStart (h : Hdr) (s : State) : Host.Outcome State Fault Refusal :=
  runPacket s h 0x0C#8 h.ord 0 0 <|
    if h.src ≠ s.fab.manager then refuse 1 s
    else if s.tenants.all (fun t => decide (2 ≤ t.phase.toNat)) then accept 0 (enterDrain s .quiesce)
    else refuse 5 s

/-- What DRAIN = 0 does: RUN at once from QUIESCE, and once routes or links are back from the later states. -/
def cancelDrain (s : State) : State :=
  match s.fab.drain with
  | .run => s
  | .quiesce => enterDrain s .run
  | _ => s.modFab fun f => { f with returning := true }

/-- DRAIN = 0: accepted in every state. -/
def execDrainCancel (h : Hdr) (s : State) : Host.Outcome State Fault Refusal :=
  if !s.ready || !pktReady s h h.ord [] then .fault .notEnabled
  else endPkt h 0x0C#8 0 0 (if h.bad then refuse 5 s else if h.src ≠ s.fab.manager then refuse 1 s else accept 0 (cancelDrain s))

/-- Planes are asked to withdraw the routes to the part. -/
def askPlanes (s : State) (ps : List Nat) : State :=
  ps.foldl (fun s p => (sendPkt s 0#8 s.fab.manager 0xFFFF#16 0 (.withdraw p)).2) s

/-- QUIESCE_COMPLETE. -/
def execQuiesceComplete (s : State) : Host.Outcome State Fault Refusal :=
  if s.ready = true ∧ s.fab.drain = .quiesce ∧ s.fab.inbound = [] ∧ outbound s = false then
    .next (askPlanes ((enterDrain s .withdraw).modFab fun f => { f with confirmed := [] }) (planesOn s))
  else .fault .notEnabled

/-- QUIESCE_TIMEOUT: an outbound request, peer accesses first, then collective data. -/
def execQuiesceTimeout (n : Nat) (s : State) : Host.Outcome State Fault Refusal :=
  if s.fab.drain ≠ .quiesce then .fault .notEnabled
  else match s.fab.peers[n]? with
    | some p =>
      if p.answer.isNone && !p.late then .next (s.modFab fun f => { f with peers := f.peers.modify n fun p => { p with late := true } })
      else .fault .notEnabled
    | none =>
      if n - s.fab.peers.length < s.fab.colldOut.length then
        .next (s.modFab fun f => { f with colldOut := f.colldOut.eraseIdx (n - f.peers.length) })
      else .fault .notEnabled

/-- WITHDRAW_CONFIRM: once every plane has confirmed, the final NOTICE goes out and the part is DRAINED. -/
def execWithdrawConfirm (plane : Nat) (s : State) : Host.Outcome State Fault Refusal :=
  if s.fab.drain ≠ .withdraw ∨ (planesOn s).contains plane = false ∨ s.fab.confirmed.contains plane = true then .fault .notEnabled
  else
    let s := s.modFab fun f => { f with confirmed := f.confirmed ++ [plane] }
    if !s.fab.returning && (planesOn s).all (fun p => s.fab.confirmed.contains p) then
      .next ((snapshot (noticePorts (s.modFab fun f => { f with drain := .drained }) fun p => .drainState DrainSt.drained.code (some p))).modFab fun f => { f with notices := [] })
    else .next s

/-- WITHDRAW_RETRY. -/
def execWithdrawRetry (s : State) : Host.Outcome State Fault Refusal :=
  if s.fab.drain = .withdraw ∧ s.fab.returning = false then
    .next (askPlanes s ((planesOn s).filter fun p => !s.fab.confirmed.contains p))
  else .fault .notEnabled

/-- The part runs again. -/
def backToRun (s : State) : State := enterDrain (s.modFab fun f => { f with returning := false, confirmed := [] }) .run

/-- ROUTES_RESTORED. -/
def execRoutesRestored (s : State) : Host.Outcome State Fault Refusal :=
  if s.fab.drain = .withdraw ∧ s.fab.returning = true then .next (backToRun s) else .fault .notEnabled

/-- LINKS_RETRAINED. -/
def execLinksRetrained (s : State) : Host.Outcome State Fault Refusal :=
  if s.fab.drain = .drained ∧ s.fab.returning = true then .next (backToRun s) else .fault .notEnabled

/-! ### Other requests, replies and losses (R377, R380) -/

/-- UNASSIGNED_REQUEST: an unassigned kind is answered with transport code 5; a NOTICE, which no one sends to a part, with 1. A CONTEXT packet
with an unassigned OP, or with a nonzero argument byte that its OP does not use, has code 5 (R383). -/
def execUnassignedRequest (h : Hdr) (kind : BadKind) (s : State) : Host.Outcome State Fault Refusal :=
  let k := kind.kind.toNat
  let badCtx := k == 0x0E && (kind.unused || kind.op == 0 || decide (6 ≤ kind.op.toNat))
  if !s.online || !pktReady s h h.ord [] || !(k == 0 || badCtx || decide (0x0F ≤ k ∧ k ≤ 0x40) || decide (0x42 ≤ k ∧ k ≤ 0x7F)) then
    .fault .notEnabled
  else endPkt h kind.kind 0 0 (if badCtx ∧ h.bad = false then (if fromHost s h then accept 5 s else refuse 1 s)
    else if h.bad || k != 0x40 then refuse 5 s else refuse 1 s)

/-- A packet dropped or failed is counted at a port: an enabled one, which of them the packet does not say. -/
def countDrop (s : State) : State :=
  match (planesOn s)[(freeAt s 0).toNat % (max 1 (planesOn s).length)]? with
  | some p => (s.useFree 1).count (.crcDrop p) 1
  | none => s.useFree 1

/-- What a reply says of a peer access (R379, R384). -/
def replyAnswer (kind : BitVec 8) (p : ReplyData) : W32 × Nat :=
  let transport := bitsOf p.status.toNat 15 8
  let sub := bitsOf p.status.toNat 19 16
  let x := p.words.headD 0
  if transport ≠ 0 then (0, peerRefused)
  else if sub ≠ 0 then (0, sub)
  else if p.status.getLsbD 20 then (0, peerXalloc)
  else if kind ≠ 0x04#8 ∧ p.mask.getLsbD 0 = true then (0, peerUE)
  else (x, 0)

/-- The request that a reply answers. -/
def peerOf (s : State) (h : Hdr) (kind : BitVec 8) : Option Nat :=
  s.fab.peers.findIdx? fun p => p.dst == h.src && p.tag == h.tag && p.kind == kind && p.answer.isNone && !p.late

/-- A packet that asks nothing of the part: performed once, in its order. -/
def onReply (s : State) (h : Hdr) (k : State) : Host.Outcome State Fault Refusal :=
  if !s.online || !pktReady s h h.ord [] then .fault .notEnabled
  else .next (seqDone (if h.bad then countDrop s else k) h.src h.seq [])

/-- The packets of a list that a reply does not answer. -/
def unacked (h : Hdr) (l : List Packet) : List Packet := l.filter fun p => !(p.dst == h.src && p.tag == h.tag)

/-- A NOTICE answered. -/
def ackNotice (s : State) (h : Hdr) : State :=
  if (unacked h s.fab.notices).length = s.fab.notices.length then countDrop s
  else s.modFab fun f => { f with notices := unacked h f.notices }

/-- Collective data answered. -/
def ackColld (s : State) (h : Hdr) : State :=
  if (unacked h s.fab.colldOut).length = s.fab.colldOut.length then countDrop s
  else s.modFab fun f => { f with colldOut := unacked h f.colldOut }

/-- REPLY: accepted against an outstanding request, or dropped and counted. -/
def execReply (h : Hdr) (kind : BitVec 8) (p : ReplyData) (s : State) : Host.Outcome State Fault Refusal :=
  if kind.toNat < 0x80 then .fault .notEnabled
  else onReply s h <|
    if kind = 0xC0#8 then ackNotice s h
    else if kind = 0xC1#8 then ackColld s h
    else match peerOf s h (kind &&& 0x7F#8) with
      | some n => s.modFab fun f => { f with peers := f.peers.modify n fun q => { q with answer := some (replyAnswer q.kind p) } }
      | none => countDrop s

/-- NOTICE_ACK. -/
def execNoticeAck (h : Hdr) (s : State) : Host.Outcome State Fault Refusal := onReply s h (ackNotice s h)

/-- COLLD_ACK. -/
def execColldAck (h : Hdr) (s : State) : Host.Outcome State Fault Refusal := onReply s h (ackColld s h)

/-- A packet sent again, as it was. -/
def resend (s : State) (l : List Packet) (n : Nat) : Host.Outcome State Fault Refusal :=
  match l[n]? with
  | some p => if s.online then .next (s.modFab fun f => { f with outbox := f.outbox ++ [p] }) else .fault .notEnabled
  | none => .fault .notEnabled

/-- NOTICE_RESEND. -/
def execNoticeResend (n : Nat) (s : State) : Host.Outcome State Fault Refusal := resend s s.fab.notices n

/-- COLLD_RESEND. -/
def execColldResend (n : Nat) (s : State) : Host.Outcome State Fault Refusal := resend s s.fab.colldOut n

/-- COLLD: held and answered; a resent packet is answered again and performed once only. -/
def execColld (h : Hdr) (d : CollData) (s : State) : Host.Outcome State Fault Refusal :=
  if s.online && h.dst == s.fab.pid && (seqRec s h.src).has h.seq then .next (sendReply s h 0x41#8 0 0 [])
  else runPacket s h 0x41#8 h.ord 0 0 <|
    match (ctxByAsid s h.asid).bind fun i => (s.contexts[i]?).map fun c => (i, c) with
    | none => refuse 1 s
    | some (i, c) => match c.comms.find? fun m => m.idx == d.comm with
      | some m =>
        if m.members.contains h.src then accept 0 (s.modFab fun f => { f with collIn := f.collIn ++ [⟨i, h.src, d⟩] })
        else refuse 1 s
      | none => refuse (if fromMember c h then 5 else 1) s

/-- PACKET_CRC_FAIL: dropped, counted, and answered where it is a request. -/
def execPacketCrcFail (port : Nat) (h : Hdr) (kind : BitVec 8) (s : State) : Host.Outcome State Fault Refusal :=
  if !s.online || !portOn s port then .fault .notEnabled
  else
    let s := s.count (.crcDrop port) 1
    .next (if kind.toNat < 0x80 then sendReply s h kind (pktStatus 4 0 0) 0 [] else s)

/-- PEER_TIMEOUT. -/
def execPeerTimeout (n : Nat) (s : State) : Host.Outcome State Fault Refusal :=
  match s.fab.peers[n]? with
  | some p =>
    if p.answer.isNone && !p.late then .next (s.modFab fun f => { f with peers := f.peers.modify n fun p => { p with late := true } })
    else .fault .notEnabled
  | none => .fault .notEnabled

/-- FLIT_RETRY: the link layer delivers the flit once, so that nothing else changes. -/
def execFlitRetry (port lane : Nat) (s : State) : Host.Outcome State Fault Refusal :=
  if s.ready && decide (port < 36 ∧ lane < 4) && vlaneOn s (4 * port + lane) then .next s else .fault .notEnabled

/-- VIADUCT_LANE_RETRAIN. -/
def execViaductLaneRetrain (lane : Nat) (s : State) : Host.Outcome State Fault Refusal :=
  if vlaneOn s lane then .next (s.count (.laneRetrain lane) 1) else .fault .notEnabled

end Sys2Proof.Machine
end

