-- ==== Sys2Proof/Machine/ContextEvents.lean ====
section
/-! DEFINITION. CONTEXT commands: contexts, their page tables and their regions (spec/18_fabric_and_collectives.md R383;
spec/13 R247, R285, R289; spec/14 R301, R309). -/

namespace Sys2Proof.Machine

/-- Bytes of the call area, and of a spill area. -/
def callBytes : Nat := 2 ^ 19
def spillBytes : Nat := 2 ^ 15

/-- Runs k on the context that a CONTEXT packet names; one that does not exist has code 2. -/
def onContext (s : State) (h : Hdr) (k : Nat → Context → PktRes) : PktRes :=
  if !fromHost s h then refuse 1 s
  else match (ctxByAsid s h.asid).bind fun i => (s.contexts[i]?).map fun c => (i, c) with
    | none => accept 2 s
    | some (i, c) => if c.creator = h.src then k i c else refuse 1 s

/-! ### Create -/

/-- The lowest context number that no live context has (R110). -/
def freeNo (s : State) : Nat := ((List.range 4096).find? fun k => !s.contexts.any fun c => c.live && c.no == k).getD 4096

/-- A context as its create registers it. -/
def makeContext (h : Hdr) (a : CtxCreate) (s : State) : Context :=
  { live := true, no := freeNo s, asid := h.asid, priv := a.priv, tenant := a.tenant, root := a.root.toNat, regions := a.regions.toNat
    calla := a.calla, callFrames := [], spillBase := a.spillBase, spillCount := a.spillCount.toNat, xlctl := 0x10, deltaBase := 0
    deltaLogn := 6, hbase := 0, hbaseEn := false, calls := [], callSeq := 0
    reserves := Vector.ofFn fun i => ⟨(framesOf s i.val).take reserveFrames, []⟩
    creator := h.src, launchSeq := 0, queues := [], frozen := [], comms := [], peers := [], split := Vector.replicate 8 none }

/-- An argument is out of range: code 5. -/
def createArgBad (s : State) (h : Hdr) (a : CtxCreate) : Bool :=
  h.asid == 0xFFFF#16 || (s.tenant? a.tenant).isNone || !decide (1 ≤ a.spillCount.toNat ∧ a.spillCount.toNat ≤ 16384)

/-- An address is misaligned, out of range, or not mapped as the create requires: code 3. -/
def createAddrBad (s : State) (c : Context) : Bool :=
  let call := c.calla.toNat
  let spill := c.spillBase.toNat
  c.root % 4096 != 0 || !wordExists s c.root || c.regions % 4 != 0 || !wordExists s c.regions || !wordExists s (c.regions + 64 * 256 - 4) ||
  call % callBytes != 0 || spill % spillBytes != 0 ||
  !pagesAre s c call (call + callBytes) (fun e => leafU e && !leafW e && leafPin e && !leafSparse e) ||
  !pagesAre s c spill (spill + spillBytes * c.spillCount) (fun e => !leafU e && leafW e && leafPin e && !leafSparse e)

/-- The 64 KiB frames of the call area. -/
def callFramesOf (s : State) (c : Context) : List Nat :=
  (List.range 8).map fun k =>
    let va := c.calla.toNat + 65536 * k
    match leafPlace s c va with
    | some (_, level, e) => leafAddr e + va % leafBytes level
    | none => 0

/-- CONTEXT_CREATE. -/
def execContextCreate (h : Hdr) (a : CtxCreate) (s : State) : Host.Outcome State Fault Refusal :=
  runPacket s h 0x0E#8 h.ord 0 0 <|
    let c := makeContext h a s
    if !fromHost s h then refuse 1 s
    else if (ctxByAsid s h.asid).isSome then accept 1 s
    else if createArgBad s h a then accept 5 s
    else if createAddrBad s c then accept 3 s
    else if 4096 ≤ c.no ∨ (List.range 8).any (fun st => decide ((framesOf s st).length < reserveFrames)) = true then accept 4 s
    else accept 0 { s with
      contexts := s.contexts ++ [{ c with callFrames := callFramesOf s c }]
      frames := s.frames.map fun l => l.drop reserveFrames }

/-! ### Regions -/

/-- A word and a double of a region's descriptor. -/
def regWord (s : State) (c : Context) (r : BitVec 8) (off : Nat) : Nat := (corrWord s (regionAt c r off)).toNat
def regPool (s : State) (c : Context) (r : BitVec 8) : Nat := (rawDouble s (regionAt c r 8)).toNat

/-- The frames in a region's pool. -/
def poolFrames (s : State) (c : Context) (r : BitVec 8) : List (BitVec 27) :=
  (List.range (regWord s c r 16)).map fun j => (corrWord s (regPool s c r + 4 * j)).setWidth 27

/-- A tile that exists: its address, its map entry, its frame, its region, and the key of its first word. -/
structure BornTile where
  va : Nat
  ex : Nat
  frame : Nat
  region : BitVec 8
  key : Nat
  deriving DecidableEq, Repr

/-- The tiles of a context that exist. -/
def bornTiles (s : State) (c : Context) : List BornTile :=
  ((leavesBelow s c.root 0 3).filter fun l => leafSparse l.2.2.2).flatMap fun l =>
    (List.range (leafBytes l.2.2.1 / 4096)).filterMap fun k =>
      let ex := leafAddr l.2.2.2 + 8 * k
      let e := rawDouble s ex
      let va := l.1 + 4096 * k
      if e.getLsbD 63 then some ⟨va, ex, mapFrame e, mapRegion e, lineKey (leafTag c.asid l.2.2.2) (va / 4)⟩ else none

/-- Every tile of a region is erased (R309). -/
def eraseRegion (s : State) (ctx : Nat) (c : Context) (ts : List BornTile) : State :=
  ts.foldl (fun s t => (eraseTile s ctx c t.va t.ex (some t.frame) t.region t.key).2) s

/-- The frames of a region's pool back on the free lists. -/
def dropPool (s : State) (c : Context) (r : BitVec 8) : State :=
  dramWrite { s with tiles := s.tiles ++ poolFrames s c r } (regionAt c r 16) 0

/-- The arguments of a region command written, by the physical path. -/
def writeRegion (s : State) (c : Context) (r : BitVec 8) (d : RegionSet) (pool : W64) : State :=
  let s := dramWrite s (regionAt c r 0) d.dflt
  let s := dramWrite s (regionAt c r 4) d.flags
  let s := dramWrite64 s (regionAt c r 8) pool
  let s := dramWrite s (regionAt c r 20) d.cap
  dramWrite s (regionAt c r 28) d.refill

/-- FREE, BORN, BIRTHS and ERASES of a region that is created, and its last bytes. -/
def freshRegion (s : State) (c : Context) (r : BitVec 8) : State :=
  [16, 24, 32, 36, 40, 44, 48, 52, 56, 60].foldl (fun s off => dramWrite s (regionAt c r off) 0) s

/-- The words of a region's descriptor and pool, as firmware reads them. -/
def poolWords (s : State) (c : Context) (r : BitVec 8) : List Nat :=
  ((List.range 16).map fun i => regionAt c r (4 * i)) ++ (List.range (regWord s c r 16)).map fun j => regPool s c r + 4 * j

/-- The pool array moved. -/
def movePool (s : State) (c : Context) (r : BitVec 8) (pool : Nat) : State :=
  (poolFrames s c r).zipIdx.foldl (fun s p => dramWrite s (pool + 4 * p.2) (p.1.setWidth 32)) s

/-- An argument of a region command is out of range: code 5. -/
def regionArgBad (d : RegionSet) : Bool :=
  bitsOf d.flags.toNat 31 3 != 0 || (d.flags.getLsbD 0 && (!decide (1 ≤ d.cap.toNat ∧ d.cap.toNat < 2 ^ 24) ||
    !decide (1 ≤ d.refill.toNat ∧ d.refill.toNat < 65536))) || (!d.flags.getLsbD 0 && d.place != 0)

/-- The tile frames that firmware can take. -/
def tilesLeft (s : State) : Nat := s.tiles.length + (s.frames.toList.map fun l => 16 * l.length).foldl (· + ·) 0

/-- A pool array may stand at an address. -/
def poolOk (s : State) (a cap : Nat) : Bool := a % 4 == 0 && wordExists s a && wordExists s (a + 4 * cap - 4) && decide (paStack a = paStack (a + 4 * cap - 4))

/-- A descriptor set VALID: of a new region, or of one that is valid already. -/
def setValid (s : State) (c : Context) (r : BitVec 8) (d : RegionSet) : PktRes :=
  let s := touch s (poolWords s c r)
  let old := regionValid s c r
  let free := if old then regWord s c r 16 else 0
  let born := if old then regWord s c r 24 else 0
  let pool : W64 := if d.poola = 0 then BitVec.ofNat 64 (if old then regPool s c r else 0) else d.poola
  if !poolOk s pool.toNat d.cap.toNat || pool == 0 then accept 3 s
  else if d.cap.toNat < free + born + d.place.toNat then accept 5 s
  else if tilesLeft s < d.place.toNat then accept 4 s
  else if d.frames.length ≠ d.place.toNat then .no
  else match takeGiven s d.frames with
    | none => .no
    | some s =>
      let s := if old then (if pool.toNat ≠ regPool s c r then movePool s c r pool.toNat else s) else freshRegion s c r
      accept 0 (poolPush (writeRegion s c r d pool) c r ⟨d.flags, pool.toNat, free, d.cap.toNat, born, d.refill.toNat⟩ d.frames)

/-- A descriptor set not VALID: its tiles are erased and its pool goes back first. While a write holds one of its tiles the step
waits. -/
def setInvalid (s : State) (ctx : Nat) (c : Context) (r : BitVec 8) (d : RegionSet) : PktRes :=
  let ts := (bornTiles s c).filter fun t => t.region == r
  if ts.any (fun t => tileHeld s t.key t.ex) then .wait s
  else
    let s := touch s (poolWords s c r)
    let s := if regionValid s c r then dropPool (eraseRegion s ctx c ts) c r else s
    accept 0 (writeRegion s c r d d.poola)

/-- CONTEXT_SET_REGION. -/
def execContextSetRegion (h : Hdr) (index : BitVec 8) (d : RegionSet) (s : State) : Host.Outcome State Fault Refusal :=
  runPacket s h 0x0E#8 h.ord 0 0 <| onContext s h fun i c =>
    if regionArgBad d then accept 5 s
    else if d.flags.getLsbD 0 then setValid s c index d
    else setInvalid s i c index d

/-! ### Page-table entries (R247, R285) -/

/-- A range of addresses meets the call area or the spill range of a context. -/
def fixedRange (c : Context) (va bytes : Nat) : Bool :=
  meets va bytes c.calla.toNat callBytes || meets va bytes c.spillBase.toNat (spillBytes * c.spillCount)

/-- CONTEXT_CHANGE_PTE. -/
def execContextChangePte (h : Hdr) (level : BitVec 8) (va entry : W64) (s : State) : Host.Outcome State Fault Refusal :=
  runPacket s h 0x0E#8 h.ord 0 0 <| onContext s h fun i c =>
    let l := level.toNat
    let a := va.toNat
    if 1 < l then accept 5 s
    else if a % leafBytes l ≠ 0 ∨ 2 ^ 56 ≤ a then accept 3 s
    else match entryPlace s a l c.root 3 with
      | none => accept 3 s
      | some pa =>
        if fixedRange c a (leafBytes l) then accept 3 s
        else if entryClash s i a l entry then accept 6 s
        else accept 0 (pinFrame (changeEntry s c a l pa entry) i c entry)

/-! ### Flags and destroy -/

/-- CONTEXT_SET_FLAGS. -/
def execContextSetFlags (h : Hdr) (priv : Bool) (s : State) : Host.Outcome State Fault Refusal :=
  runPacket s h 0x0E#8 h.ord 0 0 <| onContext s h fun i _ => accept 0 (s.modCtx i fun c => { c with priv := priv })

/-- The 64 KiB frames that a context's leaves and reserves hold, but for those that another context maps. -/
def ctxFrames (s : State) (ctx : Nat) (c : Context) : List Nat :=
  let others := s.contexts.zipIdx.flatMap fun p => if !p.1.live || p.2 == ctx then [] else mappingsOf s p.2 p.1 0 0
  let own := (mappingsOf s ctx c 0 0).flatMap fun m => (List.range (m.bytes / 65536)).map fun k => m.pa + 65536 * k
  ((own ++ c.reserves.toList.flatMap fun r => r.free ++ r.used).eraseDups).filter fun f =>
    !others.any fun m => meets f 65536 m.pa m.bytes

/-- The tile frames that a context's regions hold. -/
def ctxTiles (s : State) (c : Context) : List (BitVec 27) :=
  ((List.range 256).flatMap fun k =>
    let r : BitVec 8 := BitVec.ofNat 8 k
    if regionValid s c r then poolFrames s c r else []) ++ (bornTiles s c).map fun t => BitVec.ofNat 27 (t.frame / 4096)

/-- Frames put on the free lists of their stacks. -/
def giveFrames (s : State) (fs : List Nat) : State :=
  fs.foldl (fun s f => s.setFrames (paStack f) (framesOf s (paStack f) ++ [f])) s

/-- The cached words, stores on their way, translations and records of an identifier dropped. -/
def dropAsid (s : State) (asid : BitVec 16) : State :=
  let s := discardRange s (lineKey asid 0) (2 ^ 54)
  { s with
    sq := s.sq.filter fun w => w.tag != asid
    reqs := s.reqs.filter fun r => keyTag r.key != asid
    tlb := s.tlb.filter fun t => t.tag != asid
    rcache := s.rcache.filter fun r => r.tag != asid }

/-- A context destroyed. -/
def destroyContext (s : State) (ctx : Nat) (c : Context) : State :=
  let s := discardContext s ctx
  let fs := ctxFrames s ctx c
  let ts := ctxTiles s c
  let s := giveFrames (dropAsid s c.asid) fs
  let stop (t : Tenant) : Tenant := if t.running = some ctx then { t with running := none } else t
  let s := { s with tiles := s.tiles ++ ts, tenants := s.tenants.map stop }
  s.modCtx ctx fun c => { c with
    live := false, calls := [], queues := [], frozen := [], comms := [], peers := [], reserves := Vector.replicate 8 ⟨[], []⟩ }

/-- CONTEXT_DESTROY. -/
def execContextDestroy (h : Hdr) (s : State) : Host.Outcome State Fault Refusal :=
  runPacket s h 0x0E#8 h.ord 0 0 <| onContext s h fun i c => accept 0 (applySplits (destroyContext s i c))

end Sys2Proof.Machine
end

