-- ==== Sys2Proof/Machine/PowerEvents.lean ====
section
/-! DEFINITION. The keystone, boots and resets, power blocks (spec/19_management_and_reset.md R396 to R404; spec/01 R18 to R20). -/

namespace Sys2Proof.Machine

/-! ### Configuration records (R397, R398) -/

/-- Byte i of a record. -/
def recByte (r : List Byte) (i : Nat) : Byte := r.getD i 0
/-- A little-endian field of a record. -/
def recField (r : List Byte) (i n : Nat) : Nat := ofLe ((r.drop i).take n)
/-- Bit n of a field that begins at byte i. -/
def recBit (r : List Byte) (i n : Nat) : Bool := (recByte r (i + n / 8)).getLsbD (n % 8)
/-- The set bits among the first n of a field. -/
def recCount (r : List Byte) (i n : Nat) : Nat := ((List.range n).filter (recBit r i)).length
/-- Bytes of a record from a first one to before a last one are zero. -/
def recZero (r : List Byte) (lo hi : Nat) : Bool := ((r.take hi).drop lo).all fun b => b == 0

/-- FORMAT and LENGTH. -/
def recFormat (r : List Byte) : Nat := recField r 0 2
def recLength (r : List Byte) : Nat := recField r 2 2

/-- FORMAT, LENGTH, a reserved field or SIG is wrong: code 2. -/
def recMalformed (r : List Byte) : Bool :=
  let n := recLength r
  recFormat r != 1 || !decide (1152 ≤ n ∧ n ≤ 16384 ∧ n % 64 = 0) || !recZero r 21 32 || !recZero r 466 512 || !recZero r 624 1024 ||
  ((List.range 28).any fun b => recByte r (512 + 4 * b + 3) != 0) || !Config.signatureOk (r.take n)

/-- The counts of UNITS. -/
def enabledCores (r : List Byte) : Nat := recCount r 32 512
def recQuads (r : List Byte) : Nat := recCount r 96 2048
def recSlices (r : List Byte) : Nat := recCount r 352 512
def recPchs (r : List Byte) : Nat := recCount r 416 256
def recLanes (r : List Byte) : Nat := recCount r 448 144
def recPorts (r : List Byte) : Nat := ((List.range 36).filter fun p => (List.range 4).any fun l => recBit r 448 (4 * p + l)).length

/-- The counts lie in the limits of the grade (R19). -/
def gradeOk (r : List Byte) : Bool :=
  let q := recQuads r
  let l := recSlices r
  let p := recPchs r
  let v := recLanes r
  match (recByte r 20).toNat with
  | 1 => decide (enabledCores r = 512 ∧ q = 2048 ∧ l = 512 ∧ p = 256 ∧ v = 144)
  | 2 => decide (enabledCores r = 480 ∧ 1904 ≤ q ∧ q ≤ 1920 ∧ 504 ≤ l ∧ l ≤ 512 ∧ 252 ≤ p ∧ p ≤ 256 ∧ 140 ≤ v ∧ v ≤ 144)
  | _ => false

/-- The clusters, cores and stacks are whole enough (R20), and no quadrant is enabled in a disabled core. -/
def partsOk (r : List Byte) : Bool :=
  ((List.range 8).all fun k => decide (56 ≤ ((List.range 64).filter fun c => recBit r 32 (64 * k + c)).length)) &&
  ((List.range 512).all fun c => recBit r 32 c == (List.range 4).any fun q => recBit r 96 (4 * c + q)) &&
  (List.range 8).all fun k => decide (31 ≤ ((List.range 32).filter fun p => recBit r 416 (32 * k + p)).length)

/-- The limits, in units of 0.1 A × 5 mV, come to at most 3,400 W (R16). -/
def powerOk (r : List Byte) : Bool :=
  decide (((List.range 28).map fun b => recField r (512 + 4 * b) 2 * recField r (514 + 4 * b) 1).foldl (· + ·) 0 ≤ 6800000)

/-- The first code of R398 that applies to a record at a boot, 0 for none. -/
def recordCode (cold : Bool) (serial r : List Byte) : Nat :=
  if cold && !Config.imageOk then 1
  else if recMalformed r then 2
  else if (r.drop 4).take 16 ≠ serial then 3
  else if !gradeOk r || !partsOk r then 4
  else if !powerOk r then 5
  else 0

/-- UNITS of a record (R18). -/
def unitsOf (r : List Byte) : W64 :=
  BitVec.ofNat 64 (enabledCores r * 2 ^ 54 + recQuads r * 2 ^ 42 + recSlices r * 2 ^ 32 + recPchs r * 2 ^ 23 + recLanes r * 2 ^ 15 +
    recPorts r * 2 ^ 9 + (recByte r 20).toNat * 2 ^ 4)

/-- The disabled pseudo-channel of each stack. -/
def pchOffOf (r : List Byte) : Vector (Option (BitVec 5)) 8 :=
  Vector.ofFn fun k => ((List.range 32).find? fun p => !recBit r 416 (32 * k.val + p)).map (BitVec.ofNat 5)

/-! ### Resets (R400) -/

/-- The state that a reset leaves: the keystone, the lifetime counts and the model's own counters stay, and DRAM where it is kept. DESIGN CHOICE
(log 120): the counts of a unit that a later record disables stay too. -/
def lose (s : State) (keep : Bool) : State :=
  { State.reset with
    dram := if keep then s.dram else [], synd := if keep then s.synd else [], pchOff := s.pchOff
    life := s.life, key := s.key, units := s.units
    power := { s.power with blocks := State.reset.power.blocks }
    freeCtr := s.freeCtr, tick := s.tick, agenda := s.agenda }

/-- A boot begins; before a warm one every DRAM die is placed in self-refresh. -/
def startBoot (s : State) (cold : Bool) : State :=
  let s := lose s (!cold)
  { s with power := { s.power with st := .booting, err := 0, cold := cold, again := none, selfRefresh := !cold } }

/-- A requested reset: before a warm one a snapshot is written; during a boot it waits for the running step. -/
def requestReset (s : State) (cold : Bool) : State :=
  match s.power.st with
  | .unpowered => s
  | .booting =>
    let s := if cold then s else snapshot s
    { s with power := { s.power with again := some (cold || s.power.again == some true) } }.count .resets 1
  | _ => startBoot ((if cold then s else snapshot s).count .resets 1) cold

def execPcmdColdReset (s : State) : Host.Outcome State Fault Refusal := .next (requestReset s true)
def execPcmdWarmReset (s : State) : Host.Outcome State Fault Refusal := .next (requestReset s false)

/-- WATCHDOG_EXPIRE: a warm reset. -/
def execWatchdogExpire (s : State) : Host.Outcome State Fault Refusal :=
  if s.power.st = .unpowered then .fault .notEnabled else .next (requestReset s false)

/-- POWER_ON: a cold boot. -/
def execPowerOn (s : State) : Host.Outcome State Fault Refusal :=
  if s.power.st = .unpowered then .next (startBoot s true) else .fault .notEnabled

/-- The counts of the newest snapshot. -/
def lastCounts (k : Keystone) : List (LifeKey × Nat) :=
  match (if bankSeq k.lifeA < bankSeq k.lifeB then k.lifeB else k.lifeA) with
  | some x => x.2
  | none => []

/-- Package power is gone: so are the counts since the last snapshot. -/
def cutPower (s : State) : State :=
  let s := lose { s with life := lastCounts s.key } false
  { s with power := { s.power with st := .unpowered, err := 0, again := none, selfRefresh := false } }

/-- POWER_FAIL. -/
def execPowerFail (s : State) : Host.Outcome State Fault Refusal :=
  if s.power.st = .unpowered then .fault .notEnabled else .next (cutPower s)

/-! ### The boot (R399) -/

/-- Step 1: a staged record that passes becomes the configuration; one that fails is counted. -/
def takeStage (s : State) (cold : Bool) : State :=
  if recFormat s.key.stage = 0 then s
  else if recordCode cold s.key.serial s.key.stage = 0 then { s with key := { s.key with config := s.key.stage, stage := [] } }
  else { s with key := { s.key with stage := [] } }.count .stageFailures 1

/-- Steps 2 and 3: the first code of R398 that applies, 0 for none. -/
def bootCode (s : State) (cold : Bool) : Nat := recordCode cold s.key.serial s.key.config

/-- The free frames that firmware holds after a boot: those of R289 that exist. -/
def bootFrames (s : State) : Vector (List Nat) 8 :=
  Vector.ofFn fun k => (Config.freeFrames k.val).filter fun f => f % 65536 == 0 && paStack f == k.val && wordExists s f

/-- Steps 2 to 7 of a boot that does not fail. -/
def finishBoot (s : State) (cold : Bool) (f : FabricIds) : State :=
  let s := { s with units := unitsOf s.key.config, pchOff := pchOffOf s.key.config }
  let s := if cold then { s with dram := [], synd := [], scrubs := [] } else s
  let s := { s with
    pchs := State.reset.pchs, stks := State.reset.stks, frames := bootFrames s
    fab := { Fabric.none with pid := f.pid, manager := f.manager, hosts := f.hosts }
    power := { s.power with st := .ready, err := 0, again := none, selfRefresh := false } }
  noticePorts (((List.range 256).filter (pchEnabled s)).foldl (fun s n => s.count (.strandRetrain n) 1) s) .ready

/-- BOOT_COMPLETE. A reset requested meanwhile restarts the boot, which is cold if either was; CYCLE counts from it. -/
def execBootComplete (f : FabricIds) (s : State) : Host.Outcome State Fault Refusal :=
  if s.power.st ≠ .booting then .fault .notEnabled
  else
    let cold := s.power.cold || s.power.again == some true
    let s := takeStage (if s.power.again.isSome then { s with cycle := 0 } else s) cold
    let code := bootCode s cold
    if code = 0 then .next (finishBoot s cold f)
    else .next ({ s with power := { s.power with st := .booterr, err := BitVec.ofNat 8 code, again := none } }.count .bootFailures 1)

/-! ### Lifetime, current and heat (R402, R404) -/

/-- LIFETIME_SNAPSHOT. -/
def execLifetimeSnapshot (s : State) : Host.Outcome State Fault Refusal :=
  if s.power.st = .unpowered then .fault .notEnabled else .next (snapshot s)

/-- A powered block changed. -/
def onBlock (s : State) (b : Nat) (f : Block → Block) : Host.Outcome State Fault Refusal :=
  match s.power.blocks.toList[b]? with
  | some x =>
    if s.power.st = .unpowered then .fault .notEnabled
    else .next { s with power := { s.power with blocks := s.power.blocks.setIfInBounds b (f x) } }
  | none => .fault .notEnabled

def execCurrentLimitExceeded (block : Nat) (s : State) : Host.Outcome State Fault Refusal :=
  onBlock s block fun b => { b with stepped := true }
def execCurrentRecovery (block : Nat) (s : State) : Host.Outcome State Fault Refusal :=
  onBlock s block fun b => { b with stepped := false }
def execThermalThrottle (block : Nat) (s : State) : Host.Outcome State Fault Refusal :=
  onBlock s block fun b => { b with halved := true }

/-- THERMAL_TRIP: package power is cut, which is a cold reset with the trip counted. -/
def execThermalTrip (block : Nat) (s : State) : Host.Outcome State Fault Refusal :=
  if s.power.st = .unpowered ∨ 28 ≤ block then .fault .notEnabled
  else .next (((startBoot (cutPower s) true).count .resets 1).count .thermalTrips 1)

/-! ### I3C (R396) -/

/-- PSTAT.STATE by number, and PSTAT (R401). -/
def PState.code (p : PState) : Nat := match p with
  | .unpowered => 0
  | .booting => 1
  | .ready => 2
  | .booterr => 3
def pstat (s : State) : Nat := s.fab.drain.code.toNat * 2 ^ 16 + s.power.err.toNat * 2 ^ 8 + s.power.st.code

/-- A byte of a bank: SEQ, then the counts and the digest, in a layout that the spec does not give. -/
def bankByte (b : Option (W64 × List (LifeKey × Nat))) (i : Nat) : Byte :=
  match b with
  | none => 0
  | some x => if i < 8 then BitVec.ofNat 8 (x.1.toNat / 2 ^ (8 * i)) else Config.snapshotByte x.1 (lifeRecord x.2) i

/-- Byte i of IDENT: HZ-5120 in ASCII, the serial, the format. -/
def identByte (k : Keystone) (i : Nat) : Byte :=
  if i < 16 then [0x48#8, 0x5A#8, 0x2D#8, 0x35#8, 0x31#8, 0x32#8, 0x30#8].getD i 0
  else if i < 32 then k.serial.getD (i - 16) 0
  else if i = 32 then 1 else 0

/-- The byte that the keystone serves at an offset. -/
def keystoneByte (s : State) (a : Nat) : Byte :=
  if a < 0x40 then identByte s.key a
  else if a < 0x60 then s.key.idkey.getD (a - 0x40) 0
  else if a < 0x100 then 0
  else if a < 0x4100 then s.key.config.getD (a - 0x100) 0
  else if a < 0x8100 then s.key.stage.getD (a - 0x4100) 0
  else if a < 0x10100 then bankByte s.key.lifeA (a - 0x8100)
  else if a < 0x18100 then bankByte s.key.lifeB (a - 0x10100)
  else if 0x1F000 ≤ a ∧ a < 0x1F008 then BitVec.ofNat 8 (pstat s / 2 ^ (8 * (a - 0x1F000)))
  else 0

/-- I3C_READ: the bytes from the offset on. -/
def execI3cRead (count : Nat) (s : State) : Host.Outcome State Fault Refusal :=
  .next { s with key := { s.key with rd := (List.range count).map fun i => keystoneByte s (s.key.off.toNat + i) } }

/-- A byte of STAGE written. -/
def putStage (stage : List Byte) (i : Nat) (b : Byte) : List Byte := (stage ++ List.replicate (i + 1 - stage.length) 0).set i b

/-- The last private write was refused, or not. -/
def i3cAnswer (s : State) (nack : Bool) : State := { s with key := { s.key with nack := nack } }

/-- Bytes written from an offset on, up to the first that is refused with a NACK. -/
def i3cBytes (s : State) (a : Nat) : List Byte → State
  | [] => i3cAnswer s false
  | b :: t =>
    if 0x4100 ≤ a ∧ a < 0x8100 ∧ s.power.st ≠ .booting then
      i3cBytes { s with key := { s.key with stage := putStage s.key.stage (a - 0x4100) b } } (a + 1) t
    else i3cAnswer s true

/-- I3C_WRITE: sets the offset, and writes STAGE or PCMD; every other byte is refused with a NACK. -/
def execI3cWrite (offset : BitVec 24) (data : List Byte) (s : State) : Host.Outcome State Fault Refusal :=
  let s := { s with key := { s.key with off := offset } }
  if offset = 0x01F008#24 ∧ data.length = 4 then
    let v := ofLe data
    let s := i3cAnswer s false
    .next (if v = 1 then requestReset s true else if v = 2 then requestReset s false else s)
  else .next (i3cBytes s offset.toNat data)

end Sys2Proof.Machine
end

