-- ==== Sys2Proof/Machine/Fetch.lean ====
section
/-! DEFINITION. Fetching an instruction of either stream, what happens next where the schedule names nothing, and the placing of one
instruction for a step to run (spec/02_streams_and_encoding.md R23 to R28; spec/06 R126; spec/10 R235; spec/12 R267, R270; spec/13 R288;
spec/16 R338). -/

namespace Sys2Proof.Machine

/-- What a turn comes to: an instruction to execute, both streams of a group, or an outcome. -/
inductive Turn where
  | run (i : Instr) (s : State)
  | both (g : Nat) (s : State)
  | done (r : Host.Outcome State Fault Refusal)

/-- The state as time passes: CYCLE counts while the part is powered (R403). -/
def advance (s : State) : State :=
  { s with
    cycle := if s.power.st = .unpowered then s.cycle else s.cycle + BitVec.ofNat 64 (Config.elapsed s.tick)
    tick := s.tick + 1 }

/-- The instruction that a decoder reads, or the step of an unassigned word (R58). -/
def instrOf (r : Except DecErr Instr) : Instr := match r with
  | .ok i => i
  | .error _ => .unassignedInstruction

/-! ### The scalar stream -/

/-- The group may issue: it runs and is not paused (R108). -/
def Group.mayIssue (G : Group) : Bool := G.running && !G.wait.paused

/-- A cause met by a scalar fetch. -/
def fetchTrap (s : State) (g : Nat) (pc : W64) (r : Raise) : Host.Outcome State Fault Refusal :=
  let s := clearParty s (.scalar g) pc
  match s.group? g with
  | some G => .next (scalarTrap s g G r)
  | none => .fault .noGroup

/-- The scalar stream fetches at its PC. -/
def scalarFetch (s : State) (g : Nat) (G : Group) : Turn :=
  match whoScalar s g G with
  | none => .done (.fault .noGroup)
  | some w => match fetchWords s w G.sc.spc.toNat 1 with
    | (.ok ws, s) => .run (instrOf (decodeScalar (ws.headD 0))) { s with cur := g, curLane := false }
    | (.raise r, s) => .done (fetchTrap s g G.sc.spc r)
    | (.wait, s) => .done (.next s)

/-- A turn of a group's scalar stream: a QUEUE that it has been given comes first (R387). -/
def scalarTurn (s : State) (g : Nat) : Turn :=
  match s.group? g with
  | none => .done (.fault .noGroup)
  | some G =>
    if !G.mayIssue then .done (.fault .noGroup)
    else if !G.queueDue.isEmpty then .done (.next (takeQueue s g G))
    else scalarFetch s g G

/-! ### The lane stream -/

/-- The lane stream of a group may issue: a run is executing and nothing holds it (R156, R159, R162). -/
def Group.laneMayIssue (G : Group) : Bool :=
  G.mayIssue && G.lane.run.isSome && match G.lane.stall with
    | .none => true
    | .port => true
    | .rows => true
    | _ => false

/-- A lane PC has the form LBASE + 12n (R23, R338). -/
def lanePcOk (G : Group) : Bool :=
  decide (G.bind.lbase.toNat ≤ G.lane.lpc.toNat ∧ (G.lane.lpc.toNat - G.bind.lbase.toNat) % 12 = 0)

/-- A lane word of three words in memory order (R5, R23). -/
def laneWord (ws : List W32) : BitVec 96 := ws.getD 2 0 ++ ws.getD 1 0 ++ ws.getD 0 0

/-- A step of the lane stream has ended whose STEP is not raised yet: its last word stands before one that could not be fetched when it
retired, and that turns out to be no follower (R348). -/
def stepOwed (s : State) (g : Nat) (G : Group) : Bool :=
  G.dbg.stepm == 2#2 && !G.trap.hmode && G.lane.chain.isSome && peekFollower s g G.lane.lpc == some false

/-- The chain ended, with the rows that its marks release, and the STEP of its last member raised. -/
def stepLate (s : State) (g : Nat) (G : Group) : State :=
  let H := G.lane.rel.foldl Group.release G
  let H := { H with
    lane := { H.lane with chain := none, rel := [] }, trap := { H.trap with firstL := false, supplied := splat none } }
  laneStep s g H (G.lane.lpc - 12)

/-- A turn of a group's lane stream. -/
def laneTurn (s : State) (g : Nat) : Turn :=
  match s.group? g with
  | none => .done (.fault .noGroup)
  | some G =>
    if !G.laneMayIssue then .done (.fault .noGroup)
    else if !lanePcOk G then .done (trapLane s g G.lane.lpc (.plain cILL))
    else match whoLane s g G with
      | none => .done (.fault .noGroup)
      | some w => match fetchWords s w G.lane.lpc.toNat 3 with
        | (.ok ws, s) =>
          if stepOwed s g G then .done (.next (stepLate s g G))
          else .run (instrOf (decodeLane (laneWord ws))) { s with cur := g, curLane := true }
        | (.raise r, s) => .done (trapLane s g G.lane.lpc r)
        | (.wait, s) => .done (.next s)

/-! ### Reads made ahead (R126, R267, R270) -/

/-- A place from which a word can be read ahead. -/
def Loc.aheadOk (l : Loc) : Bool :=
  match l with
  | .line _ => true
  | .mem _ _ _ _ => true
  | _ => false

/-- A stream may issue younger loads: past an instruction whose fault is being served, where that instruction has its entry of the operand
log, and at most 32 (R126, R127). -/
def issuesPast (s : State) (g : Nat) (lane : Bool) : Bool :=
  let p : Party := if lane then .lane g else .scalar g
  !inService s p || ((s.oplog.any fun e => e.party == p) &&
    decide ((s.early.filter fun e => e.group == g && e.lane == lane).length < 32))

/-- A read of a place ahead of its instruction. It is not made where the read would meet anything but a value. -/
def readAheadAt (s : State) (w : Who) (lane : Bool) (word : Nat) (l : Loc) : Host.Outcome State Fault Refusal :=
  let key := l.key word
  if !issuesPast s w.group lane || !l.aheadOk || (earlyOf s w.group lane key).isSome || (postWaiting s w [(word, l)]).1 then .fault .notEnabled
  else match readWord s w word l with
    | (some x, s) => .next { s with early := s.early ++ [⟨w.group, lane, key, x⟩] }
    | (none, _) => .fault .notEnabled

/-- A stream of a group reads a word ahead: the next load of the word by that stream takes the value, unless something between them that orders
reads drops it. Past a fault that is being served this is what younger loads do (R126); what younger instructions take beside that, issueAhead
says. -/
def readAhead (g : Nat) (lane : Bool) (va : Nat) (s : State) : Host.Outcome State Fault Refusal :=
  match s.group? g with
  | none => .fault .noGroup
  | some G =>
    if !G.running || va % 4 != 0 || decide (2 ^ 56 ≤ va) then .fault .notEnabled
    else match (if lane then whoLane s g G else whoScalar s g G) with
      | none => .fault .noGroup
      | some w => match locate s w va .read false with
        | (.ok l, s) => readAheadAt s w lane (va / 4) l
        | _ => .fault .notEnabled

/-- The lane stream of a group issues an instruction past one whose fault is being served and whose operands stand in the operand log: the rows
of its results, up to the eight of one instruction and 64 in all, and its entry of the store queue are taken; 96 rows of the quadrant stay
available (R120, R122, R126, R127). Nothing of it commits: it executes in its turn once the faulted instruction has committed, and is
discarded where that traps or is halted (LaneSt.letGo). -/
def issueAhead (g rows : Nat) (store : Bool) (s : State) : Host.Outcome State Fault Refusal :=
  match s.group? g with
  | none => .fault .noGroup
  | some G =>
    let L := G.lane
    let early := (s.early.filter fun e => e.group == g && e.lane).length
    if !G.running || !inService s (.lane g) || !(s.oplog.any fun e => e.party == .lane g) || decide (32 ≤ L.ahead + early) ||
        decide (8 < rows) || decide (64 < L.flight + L.aheadRows + rows) || (store && storeQueueFull s g) ||
        reserveShort s G.loc.quadId rows then .fault .notEnabled
    else match roomForAll s g 0 [] rows with
      | .ok s => .next (s.modGroup g fun G => { G with lane := { G.lane with
          ahead := G.lane.ahead + 1, aheadRows := G.lane.aheadRows + rows
          aheadStores := G.lane.aheadStores + if store then 1 else 0 } })
      | .wait _ => .fault .notEnabled

/-! ### What comes next where the schedule names nothing (R31, R265: the spec fixes no order between the streams and the part's own
steps, so that any order may be put on the agenda) -/

/-- A step of a group or of the part that may be next. -/
inductive Cand where
  | scalar (g : Nat)
  | lane (g : Nat)
  | start (g : Nat)
  | item (g : Nat)
  | resume (g : Nat)
  | perform (g : Nat)
  | copy (n : Nat)
  | clearing (n : Nat)
  | matrix (g : Nat) (tok : BitVec 8)
  | admission (m : Nat)
  | launch (n : Nat)
  | graph (n : Nat)
  | poll (n k : Nat)
  | fault (n : Nat)
  deriving DecidableEq, Repr

/-- What a group may do next. -/
def groupCands (s : State) (g : Nat) (G : Group) : List Cand :=
  (if G.mayIssue then [.scalar g] else []) ++ (if G.laneMayIssue then [.lane g] else []) ++
  (if G.running && G.lane.run.isNone && !G.lane.dq.isEmpty then [.start g] else []) ++
  (if G.running && G.lane.stall == .item then [.item g] else []) ++ (if G.wait.paused then [.resume g] else []) ++
  (if s.sq.any fun w => w.group == g then [.perform g] else []) ++
  match G.eng.mops.find? fun m => m.st == .flight with
  | some m => [.matrix g (BitVec.ofNat 8 m.num)]
  | none => []

/-- What may be next. -/
def allCands (s : State) : List Cand :=
  (s.groups.zipIdx.flatMap fun p => groupCands s p.2 p.1) ++
  (s.cmds.zipIdx.filter fun p => !p.1.ended).map (fun p => if p.1.kind.isCopy then .copy p.2 else .clearing p.2) ++
  (s.meets.zipIdx.filter fun p => p.1.admitting && !p.1.closed).map (fun p => .admission p.2) ++
  (s.launches.zipIdx.filter fun p => p.1.st == .accepted || p.1.due).flatMap (fun p =>
    .launch p.2 :: (List.range p.1.rcd.deps.length).map fun k => .poll p.2 k) ++
  (s.graphs.zipIdx.filter fun p => !p.1.ended || p.1.due).map (fun p => .graph p.2) ++
  (s.faults.zipIdx.filter fun p => !p.1.closed).map (fun p => .fault p.2)

/-- A step that is not enabled leaves the part idle. -/
def orIdle (s : State) (r : Host.Outcome State Fault Refusal) : Turn := match r with
  | .next s' => .done (.next s')
  | _ => .done (.next s)

/-- The turn of a candidate. -/
def candTurn (s : State) (c : Cand) : Turn :=
  match c with
  | .scalar g => scalarTurn s g
  | .lane g => laneTurn s g
  | .start g => orIdle s (execRunStart g s)
  | .item g => orIdle s (execItemRetry g s)
  | .resume g => orIdle s (execYieldResume g s)
  | .perform g => orIdle s (execAccessPerformed g 0 s)
  | .copy n => orIdle s (execCopyComplete n s)
  | .clearing n => orIdle s (execClearingComplete n [] s)
  | .matrix g t => orIdle s (match execMatrixOpComplete g t s with
    | .next s' => .next s'
    | _ => execHadComplete g t s)
  | .admission m => orIdle s (execBrcAdmissionClose m s)
  | .launch n => orIdle s (execLaunchComplete n s)
  | .graph n => orIdle s (execGraphComplete n s)
  | .poll n k => orIdle s (execDependencePoll n k s)
  | .fault n => orIdle s (execFaultDeliver n false s)

/-- The identities of the fabric where the schedule gives none: part 0, manager 1,024, host node 1,025 (R376). -/
def defaultIds : FabricIds := ⟨0, 1024, [1025]⟩

/-- The next turn where the schedule names nothing: the part powers up and boots, then its candidates take turns. -/
def defaultTurn (s : State) : Turn :=
  match s.power.st with
  | .unpowered => orIdle s (execPowerOn s)
  | .booting => orIdle s (execBootComplete defaultIds s)
  | _ =>
    let cs := allCands s
    match cs[s.tick % max 1 cs.length]? with
    | some c => candTurn s c
    | none => .done (.next s)

/-- The next turn: the head of the schedule, or the default. -/
def nextTurn (s : State) : Turn :=
  match s.agenda with
  | [] => defaultTurn (advance s)
  | a :: t =>
    let s := advance { s with agenda := t }
    match a with
    | .scalar g => scalarTurn s g
    | .lane g => laneTurn s g
    | .both g => .both g s
    | .event i => .run i s
    | .issueAhead g rows store => .done (issueAhead g rows store s)
    | .readAhead g lane va => .done (readAhead g lane va.toNat s)
    | .advance n k j => .done (advanceCmd n k j s)

/-! ### One instruction placed for the next step -/

/-- Where a placed instruction lies: its virtual page, its frame, and the spill area of its group. -/
def placeVa : Nat := 0x10000
def placePa : Nat := 0x20000
def placeArea : W64 := 0x1000000

/-- The context of a placed instruction. -/
def placeCtx : Context :=
  { live := true, no := 0, asid := 0, priv := true, tenant := 0, root := 0, regions := 0x4000, calla := 0x2000000, callFrames := []
    spillBase := placeArea, spillCount := 1, xlctl := 0x10, deltaBase := 0, deltaLogn := 6, hbase := 0, hbaseEn := false
    calls := [], callSeq := 0, reserves := Vector.replicate 8 ⟨[], []⟩, creator := 1025, launchSeq := 1, queues := []
    frozen := [], comms := [], peers := [], split := Vector.replicate 8 none }

/-- The launch of a placed instruction. -/
def placeLaunch : LaunchRec :=
  { prio := 0, disc := false, openq := false, cbh := 0, teams := 1, cores := 1, cgroups := 1, pgroups := 0, cregs := 128
    pregs := 0, banks := 8, items := 0, sbase := BitVec.ofNat 64 placeVa, lbase := BitVec.ofNat 64 placeVa, dbase := 0, centry := 0
    pentry := 0, donea := 0, donev := 0, deps := [] }

/-- The translation of the page of a placed instruction. -/
def placeTlb : TlbEntry := ⟨0, placeVa / 65536, false, BitVec.ofNat 64 (placePa + 0x1F)⟩

/-- The bind record of the group that runs a placed instruction. -/
def placeBind (ctx launch team : Nat) : BindRec :=
  ⟨ctx, launch, team, 0, false, 0, 128, 0xFF#32, BitVec.ofNat 64 placeVa, BitVec.ofNat 64 placeVa, 0, placeArea⟩

/-- The group that runs a placed instruction: on its scalar stream, or in a run of its lane stream. -/
def placeGroup (ctx launch team : Nat) (lane : Bool) : Group :=
  let G := Group.start (placeBind ctx launch team) ⟨0, 0, 0, 0, 0⟩
  if lane then { G with lane := { G.lane with run := some ⟨BitVec.ofNat 64 placeVa, 0, Vector.replicate 4 0⟩ } } else G

/-- The team of a placed instruction. -/
def placeTeam (ctx launch group : Nat) : Team :=
  { ctx := ctx, launch := launch, no := 0, cores := [(0, 0xFF#32)], groups := [group], atCommit := 1, live := 32
    barriers := Vector.replicate 16 Barrier.start, queues := [], ended := false, saved := [] }

/-- An instruction of n bytes placed in a frame, with a group that runs it in the next step. -/
def placeInstr (s : State) (lane : Bool) (n w : Nat) : State :=
  let ctx := s.contexts.length
  let launch := s.launches.length
  let team := s.teams.length
  let g := s.groups.length
  { s with
    dram := memSetBytes s.dram placePa (leBytes n w)
    synd := (List.range 3).foldl (fun m k => memSet m (placePa / 4 + k) 0#8) s.synd
    contexts := s.contexts ++ [placeCtx]
    launches := s.launches ++ [⟨ctx, 0, 0, placeLaunch, [], [], none, 1, 0, s.cycle, .accepted, false⟩]
    teams := s.teams ++ [placeTeam ctx launch g]
    groups := s.groups ++ [placeGroup ctx launch team lane]
    tlb := placeTlb :: s.tlb
    lines := s.lines.filter fun l => !decide (lineKey 0 (placeVa / 4) ≤ l.key ∧ l.key < lineKey 0 (placeVa / 4) + 3)
    agenda := [if lane then .lane g else .scalar g] }

end Sys2Proof.Machine
end

