-- ==== Sys2Proof/Machine/Dispatch.lean ====
section
/-! DEFINITION. Which meaning each instruction and step has: one arm a constructor of Instr. -/

namespace Sys2Proof.Machine

/-- The meaning of an instruction or step (spec/opcode_table.json). -/
def exec (i : Instr) (s : State) : Host.Outcome State Fault Refusal :=
  match i with
  | .add d a b => Sys2Proof.Machine.execAdd d a b s
  | .sub d a b => Sys2Proof.Machine.execSub d a b s
  | .mul d a b => Sys2Proof.Machine.execMul d a b s
  | .mulh d a b => Sys2Proof.Machine.execMulh d a b s
  | .mulhn d a b => Sys2Proof.Machine.execMulhn d a b s
  | .div d a b => Sys2Proof.Machine.execDiv d a b s
  | .divn d a b => Sys2Proof.Machine.execDivn d a b s
  | .rem d a b => Sys2Proof.Machine.execRem d a b s
  | .remn d a b => Sys2Proof.Machine.execRemn d a b s
  | .and d a b => Sys2Proof.Machine.execAnd d a b s
  | .or d a b => Sys2Proof.Machine.execOr d a b s
  | .xor d a b => Sys2Proof.Machine.execXor d a b s
  | .shl d a b => Sys2Proof.Machine.execShl d a b s
  | .shr d a b => Sys2Proof.Machine.execShr d a b s
  | .sra d a b => Sys2Proof.Machine.execSra d a b s
  | .min d a b => Sys2Proof.Machine.execMin d a b s
  | .max d a b => Sys2Proof.Machine.execMax d a b s
  | .minn d a b => Sys2Proof.Machine.execMinn d a b s
  | .maxn d a b => Sys2Proof.Machine.execMaxn d a b s
  | .slt d a b => Sys2Proof.Machine.execSlt d a b s
  | .sltn d a b => Sys2Proof.Machine.execSltn d a b s
  | .clz d a => Sys2Proof.Machine.execClz d a s
  | .popc d a => Sys2Proof.Machine.execPopc d a s
  | .sel d a b => Sys2Proof.Machine.execSel d a b s
  | .addi d a imm => Sys2Proof.Machine.execAddi d a imm s
  | .andi d a imm => Sys2Proof.Machine.execAndi d a imm s
  | .slti d a imm => Sys2Proof.Machine.execSlti d a imm s
  | .ori d a imm => Sys2Proof.Machine.execOri d a imm s
  | .xori d a imm => Sys2Proof.Machine.execXori d a imm s
  | .shli d a n => Sys2Proof.Machine.execShli d a n s
  | .shri d a n => Sys2Proof.Machine.execShri d a n s
  | .srai d a n => Sys2Proof.Machine.execSrai d a n s
  | .sethi d imm => Sys2Proof.Machine.execSethi d imm s
  | .lds d a off => Sys2Proof.Machine.execLds d a off s
  | .lds32 d a off => Sys2Proof.Machine.execLds32 d a off s
  | .sts x a off => Sys2Proof.Machine.execSts x a off s
  | .sts32 x a off => Sys2Proof.Machine.execSts32 x a off s
  | .amosAdd d a b sc => Sys2Proof.Machine.execAmosAdd d a b sc s
  | .amosMin d a b sc => Sys2Proof.Machine.execAmosMin d a b sc s
  | .amosMax d a b sc => Sys2Proof.Machine.execAmosMax d a b sc s
  | .amosMinn d a b sc => Sys2Proof.Machine.execAmosMinn d a b sc s
  | .amosMaxn d a b sc => Sys2Proof.Machine.execAmosMaxn d a b sc s
  | .amosAnd d a b sc => Sys2Proof.Machine.execAmosAnd d a b sc s
  | .amosOr d a b sc => Sys2Proof.Machine.execAmosOr d a b sc s
  | .amosXor d a b sc => Sys2Proof.Machine.execAmosXor d a b sc s
  | .amosSwap d a b sc => Sys2Proof.Machine.execAmosSwap d a b sc s
  | .amosCas d a b sc => Sys2Proof.Machine.execAmosCas d a b sc s
  | .b off => Sys2Proof.Machine.execB off s
  | .beq a b off => Sys2Proof.Machine.execBeq a b off s
  | .bne a b off => Sys2Proof.Machine.execBne a b off s
  | .blt a b off => Sys2Proof.Machine.execBlt a b off s
  | .bge a b off => Sys2Proof.Machine.execBge a b off s
  | .bltn a b off => Sys2Proof.Machine.execBltn a b off s
  | .bgen a b off => Sys2Proof.Machine.execBgen a b off s
  | .call l off => Sys2Proof.Machine.execCall l off s
  | .jr d a => Sys2Proof.Machine.execJr d a s
  | .ret a => Sys2Proof.Machine.execRet a s
  | .run b off => Sys2Proof.Machine.execRun b off s
  | .syncq => Sys2Proof.Machine.execSyncq s
  | .takev d => Sys2Proof.Machine.execTakev d s
  | .cpyLd p r b => Sys2Proof.Machine.execCpyLd p r b s
  | .cpySt p r b => Sys2Proof.Machine.execCpySt p r b s
  | .closeb d => Sys2Proof.Machine.execCloseb d s
  | .waitb a => Sys2Proof.Machine.execWaitb a s
  | .rcfence a => Sys2Proof.Machine.execRcfence a s
  | .rcfenceAll => Sys2Proof.Machine.execRcfenceAll s
  | .gath p r b => Sys2Proof.Machine.execGath p r b s
  | .scat p r b => Sys2Proof.Machine.execScat p r b s
  | .scatAddI32 p r b => Sys2Proof.Machine.execScatAddI32 p r b s
  | .scatAddF32 p r b => Sys2Proof.Machine.execScatAddF32 p r b s
  | .walkCoo d r b => Sys2Proof.Machine.execWalkCoo d r b s
  | .walkCsr d r b => Sys2Proof.Machine.execWalkCsr d r b s
  | .mmq d a b ty ck sz hf => Sys2Proof.Machine.execMmq d a b ty ck sz hf s
  | .mmqQuad d a b ty ck sz hf => Sys2Proof.Machine.execMmqQuad d a b ty ck sz hf s
  | .orf => Sys2Proof.Machine.execOrf s
  | .mwait d a => Sys2Proof.Machine.execMwait d a s
  | .accst c r b conv m => Sys2Proof.Machine.execAccst c r b conv m s
  | .had d a b ty => Sys2Proof.Machine.execHad d a b ty s
  | .collAllreduce d a b op swa => Sys2Proof.Machine.execCollAllreduce d a b op swa s
  | .collReduceScatter d a b op swa => Sys2Proof.Machine.execCollReduceScatter d a b op swa s
  | .collAllgather d a b => Sys2Proof.Machine.execCollAllgather d a b s
  | .collBroadcast d a b => Sys2Proof.Machine.execCollBroadcast d a b s
  | .waitc d a => Sys2Proof.Machine.execWaitc d a s
  | .erase d a => Sys2Proof.Machine.execErase d a s
  | .xprobe d a => Sys2Proof.Machine.execXprobe d a s
  | .give d a b => Sys2Proof.Machine.execGive d a b s
  | .take d a => Sys2Proof.Machine.execTake d a s
  | .deedq d a => Sys2Proof.Machine.execDeedq d a s
  | .fenceAcq sc => Sys2Proof.Machine.execFenceAcq sc s
  | .fenceRel sc => Sys2Proof.Machine.execFenceRel sc s
  | .fenceAcqrel sc => Sys2Proof.Machine.execFenceAcqrel sc s
  | .fenceSc sc => Sys2Proof.Machine.execFenceSc sc s
  | .bar a b => Sys2Proof.Machine.execBar a b s
  | .arrive d a b => Sys2Proof.Machine.execArrive d a b s
  | .waitbar a b => Sys2Proof.Machine.execWaitbar a b s
  | .launch d a => Sys2Proof.Machine.execLaunch d a s
  | .launchGraph d a => Sys2Proof.Machine.execLaunchGraph d a s
  | .itemqPut d a b => Sys2Proof.Machine.execItemqPut d a b s
  | .itemqCount d => Sys2Proof.Machine.execItemqCount d s
  | .itemqClose => Sys2Proof.Machine.execItemqClose s
  | .yield => Sys2Proof.Machine.execYield s
  | .exit => Sys2Proof.Machine.execExit s
  | .getc d sel => Sys2Proof.Machine.execGetc d sel s
  | .getcFpstat d => Sys2Proof.Machine.execGetcFpstat d s
  | .getcXpool d => Sys2Proof.Machine.execGetcXpool d s
  | .setc a sel => Sys2Proof.Machine.execSetc a sel s
  | .setcFpctl a => Sys2Proof.Machine.execSetcFpctl a s
  | .setcFpstat a => Sys2Proof.Machine.execSetcFpstat a s
  | .setcXlctl a => Sys2Proof.Machine.execSetcXlctl a s
  | .setcDelta a => Sys2Proof.Machine.execSetcDelta a s
  | .setcVacate a => Sys2Proof.Machine.execSetcVacate a s
  | .setcCause a => Sys2Proof.Machine.execSetcCause a s
  | .setcHbase a => Sys2Proof.Machine.execSetcHbase a s
  | .setcStepm a => Sys2Proof.Machine.execSetcStepm a s
  | .setcWaddr a => Sys2Proof.Machine.execSetcWaddr a s
  | .setcWctl a => Sys2Proof.Machine.execSetcWctl a s
  | .setcScout a => Sys2Proof.Machine.execSetcScout a s
  | .setcEpcl a => Sys2Proof.Machine.execSetcEpcl a s
  | .trap code => Sys2Proof.Machine.execTrap code s
  | .sret => Sys2Proof.Machine.execSret s
  | .brk code => Sys2Proof.Machine.execBrk code s
  | .injectReg d a b => Sys2Proof.Machine.execInjectReg d a b s
  | .injectMem d a b => Sys2Proof.Machine.execInjectMem d a b s
  | .injectTrip d a b => Sys2Proof.Machine.execInjectTrip d a b s
  | .halt => Sys2Proof.Machine.execHalt s
  | .iadd f => Sys2Proof.Machine.execIadd f s
  | .iaddImm f => Sys2Proof.Machine.execIaddImm f s
  | .isub f => Sys2Proof.Machine.execIsub f s
  | .isubImm f => Sys2Proof.Machine.execIsubImm f s
  | .imul f => Sys2Proof.Machine.execImul f s
  | .imulImm f => Sys2Proof.Machine.execImulImm f s
  | .imulh f => Sys2Proof.Machine.execImulh f s
  | .imulhImm f => Sys2Proof.Machine.execImulhImm f s
  | .imad f => Sys2Proof.Machine.execImad f s
  | .imadImm f => Sys2Proof.Machine.execImadImm f s
  | .imin f => Sys2Proof.Machine.execImin f s
  | .iminImm f => Sys2Proof.Machine.execIminImm f s
  | .imax f => Sys2Proof.Machine.execImax f s
  | .imaxImm f => Sys2Proof.Machine.execImaxImm f s
  | .laneAnd f => Sys2Proof.Machine.execLaneAnd f s
  | .laneAndImm f => Sys2Proof.Machine.execLaneAndImm f s
  | .laneOr f => Sys2Proof.Machine.execLaneOr f s
  | .laneOrImm f => Sys2Proof.Machine.execLaneOrImm f s
  | .laneXor f => Sys2Proof.Machine.execLaneXor f s
  | .laneXorImm f => Sys2Proof.Machine.execLaneXorImm f s
  | .laneShl f => Sys2Proof.Machine.execLaneShl f s
  | .laneShlImm f => Sys2Proof.Machine.execLaneShlImm f s
  | .laneShr f => Sys2Proof.Machine.execLaneShr f s
  | .laneShrImm f => Sys2Proof.Machine.execLaneShrImm f s
  | .laneSra f => Sys2Proof.Machine.execLaneSra f s
  | .laneSraImm f => Sys2Proof.Machine.execLaneSraImm f s
  | .laneClz f => Sys2Proof.Machine.execLaneClz f s
  | .lanePopc f => Sys2Proof.Machine.execLanePopc f s
  | .brev f => Sys2Proof.Machine.execBrev f s
  | .bfe f => Sys2Proof.Machine.execBfe f s
  | .bfeImm f => Sys2Proof.Machine.execBfeImm f s
  | .bfi f => Sys2Proof.Machine.execBfi f s
  | .bfiImm f => Sys2Proof.Machine.execBfiImm f s
  | .bswz f => Sys2Proof.Machine.execBswz f s
  | .bswzImm f => Sys2Proof.Machine.execBswzImm f s
  | .icmp f => Sys2Proof.Machine.execIcmp f s
  | .icmpImm f => Sys2Proof.Machine.execIcmpImm f s
  | .laneSel f => Sys2Proof.Machine.execLaneSel f s
  | .laneSelImm f => Sys2Proof.Machine.execLaneSelImm f s
  | .mov f => Sys2Proof.Machine.execMov f s
  | .movi f => Sys2Proof.Machine.execMovi f s
  | .fadd f => Sys2Proof.Machine.execFadd f s
  | .faddImm f => Sys2Proof.Machine.execFaddImm f s
  | .fsub f => Sys2Proof.Machine.execFsub f s
  | .fsubImm f => Sys2Proof.Machine.execFsubImm f s
  | .fmul f => Sys2Proof.Machine.execFmul f s
  | .fmulImm f => Sys2Proof.Machine.execFmulImm f s
  | .ffma f => Sys2Proof.Machine.execFfma f s
  | .ffmaImm f => Sys2Proof.Machine.execFfmaImm f s
  | .fmin f => Sys2Proof.Machine.execFmin f s
  | .fminImm f => Sys2Proof.Machine.execFminImm f s
  | .fmax f => Sys2Proof.Machine.execFmax f s
  | .fmaxImm f => Sys2Proof.Machine.execFmaxImm f s
  | .fcmp f => Sys2Proof.Machine.execFcmp f s
  | .fcmpImm f => Sys2Proof.Machine.execFcmpImm f s
  | .frcp f => Sys2Proof.Machine.execFrcp f s
  | .frsq f => Sys2Proof.Machine.execFrsq f s
  | .fsqrt f => Sys2Proof.Machine.execFsqrt f s
  | .fexp2 f => Sys2Proof.Machine.execFexp2 f s
  | .flog2 f => Sys2Proof.Machine.execFlog2 f s
  | .fsin f => Sys2Proof.Machine.execFsin f s
  | .fcos f => Sys2Proof.Machine.execFcos f s
  | .frnd f => Sys2Proof.Machine.execFrnd f s
  | .fclass f => Sys2Proof.Machine.execFclass f s
  | .cvt f => Sys2Proof.Machine.execCvt f s
  | .cvtq f => Sys2Proof.Machine.execCvtq f s
  | .pack f => Sys2Proof.Machine.execPack f s
  | .unpack f => Sys2Proof.Machine.execUnpack f s
  | .kand f => Sys2Proof.Machine.execKand f s
  | .kor f => Sys2Proof.Machine.execKor f s
  | .kxor f => Sys2Proof.Machine.execKxor f s
  | .knot f => Sys2Proof.Machine.execKnot f s
  | .movem f => Sys2Proof.Machine.execMovem f s
  | .popk f => Sys2Proof.Machine.execPopk f s
  | .ffsk f => Sys2Proof.Machine.execFfsk f s
  | .brl f => Sys2Proof.Machine.execBrl f s
  | .brc f => Sys2Proof.Machine.execBrc f s
  | .join => Sys2Proof.Machine.execJoin s
  | .stop => Sys2Proof.Machine.execStop s
  | .item f => Sys2Proof.Machine.execItem f s
  | .voteBallot f => Sys2Proof.Machine.execVoteBallot f s
  | .voteAny f => Sys2Proof.Machine.execVoteAny f s
  | .voteAll f => Sys2Proof.Machine.execVoteAll f s
  | .elect f => Sys2Proof.Machine.execElect f s
  | .ldw f => Sys2Proof.Machine.execLdw f s
  | .ldwImm f => Sys2Proof.Machine.execLdwImm f s
  | .ldh f => Sys2Proof.Machine.execLdh f s
  | .ldhImm f => Sys2Proof.Machine.execLdhImm f s
  | .ldb f => Sys2Proof.Machine.execLdb f s
  | .ldbImm f => Sys2Proof.Machine.execLdbImm f s
  | .ldd f => Sys2Proof.Machine.execLdd f s
  | .lddImm f => Sys2Proof.Machine.execLddImm f s
  | .stw f => Sys2Proof.Machine.execStw f s
  | .sth f => Sys2Proof.Machine.execSth f s
  | .stb f => Sys2Proof.Machine.execStb f s
  | .std f => Sys2Proof.Machine.execStd f s
  | .ldx f => Sys2Proof.Machine.execLdx f s
  | .ldxImm f => Sys2Proof.Machine.execLdxImm f s
  | .ldp f => Sys2Proof.Machine.execLdp f s
  | .ldpImm f => Sys2Proof.Machine.execLdpImm f s
  | .stp f => Sys2Proof.Machine.execStp f s
  | .pref f => Sys2Proof.Machine.execPref f s
  | .prefImm f => Sys2Proof.Machine.execPrefImm f s
  | .atomAdd f => Sys2Proof.Machine.execAtomAdd f s
  | .atomMin f => Sys2Proof.Machine.execAtomMin f s
  | .atomMax f => Sys2Proof.Machine.execAtomMax f s
  | .atomAnd f => Sys2Proof.Machine.execAtomAnd f s
  | .atomOr f => Sys2Proof.Machine.execAtomOr f s
  | .atomXor f => Sys2Proof.Machine.execAtomXor f s
  | .atomSwap f => Sys2Proof.Machine.execAtomSwap f s
  | .atomCas f => Sys2Proof.Machine.execAtomCas f s
  | .eopAdd f => Sys2Proof.Machine.execEopAdd f s
  | .eopMin f => Sys2Proof.Machine.execEopMin f s
  | .eopMax f => Sys2Proof.Machine.execEopMax f s
  | .eopAnd f => Sys2Proof.Machine.execEopAnd f s
  | .eopOr f => Sys2Proof.Machine.execEopOr f s
  | .eopXor f => Sys2Proof.Machine.execEopXor f s
  | .isect f => Sys2Proof.Machine.execIsect f s
  | .scankIncl f => Sys2Proof.Machine.execScankIncl f s
  | .scankExcl f => Sys2Proof.Machine.execScankExcl f s
  | .segredAdd f => Sys2Proof.Machine.execSegredAdd f s
  | .segredMin f => Sys2Proof.Machine.execSegredMin f s
  | .segredMax f => Sys2Proof.Machine.execSegredMax f s
  | .segredAnd f => Sys2Proof.Machine.execSegredAnd f s
  | .segredOr f => Sys2Proof.Machine.execSegredOr f s
  | .segredXor f => Sys2Proof.Machine.execSegredXor f s
  | .callv f => Sys2Proof.Machine.execCallv f s
  | .replaceSupply f => Sys2Proof.Machine.execReplaceSupply f s
  | .replaceStore f => Sys2Proof.Machine.execReplaceStore f s
  | .runStart g => Sys2Proof.Machine.execRunStart g s
  | .itemRetry g => Sys2Proof.Machine.execItemRetry g s
  | .yieldResume g => Sys2Proof.Machine.execYieldResume g s
  | .brcAdmissionClose m => Sys2Proof.Machine.execBrcAdmissionClose m s
  | .queueCause g => Sys2Proof.Machine.execQueueCause g s
  | .copyComplete n => Sys2Proof.Machine.execCopyComplete n s
  | .clearingComplete n done => Sys2Proof.Machine.execClearingComplete n done s
  | .matrixOpComplete g token => Sys2Proof.Machine.execMatrixOpComplete g token s
  | .hadComplete g token => Sys2Proof.Machine.execHadComplete g token s
  | .collectiveComplete g num end_ => Sys2Proof.Machine.execCollectiveComplete g num end_ s
  | .recordCacheDrop cluster asid addr => Sys2Proof.Machine.execRecordCacheDrop cluster asid addr s
  | .teamCommit launch team p => Sys2Proof.Machine.execTeamCommit launch team p s
  | .launchComplete launch => Sys2Proof.Machine.execLaunchComplete launch s
  | .graphComplete inst => Sys2Proof.Machine.execGraphComplete inst s
  | .dependencePoll launch dep => Sys2Proof.Machine.execDependencePoll launch dep s
  | .dependenceWriteReport launch dep => Sys2Proof.Machine.execDependenceWriteReport launch dep s
  | .launchQueueWatch ctx q => Sys2Proof.Machine.execLaunchQueueWatch ctx q s
  | .translationMiss asid va k => Sys2Proof.Machine.execTranslationMiss asid va k s
  | .faultResolve n leaf => Sys2Proof.Machine.execFaultResolve n leaf s
  | .faultDeliver n frame => Sys2Proof.Machine.execFaultDeliver n frame s
  | .faultHostTimeout n => Sys2Proof.Machine.execFaultHostTimeout n s
  | .pageMigrate ctx va frame => Sys2Proof.Machine.execPageMigrate ctx va frame s
  | .cacheEvict core tag block => Sys2Proof.Machine.execCacheEvict core tag block s
  | .pchBurst pch isWrite pat => Sys2Proof.Machine.execPchBurst pch isWrite pat s
  | .scrubWrite pch => Sys2Proof.Machine.execScrubWrite pch s
  | .refreshDue stack die => Sys2Proof.Machine.execRefreshDue stack die s
  | .refreshAhead stack die => Sys2Proof.Machine.execRefreshAhead stack die s
  | .cbEvaluate stack below10 => Sys2Proof.Machine.execCbEvaluate stack below10 s
  | .pcctlWrite addr v => Sys2Proof.Machine.execPcctlWrite addr v s
  | .strandDrainEnd pch => Sys2Proof.Machine.execStrandDrainEnd pch s
  | .rdstrDeferred pch => Sys2Proof.Machine.execRdstrDeferred pch s
  | .sliceEnd tenant => Sys2Proof.Machine.execSliceEnd tenant s
  | .preemption tenant => Sys2Proof.Machine.execPreemption tenant s
  | .waysDrainEnd tenant => Sys2Proof.Machine.execWaysDrainEnd tenant s
  | .vacateRequest tenant r => Sys2Proof.Machine.execVacateRequest tenant r s
  | .vacateConvert tenant q => Sys2Proof.Machine.execVacateConvert tenant q s
  | .vacateRunTimeout tenant q => Sys2Proof.Machine.execVacateRunTimeout tenant q s
  | .checkpointCommit tenant q => Sys2Proof.Machine.execCheckpointCommit tenant q s
  | .checkpointAck tenant q => Sys2Proof.Machine.execCheckpointAck tenant q s
  | .tenantVacant tenant => Sys2Proof.Machine.execTenantVacant tenant s
  | .launchPacket h words => Sys2Proof.Machine.execLaunchPacket h words s
  | .launchg h addr => Sys2Proof.Machine.execLaunchg h addr s
  | .read h addr count => Sys2Proof.Machine.execRead h addr count s
  | .write h addr count en data => Sys2Proof.Machine.execWrite h addr count en data s
  | .atomic h addr op operand compare => Sys2Proof.Machine.execAtomic h addr op operand compare s
  | .qreg h base size => Sys2Proof.Machine.execQreg h base size s
  | .comm h c => Sys2Proof.Machine.execComm h c s
  | .tenant h tid r => Sys2Proof.Machine.execTenant h tid r s
  | .vacatePacket h tenant r => Sys2Proof.Machine.execVacatePacket h tenant r s
  | .faultr h n ans => Sys2Proof.Machine.execFaultr h n ans s
  | .callr h n seq reps => Sys2Proof.Machine.execCallr h n seq reps s
  | .drainStart h => Sys2Proof.Machine.execDrainStart h s
  | .drainCancel h => Sys2Proof.Machine.execDrainCancel h s
  | .peermap h p => Sys2Proof.Machine.execPeermap h p s
  | .contextCreate h c => Sys2Proof.Machine.execContextCreate h c s
  | .contextDestroy h => Sys2Proof.Machine.execContextDestroy h s
  | .contextSetFlags h priv => Sys2Proof.Machine.execContextSetFlags h priv s
  | .contextChangePte h level va entry => Sys2Proof.Machine.execContextChangePte h level va entry s
  | .contextSetRegion h index d => Sys2Proof.Machine.execContextSetRegion h index d s
  | .unassignedRequest h kind => Sys2Proof.Machine.execUnassignedRequest h kind s
  | .reply h kind p => Sys2Proof.Machine.execReply h kind p s
  | .noticeAck h => Sys2Proof.Machine.execNoticeAck h s
  | .noticeResend n => Sys2Proof.Machine.execNoticeResend n s
  | .colld h c => Sys2Proof.Machine.execColld h c s
  | .colldAck h => Sys2Proof.Machine.execColldAck h s
  | .colldResend n => Sys2Proof.Machine.execColldResend n s
  | .packetCrcFail port h kind => Sys2Proof.Machine.execPacketCrcFail port h kind s
  | .peerTimeout n => Sys2Proof.Machine.execPeerTimeout n s
  | .callServiceSplit ctx n => Sys2Proof.Machine.execCallServiceSplit ctx n s
  | .callServiceRefill ctx n frames => Sys2Proof.Machine.execCallServiceRefill ctx n frames s
  | .callTimeout ctx n => Sys2Proof.Machine.execCallTimeout ctx n s
  | .quiesceComplete => Sys2Proof.Machine.execQuiesceComplete s
  | .quiesceTimeout n => Sys2Proof.Machine.execQuiesceTimeout n s
  | .withdrawRetry => Sys2Proof.Machine.execWithdrawRetry s
  | .withdrawConfirm plane => Sys2Proof.Machine.execWithdrawConfirm plane s
  | .i3cRead count => Sys2Proof.Machine.execI3cRead count s
  | .i3cWrite offset data => Sys2Proof.Machine.execI3cWrite offset data s
  | .pcmdColdReset => Sys2Proof.Machine.execPcmdColdReset s
  | .pcmdWarmReset => Sys2Proof.Machine.execPcmdWarmReset s
  | .watchdogExpire => Sys2Proof.Machine.execWatchdogExpire s
  | .powerOn => Sys2Proof.Machine.execPowerOn s
  | .bootComplete f => Sys2Proof.Machine.execBootComplete f s
  | .currentLimitExceeded block => Sys2Proof.Machine.execCurrentLimitExceeded block s
  | .currentRecovery block => Sys2Proof.Machine.execCurrentRecovery block s
  | .thermalThrottle block => Sys2Proof.Machine.execThermalThrottle block s
  | .thermalTrip block => Sys2Proof.Machine.execThermalTrip block s
  | .lifetimeSnapshot => Sys2Proof.Machine.execLifetimeSnapshot s
  | .unassignedInstruction => Sys2Proof.Machine.execUnassignedInstruction s
  | .groupResume g hbase => Sys2Proof.Machine.execGroupResume g hbase s
  | .softError t => Sys2Proof.Machine.execSoftError t s
  | .powerFail => Sys2Proof.Machine.execPowerFail s
  | .refreshEnd stack die => Sys2Proof.Machine.execRefreshEnd stack die s
  | .accessPerformed g n => Sys2Proof.Machine.execAccessPerformed g n s
  | .flitRetry port lane => Sys2Proof.Machine.execFlitRetry port lane s
  | .viaductLaneRetrain lane => Sys2Proof.Machine.execViaductLaneRetrain lane s
  | .strandRetrain pch => Sys2Proof.Machine.execStrandRetrain pch s
  | .routesRestored => Sys2Proof.Machine.execRoutesRestored s
  | .linksRetrained => Sys2Proof.Machine.execLinksRetrained s
  | .checkpointSection src x => Sys2Proof.Machine.execCheckpointSection src x s
  | .preCopyRound ctx => Sys2Proof.Machine.execPreCopyRound ctx s

end Sys2Proof.Machine
end

