-- ==== Sys2Proof/Machine/Turns.lean ====
section
/-! DEFINITION. A turn executed, and both streams of a group in one cycle (spec/16_traps_and_calls.md R330). -/

namespace Sys2Proof.Machine

/-- A turn of one stream executed. -/
def runTurn (t : Turn) : Host.Outcome State Fault Refusal :=
  match t with
  | .run i s => exec i s
  | .both _ s => .next s
  | .done r => r

/-- The cause that a group has just taken outside handler mode: it has entered its handler, or halted in place. -/
def tookCause (before after : Group) : Bool :=
  !before.trap.hmode && before.status == .running && (after.trap.hmode || match after.status with
    | .trapped _ => true
    | _ => false)

/-- A step has made a group take a cause. -/
def causeTaken (s t : State) (g : Nat) : Bool := match s.group? g, t.group? g with
  | some G, some H => tookCause G H
  | _, _ => false

/-- A group H that its lane stream's cause has just taken to its handler, or halted, as it was before that: its instruction done where it
retired (STEP), the cause's bit and record kept. G is the group before the lane stream's turn. -/
def outOfEntry (G H : Group) : Group :=
  let H := { H with status := .running }
  match H.trap.aside with
  | none => H
  | some a => { H with
      sc := { H.sc with spc := G.sc.spc }
      lane := { H.lane with
        run := a.run, em := a.em, dq := a.dq, vp := a.vp, stall := a.stall
        chain := if a.headPc = H.lane.lpc then none else some ⟨a.headPc, 1⟩ }
      trap := { H.trap with
        cur := G.trap.cur, hmode := false, epcs := G.trap.epcs, epcl := G.trap.epcl, epclSet := G.trap.epclSet, aside := none
        firstS := G.trap.firstS, firstL := G.trap.firstL }
      wait := { H.wait with barTok := a.barTok, call := a.call } }

/-- The state after the lane stream's cause with that cause's bit and record set and its entry not yet made: the scalar stream's own cause, if
it raises one in the same cycle, is raised beside it. -/
def besideLane (s t : State) (g : Nat) : State := match s.group? g, t.group? g with
  | some G, some H => t.setGroup g (outOfEntry G H)
  | _, _ => s

/-- A group that halted in place with several causes reports the lowest. -/
def reportLowest (s : State) (g : Nat) : State := s.modGroup g fun G => match G.status with
  | .trapped _ => { G with status := .trapped (lowestCause G.trap.cause) }
  | _ => G

/-- The scalar stream of a group, then its lane stream, where it may issue. -/
def inTurn (s : State) (g : Nat) : Host.Outcome State Fault Refusal :=
  match runTurn (scalarTurn s g) with
  | .next t => match runTurn (laneTurn t g) with
    | .next u => .next u
    | _ => .next t
  | r => r

/-- Both streams of a group in one cycle: where both raise a cause, both bits are set, both records are written, and the lower-numbered one is
handled first (R330); otherwise one stream acts after the other. -/
def bothStreams (g : Nat) (s : State) : Host.Outcome State Fault Refusal :=
  match runTurn (laneTurn s g) with
  | .next t =>
    if causeTaken s t g then match runTurn (scalarTurn (besideLane s t g) g) with
      | .next u => if causeTaken s u g then .next (reportLowest u g) else inTurn s g
      | _ => inTurn s g
    else inTurn s g
  | _ => inTurn s g

end Sys2Proof.Machine
end

