-- ==== Sys2Proof/Machine/Step.lean ====
section
/-! DEFINITION. One step of the part: the next turn of the schedule, executed. -/

namespace Sys2Proof.Machine

/-- One step. -/
def step (s : State) : Host.Outcome State Fault Refusal :=
  match nextTurn s with
  | .run i s => exec i s
  | .both g s => bothStreams g s
  | .done r => r

/-- The state with one instruction placed where the next step fetches: 32 bits for the scalar stream, 96 for the lane stream. -/
def State.withFetchWord (s : State) (nbits w : Nat) : State :=
  if nbits = 32 then placeInstr s false 4 w else if nbits = 96 then placeInstr s true 12 w else s

end Sys2Proof.Machine
end

