-- ==== Sys2Proof/Safety.lean ====
section
/-! DEFINITION. What counts as a safe run, and the words in which statements are made. -/

namespace Sys2Proof.Machine

/-- A step that the part makes: neither a stop nor a refusal. -/
def goesOn (r : Host.Outcome State Fault Refusal) : Prop := ∃ s, r = .next s

/-- A run of n steps all of which the part makes. -/
def safeRun (s : State) : Nat → Prop
  | 0 => True
  | n + 1 => ∃ s', step s = .next s' ∧ safeRun s' n

/-- DRAM keeps its canonical form: data bytes and syndromes. -/
def State.memOk (s : State) : Bool := s.dram.wf && s.synd.wf

/-! ### What accesses to memory leave alone -/

/-- A context without what a failure of its delta map changes. -/
def Context.fixed (c : Context) : Context := { c with xlctl := 0 }

/-- A scratchpad write without the release sides that it stands before. -/
def PadWrite.fixed (w : PadWrite) : PadWrite := { w with syncs := [] }

/-- What lies outside memory, but for the delta maps' failure bits and the release sides that words carry, as it was in a state. -/
def SameOutside (s t : State) : Prop :=
  t = { s with
    lines := t.lines, coreUse := t.coreUse, shUse := t.shUse, tlb := t.tlb, freeCtr := t.freeCtr, life := t.life, scrubs := t.scrubs
    reqs := t.reqs, sq := t.sq, early := t.early, oplog := t.oplog, psets := t.psets, faults := t.faults, verdicts := t.verdicts
    fab := t.fab, dram := t.dram, synd := t.synd, contexts := t.contexts, padw := t.padw, frames := t.frames, tiles := t.tiles } ∧
  t.contexts.map Context.fixed = s.contexts.map Context.fixed ∧ t.padw.map PadWrite.fixed = s.padw.map PadWrite.fixed

/-! ### Scalar instructions -/

/-- The current group executes a scalar instruction after which no STEP is due (R348). -/
def ScalarTurn (s : State) (G : Group) : Prop :=
  s.group? s.cur = some G ∧ (G.dbg.stepm = 1#2 → G.trap.hmode = true)

/-- A group whose scalar instruction has retired: the PC has moved on, the exemption after SRET is over (R338), and a BAR that
waited has ended. -/
def Group.stepped (G : Group) (pc : W64) : Group :=
  { G with sc := { G.sc with spc := pc }, trap := { G.trap with firstS := false }, wait := { G.wait with barTok := none } }

/-- From s to t only a group of the part has changed, and what was kept for its instruction is gone (answers to its faults, its entry of
the operand log, its pages): no byte of memory, no cached word, no store, no other group, no context, no team, no engine command is
different. -/
def OnlyGroup (s t : State) (g : Nat) (H : Group) : Prop :=
  t = { s with
    groups := s.groups.set g H, verdicts := t.verdicts, oplog := t.oplog, psets := t.psets
    fab := { s.fab with peers := t.fab.peers } }

/-- An instruction executed on s answers a next state: the state s' of its effect, in which the current group is H and goes on at
pc, and nothing else has changed. -/
def Completes (i : Instr) (s s' : State) (H : Group) (pc : W64) : Prop :=
  ∃ t, exec i s = .next t ∧ OnlyGroup s' t s.cur (H.stepped pc)

/-- A scalar instruction that group G executes on s retires: exec answers the state s' of its effect with the retirement of
Obligations.ScalarRetirement on top, at pc. -/
def Retires (i : Instr) (s : State) (G : Group) (s' : State) (pc : W64) : Prop :=
  exec i s = .next (scalarRetire s' s.cur G.dbg.stepm G.trap.hmode G.sc.spc pc)

/-! ### Traps (R330 to R336) -/

/-- A group that entered the handler of its context (R330, R331, R333): the PCs are saved, the lane stream is set aside, with no row in flight,
EM is all ones, the decision queue and the vote port are empty, and the scalar stream stands at HBASE.ADDR. -/
structure InHandler (G H : Group) (c : Context) : Prop where
  hmode : H.trap.hmode = true
  spc : H.sc.spc = c.handler
  epcs : H.trap.epcs = epcsOf G.sc.spc
  epcl : H.trap.epcl = epclOf G.lane.run.isNone G.lane.lpc
  em : H.lane.em = 0xFFFFFFFF#32
  run : H.lane.run = none
  dq : H.lane.dq = []
  vp : H.lane.vp = []
  rows : H.lane.keeps = [] ∧ H.lane.flight = 0
  stack : H.lane.stack = G.lane.stack
  aside : ∃ a, H.trap.aside = some a ∧ a.run = G.lane.run ∧ a.lpc = G.lane.lpc ∧ a.em = G.lane.em ∧ a.dq = G.lane.dq ∧
    a.vp = G.lane.vp ∧ a.depth = G.lane.stack.length
  sregs : H.sc.sregs = G.sc.sregs
  vregs : H.vec = G.vec

/-- A cause has been noted (R332, R334): its bit is set and its record says what it reports; when the bit was set already, OVF is
set and the record stays. -/
def Noted (G H : Group) (c : Cause) (info pc head aux0 aux1 : W64) (addr : Lanes W64) : Prop :=
  if G.trap.cause.getLsbD c then H.trap.cause = setOvf G.trap.cause ∧ H.trap.recs = G.trap.recs
  else H.trap.cause = setCause G.trap.cause c ∧ H.trap.recs = G.trap.recs.setIfInBounds c (some ⟨info, pc, head, aux0, aux1, addr⟩)

/-- A cause told of a group: its record lies in the group's spill area, and outside a handler, where the cause is taken, what the group's
streams have read ahead is discarded (R126, R334). -/
def causeTold (s : State) (g : Nat) (G : Group) (r : Raise) (lane : Bool) (pc head : W64) (chain : Bool) : State :=
  let t := writeCause s G r lane pc head chain
  if G.trap.hmode then t else dropEarly t g

/-- A scalar instruction on group G raises a cause, in state s (R330, R336): in a handler it is held pending and the handler goes
on; else the group enters its handler, or halts in place when HBASE.EN is 0, and what its streams have read ahead is discarded. No
register and no other group changes, and memory only by the record, which writeCause writes to the group's spill area (R334). -/
def TrapsScalar (i : Instr) (s : State) (G : Group) (r : Raise) : Prop :=
  ∃ t H, exec i s = .next t ∧
    t = { causeTold (clearParty s (.scalar s.cur) G.sc.spc) s.cur G r false G.sc.spc G.sc.spc false with
      groups := s.groups.set s.cur H } ∧
    Noted G H r.cause (recInfo r false G.trap.hmode false) G.sc.spc G.sc.spc r.aux0 r.aux1 r.addr ∧
    H.sc.sregs = G.sc.sregs ∧ H.sc.hregs = G.sc.hregs ∧ H.vec = G.vec ∧
    (G.trap.hmode = true → H.trap.hmode = true ∧ H.sc.spc = G.sc.spc + 4 ∧ H.status = G.status ∧ H.lane = G.lane) ∧
    (G.trap.hmode = false → ∀ c, s.ctxOf G = some c →
      if c.hbaseEn then InHandler G H c ∧ H.status = G.status
      else H.status = .trapped r.cause ∧ H.trap.hmode = false ∧ H.sc = G.sc ∧ H.lane = G.lane.letGo)

/-! ### Lane instructions -/

/-- Lane instruction i is about to have its effect on the current group: it is well-formed, as whatever a word decodes to is, the checks
common to all lane instructions pass, the rows that it reads and writes are there, and x is what it works on. handler says that it is
legal in a handler alone. -/
structure LaneOn (s : State) (i : Instr) (handler : Bool) (x : LaneIn) : Prop where
  wf : i.wf = true
  ready : ∃ op f row G run w s1 G1, laneParts i = some (op, f) ∧ laneRow (op % 512) = some row ∧ s.group? s.cur = some G ∧
    G.lane.run = some run ∧ whoLane s s.cur G = some w ∧ fetchWatched (G.laneBegin f) G.lane.lpc = false ∧
    laneCheck (s.setGroup s.cur (G.laneBegin f)) s.cur (G.laneBegin f) run (op % 512) f handler = none ∧
    ensureRows (s.setGroup s.cur (G.laneBegin f)) s.cur (rowReads (s.setGroup s.cur (G.laneBegin f)) s.cur G.lane.lpc row f)
      (destRegs row f) (activeMask (G.laneBegin f) f.pred != 0xFFFFFFFF#32 || op % 512 == 0x084) = .ok s1 ∧
    s1.group? s.cur = some G1 ∧ x = laneIn s1 s.cur G1 w run row f

/-- The same of one that touches no register that an operation of the matrix unit pins; of one that does, Claim.PinnedRegisters says what
happens. -/
structure LaneReady (s : State) (i : Instr) (handler : Bool) (x : LaneIn) : Prop extends LaneOn s i handler x where
  free : x.clash = false

/-- Lane instruction i retires on what x works on: exec answers the state s' of its effect with the retirement of
Obligations.LaneRetirement on top, at pc. -/
def LaneRetires (i : Instr) (s : State) (x : LaneIn) (s' : State) (pc : W64) : Prop :=
  exec i s = .next (laneRetire x s' pc)

/-- Lane instruction i waits, with the state s' so far: exec answers s' with the sources kept as Obligations.LaneRetirement says. -/
def LaneWaits (i : Instr) (s : State) (x : LaneIn) (s' : State) : Prop := exec i s = .next (laneWait x (logsOps i) s')

/-- A lane instruction on group G, as it stands when the cause is raised, raises a cause in state s (R49, R330, R334): the record
names the chain head of a follower. In a handler the cause is held pending and the handler goes on; else the group enters its handler,
or halts in place, and what its streams have read ahead is discarded. Memory changes only by the record (R334). -/
def TrapsLane (i : Instr) (s s' : State) (G : Group) (r : Raise) : Prop :=
  ∃ t H, exec i s = .next t ∧
    t = { causeTold (clearParty s' (.lane s.cur) G.lane.lpc) s.cur { G with lane := G.lane.letGo } r true G.lane.lpc
        ((G.lane.chain.map (·.head)).getD G.lane.lpc) G.lane.chain.isSome with
      groups := s'.groups.set s.cur H } ∧
    Noted G H r.cause (recInfo r true G.trap.hmode G.lane.chain.isSome) G.lane.lpc ((G.lane.chain.map (·.head)).getD G.lane.lpc)
      r.aux0 r.aux1 r.addr ∧
    H.sc.sregs = G.sc.sregs ∧ H.sc.hregs = G.sc.hregs ∧ H.vec = G.vec ∧
    (G.trap.hmode = true → H.trap.hmode = true ∧ H.lane.lpc = G.lane.lpc + 12 ∧ H.status = G.status ∧ H.sc = G.sc) ∧
    (G.trap.hmode = false → ∀ c, s'.ctxOf G = some c →
      if c.hbaseEn then InHandler G H c ∧ H.status = G.status
      else H.status = .trapped r.cause ∧ H.trap.hmode = false ∧ H.sc = G.sc ∧ H.lane = G.lane.letGo)

/-! ### Words in the caches -/

/-- The word at an address, a multiple of 4, is cached under a line for a stream: the line is settled and in no write's way, its block
is in use at both levels, so that a hit evicts nothing, the stream has not read the word ahead, and the address lies in no own fault
record and no peer range (R244, R245, R249, R265, R270, R331, R384). -/
structure CachedWord (s : State) (w : Who) (a : Nat) (l : Line) : Prop where
  below : a < 2 ^ 56
  notRecord : ∀ b r, w.recs = some (b, r) → a < b ∨ b + 384 * 21 ≤ a
  notPeer : peerRange w a = none
  hit : hitLine s w.ctx.asid (a / 4) = some l
  settled : ∀ t b ps, l.st ≠ .escrow t b ps
  quiet : ∀ p ∈ s.sq, p.key ≠ l.key
  shared : ∃ p ∈ s.shUse, p.1 = l.key / 32
  core : (coreRivals s w.core (l.key / 32)).length < 16
  notEarly : ∀ e ∈ s.early, e.group ≠ w.group ∨ e.key ≠ l.key
  plain : ∀ p ∈ s.padw, ∀ g sc, PadSync.word l.key g sc ∉ p.syncs

/-- A party's instruction executes for the first time: the operand log has no entry for it, and no sets of its pages are kept (R127, R288). -/
def FirstTry (s : State) (p : Party) (pc : W64) : Prop :=
  (∀ e ∈ s.oplog, e.party = p → e.pc ≠ pc) ∧ ∀ e ∈ s.psets, e.party = p → e.pc ≠ pc

/-- No watch looks at the scalar stream's data accesses (R349). -/
def Unwatched (G : Group) : Prop := G.trap.hmode = true ∨ G.trap.firstS = true ∨ G.dbg.wctl.getLsbD 7 = false

/-- Two states cache the same words. -/
def SameLines (s t : State) : Prop := ∀ k, findLine t k = findLine s k

/-- From s to t the caches hold the same words, though their blocks' order of use may differ, and nothing else has changed. -/
def OnlyUse (s t : State) : Prop := SameLines s t ∧ t = { s with lines := t.lines, coreUse := t.coreUse, shUse := t.shUse }

end Sys2Proof.Machine
end

