-- ==== Sys2Proof/Certificates/Slice0/Obligations.lean ====
section
/-! DEFINITION. The statements for the provers, and the values that the spec's tables give, which they compare with. -/

open Sys2Proof Sys2Proof.Machine

/-! ### Scalar arithmetic (R128, R129, R34) -/

/-- The destination and the value that R128 gives each scalar ALU instruction, R being the scalar registers. -/
def aluValue (R : SReg → W64) (i : Instr) : Option (SReg × W64) :=
  match i with
  | .add d a b => some (d, BitVec.ofNat 64 ((R a).toNat + (R b).toNat))
  | .sub d a b => some (d, BitVec.ofInt 64 ((R a).toInt - (R b).toInt))
  | .mul d a b => some (d, BitVec.ofNat 64 ((R a).toNat * (R b).toNat))
  | .mulh d a b => some (d, BitVec.ofInt 64 ((R a).toInt * (R b).toInt / 2 ^ 64))
  | .mulhn d a b => some (d, BitVec.ofNat 64 ((R a).toNat * (R b).toNat / 2 ^ 64))
  | .and d a b => some (d, R a &&& R b)
  | .or d a b => some (d, R a ||| R b)
  | .xor d a b => some (d, R a ^^^ R b)
  | .shl d a b => some (d, if 64 ≤ (R b).toNat then 0 else BitVec.ofNat 64 ((R a).toNat * 2 ^ (R b).toNat))
  | .shr d a b => some (d, if 64 ≤ (R b).toNat then 0 else BitVec.ofNat 64 ((R a).toNat / 2 ^ (R b).toNat))
  | .sra d a b => some (d, if 64 ≤ (R b).toNat then (if (R a).msb then BitVec.allOnes 64 else 0)
      else BitVec.ofInt 64 ((R a).toInt / 2 ^ (R b).toNat))
  | .min d a b => some (d, BitVec.ofInt 64 (min (R a).toInt (R b).toInt))
  | .max d a b => some (d, BitVec.ofInt 64 (max (R a).toInt (R b).toInt))
  | .minn d a b => some (d, BitVec.ofNat 64 (min (R a).toNat (R b).toNat))
  | .maxn d a b => some (d, BitVec.ofNat 64 (max (R a).toNat (R b).toNat))
  | .slt d a b => some (d, if (R a).toInt < (R b).toInt then 1 else 0)
  | .sltn d a b => some (d, if (R a).toNat < (R b).toNat then 1 else 0)
  | .clz d a => some (d, if R a = 0 then 64 else BitVec.ofNat 64 (63 - (R a).toNat.log2))
  | .popc d a => some (d, BitVec.ofNat 64 ((List.range 64).filter (R a).getLsbD).length)
  | .sel d a b => some (d, if R d = 0 then R b else R a)
  | .addi d a imm => some (d, BitVec.ofInt 64 ((R a).toInt + imm.toInt))
  | .andi d a imm => some (d, R a &&& imm.setWidth 64)
  | .slti d a imm => some (d, if (R a).toInt < imm.toInt then 1 else 0)
  | .ori d a imm => some (d, R a ||| imm.setWidth 64)
  | .xori d a imm => some (d, R a ^^^ imm.setWidth 64)
  | .shli d a n => some (d, BitVec.ofNat 64 ((R a).toNat * 2 ^ n.toNat))
  | .shri d a n => some (d, BitVec.ofNat 64 ((R a).toNat / 2 ^ n.toNat))
  | .srai d a n => some (d, BitVec.ofInt 64 ((R a).toInt / 2 ^ n.toNat))
  | .sethi d imm => some (d, BitVec.ofInt 64 (BitVec.ofNat 32 (imm.toNat * 2 ^ 13)).toInt)
  | _ => none

/-- R128 and R34: every scalar ALU instruction, on any group and with any operands, writes its value to sd and goes on at PC + 4;
nothing else changes. A write to s0 is discarded (Group.setS). -/
def Claim.ScalarValue : Prop :=
  ∀ (s : State) (G : Group) (i : Instr) (d : SReg) (x : W64), ScalarTurn s G → aluValue G.sreg i = some (d, x) →
    Completes i s s (G.setS d x) (G.sc.spc + 4)

/-- The value that R128 gives a division with a divisor that is not zero. -/
def divValue (R : SReg → W64) (i : Instr) : Option (SReg × SReg × W64) :=
  match i with
  | .div d a b => some (d, b, BitVec.ofInt 64 (Int.tdiv (R a).toInt (R b).toInt))
  | .divn d a b => some (d, b, BitVec.ofNat 64 ((R a).toNat / (R b).toNat))
  | .rem d a b => some (d, b, BitVec.ofInt 64 ((R a).toInt - (R b).toInt * Int.tdiv (R a).toInt (R b).toInt))
  | .remn d a b => some (d, b, BitVec.ofNat 64 ((R a).toNat - (R b).toNat * ((R a).toNat / (R b).toNat)))
  | _ => none

/-- R128, R129: the four divisions by a divisor other than zero. -/
def Claim.ScalarDivisionResult : Prop :=
  ∀ (s : State) (G : Group) (i : Instr) (d b : SReg) (x : W64), ScalarTurn s G → divValue G.sreg i = some (d, b, x) →
    G.sreg b ≠ 0 → Completes i s s (G.setS d x) (G.sc.spc + 4)

/-- R129: a division by zero raises DIVZ and leaves sd, also when sd is s0. -/
def Obligations.DivisionByZeroTraps : Prop :=
  ∀ (s : State) (G : Group) (i : Instr) (d b : SReg) (x : W64), s.group? s.cur = some G →
    divValue G.sreg i = some (d, b, x) → G.sreg b = 0 → TrapsScalar i s G (.plain cDIVZ)

/-- R128: the value of every scalar ALU instruction. -/
def Obligations.ScalarAluResult : Prop := Claim.ScalarValue ∧ Claim.ScalarDivisionResult

/-- R117, R331: what a scalar register reads after a write. s0 stays zero; outside a handler the handler's registers keep their
values, in a handler the program's s56 to s63 do. -/
def Obligations.ScalarRegisterWrite : Prop :=
  ∀ (G : Group) (d : SReg) (x : W64),
    (∀ r, (G.setS d x).sreg r = if r = 0#6 then 0 else if r = d then x else G.sreg r) ∧
    (G.trap.hmode = false → (G.setS d x).sc.hregs = G.sc.hregs) ∧
    (G.trap.hmode = true → ∀ n : Nat, 56 ≤ n → (G.setS d x).sc.sregs[n]? = G.sc.sregs[n]?) ∧
    (G.setS d x).vec = G.vec ∧ (G.setS d x).lane = G.lane ∧ (G.setS d x).trap = G.trap ∧ (G.setS d x).sc.fpstat = G.sc.fpstat ∧
    (G.setS d x).sc.fpctl = G.sc.fpctl ∧ (G.setS d x).eng = G.eng

/-! ### Branches and jumps (R146, R147) -/

/-- The next PC that R146 gives a branch at pc. -/
def branchPc (R : SReg → W64) (pc : W64) (i : Instr) : Option W64 :=
  let go (taken : Bool) (off : BitVec 13) : W64 := if taken then BitVec.ofInt 64 (pc.toNat + 4 * off.toInt) else pc + 4
  match i with
  | .b off => some (BitVec.ofInt 64 (pc.toNat + 4 * off.toInt))
  | .beq a b off => some (go (decide (R a = R b)) off)
  | .bne a b off => some (go (decide (R a ≠ R b)) off)
  | .blt a b off => some (go (decide ((R a).toInt < (R b).toInt)) off)
  | .bge a b off => some (go (decide ((R b).toInt ≤ (R a).toInt)) off)
  | .bltn a b off => some (go (decide ((R a).toNat < (R b).toNat)) off)
  | .bgen a b off => some (go (decide ((R b).toNat ≤ (R a).toNat)) off)
  | _ => none

/-- R146: a branch goes to its target when its condition holds, else to PC + 4, and changes nothing. -/
def Claim.ScalarBranchTarget : Prop :=
  ∀ (s : State) (G : Group) (i : Instr) (pc : W64), ScalarTurn s G → branchPc G.sreg G.sc.spc i = some pc →
    Completes i s s G pc

/-- R146, R147: CALL, JR and RET. The target of JR is read before its link is written. -/
def Claim.ScalarCallAndReturn : Prop :=
  ∀ (s : State) (G : Group), ScalarTurn s G →
    (∀ (l : SReg) (off : BitVec 19),
      Completes (.call l off) s s (G.setS l (G.sc.spc + 4)) (BitVec.ofInt 64 (G.sc.spc.toNat + 4 * off.toInt))) ∧
    (∀ (d a : SReg), (G.sreg a).toNat % 4 = 0 → (G.sreg a).toNat < 2 ^ 56 →
      Completes (.jr d a) s s (G.setS d (G.sc.spc + 4)) (G.sreg a)) ∧
    (∀ (a : SReg), (G.sreg a).toNat % 4 = 0 → (G.sreg a).toNat < 2 ^ 56 → Completes (.ret a) s s G (G.sreg a))

/-- R147: a target that is no multiple of 4 raises ALIGN at the JR or RET, one at or above 2^56 raises XLAT with subcode 4. R147 gives no
order of the two: that a target which is both raises ALIGN is the model's choice (log 19). -/
def Claim.IndirectJumpTraps : Prop :=
  ∀ (s : State) (G : Group) (d a : SReg), s.group? s.cur = some G →
    ((G.sreg a).toNat % 4 ≠ 0 →
      TrapsScalar (.jr d a) s G (.at cALIGN 0 (G.sreg a)) ∧ TrapsScalar (.ret a) s G (.at cALIGN 0 (G.sreg a))) ∧
    ((G.sreg a).toNat % 4 = 0 → 2 ^ 56 ≤ (G.sreg a).toNat →
      TrapsScalar (.jr d a) s G (.at cXLAT 4 (G.sreg a)) ∧ TrapsScalar (.ret a) s G (.at cXLAT 4 (G.sreg a)))

/-- R146, R147: branches, CALL, JR and RET, and where indirect jumps trap; which of two traps comes first is the model's choice (log 19). -/
def Obligations.ScalarControlFlow : Prop := Claim.ScalarBranchTarget ∧ Claim.ScalarCallAndReturn ∧ Claim.IndirectJumpTraps

/-! ### Retirement and STEP (R338, R348) -/

/-- R338, R348: what a scalar instruction's retirement changes. Without a STEP due, only the group: its PC moves on and its
exemption ends. With STEPM 1 outside a handler, STEP is raised after the instruction: EPCS names the next instruction, the record
the one that retired. -/
def Obligations.ScalarRetirement : Prop :=
  ∀ (s : State) (g : Nat) (H : Group) (mode : BitVec 2) (hm : Bool) (old pc : W64), s.group? g = some H →
    (mode ≠ 1#2 ∨ hm = true ∨ H.trap.hmode = true → OnlyGroup s (scalarRetire s g mode hm old pc) g (H.stepped pc)) ∧
    (mode = 1#2 → hm = false → H.trap.hmode = false → H.gone = false → ∀ c, s.ctxOf H = some c → c.hbaseEn = true →
      ∃ K, (scalarRetire s g mode hm old pc).group? g = some K ∧ InHandler (H.stepped pc) K c ∧
        Noted (H.stepped pc) K cSTEP (recInfo (stepRaise H.lane.em) false false false) old old (zext64 H.lane.em) 0 (splat 0))

/-! ### The decision queue and the vote port (R27, R31, R32) -/

/-- R27: RUN appends a run with a snapshot of sb to sb+3 to a queue with room; a write to those registers afterwards does not reach
it, since the entry holds values. On a full queue RUN waits, and changes nothing. -/
def Claim.RunAppendsSnapshot : Prop :=
  ∀ (s : State) (G : Group) (b : SReg) (off : BitVec 19), ScalarTurn s G →
    (G.lane.dq.length < 8 →
      Completes (.run b off) s s { G with lane := { G.lane with dq := G.lane.dq ++
        [⟨G.bind.lbase + 12 * BitVec.ofNat 64 off.toNat, b, Vector.ofFn fun j =>
          if b ≠ 0#6 ∧ b.toNat + j.val < 64 then G.sreg (b + BitVec.ofNat 6 j.val) else 0⟩] } } (G.sc.spc + 4)) ∧
    (8 ≤ G.lane.dq.length → laneStuck s s.cur G = false → exec (.run b off) s = .next s) ∧
    (8 ≤ G.lane.dq.length → laneStuck s s.cur G = true → TrapsScalar (.run b off) s G (.plain cILL))

/-- R31, R32: TAKEV takes the head of the vote port; on an empty port it waits for a lane stream that may still vote, and raises ILL
when none can. -/
def Claim.TakevTakesHead : Prop :=
  ∀ (s : State) (G : Group) (d : SReg), ScalarTurn s G →
    (∀ e t, G.lane.vp = e :: t → Completes (.takev d) s s (({ G with lane := { G.lane with vp := t } } : Group).setS d e) (G.sc.spc + 4)) ∧
    (G.lane.vp = [] → G.laneIdle = true → TrapsScalar (.takev d) s G (.plain cILL)) ∧
    (G.lane.vp = [] → G.laneIdle = false → laneStuck s s.cur G = true → TrapsScalar (.takev d) s G (.plain cILL)) ∧
    (G.lane.vp = [] → G.laneIdle = false → laneStuck s s.cur G = false → exec (.takev d) s = .next s)

/-- R27, R31, R32: the decision queue and the vote port, from the scalar stream. -/
def Obligations.RunsAndVotes : Prop := Claim.RunAppendsSnapshot ∧ Claim.TakevTakesHead

/-! ### Fences (R274, R276) -/

/-- R274, R276: with an idle lane stream SYNCQ and an acquire fence are done, and a release fence is done when the group's older
writes are visible at its scope. What the group's streams have read ahead is dropped, and writes of scratchpad are released and acquired
(Claim.AcquireAndRelease). Until then they wait and change nothing, or raise ILL when the lane stream is stuck (R32). -/
def Claim.FencesWaitForTheirScope : Prop :=
  ∀ (s : State) (G : Group) (sc : Scope), ScalarTurn s G →
    (G.laneIdle = true →
      Completes .syncq s (dropEarly s s.cur) G (G.sc.spc + 4) ∧ Completes (.fenceAcq sc) s (fenceAcquire s s.cur sc) G (G.sc.spc + 4) ∧
      (visibleAt s s.cur sc = true → Completes (.fenceRel sc) s (fenceRelease (dropEarly s s.cur) s.cur sc) G (G.sc.spc + 4) ∧
        ∀ i ∈ [Instr.fenceAcqrel sc, .fenceSc sc], Completes i s (fenceRelease (fenceAcquire s s.cur sc) s.cur sc) G (G.sc.spc + 4)) ∧
      (visibleAt s s.cur sc = false → ∀ i ∈ [Instr.fenceRel sc, .fenceAcqrel sc, .fenceSc sc], exec i s = .next s)) ∧
    (G.laneIdle = false → ∀ i ∈ [Instr.syncq, .fenceAcq sc, .fenceRel sc, .fenceAcqrel sc, .fenceSc sc],
      (laneStuck s s.cur G = false → exec i s = .next s) ∧ (laneStuck s s.cur G = true → TrapsScalar i s G (.plain cILL)))

/-- R204, R267, R268: a release side stands behind the group's own stores to scratchpad and behind what is ordered for it. After an acquire no
read stands that a stream of the group made ahead; and of the writes of other groups, those that stand before a release side with which it
synchronises are ordered for the group's matrix unit, and no other write is ordered for any group by it. Both change nothing else. Which
sides synchronise is the model's reading of R268 (log 104): a phase of a barrier, a transfer of a deed, and fences through a word that
the acquiring group has read. -/
def Claim.AcquireAndRelease : Prop :=
  ∀ (s : State) (g h : Nat) (c : PadSync) (p : PadSync → Bool),
    acquired s g p = { s with early := (acquired s g p).early, padw := (acquired s g p).padw } ∧
    padRelease s h c = { s with padw := (padRelease s h c).padw } ∧
    (∀ e, e ∈ (acquired s g p).early ↔ e ∈ s.early ∧ e.group ≠ g) ∧
    (∀ w ∈ s.padw, (w.by_ = .store ∧ w.writer = h ∨ w.writer ≠ h ∧ h ∈ w.seen) →
      ∃ v ∈ (padRelease s h c).padw, v = { w with syncs := v.syncs } ∧ c ∈ v.syncs) ∧
    (∀ w ∈ s.padw, ∃ v ∈ (acquired s g p).padw, v = { w with seen := v.seen } ∧
      (g ∈ v.seen ↔ g ∈ w.seen ∨ w.writer ≠ g ∧ w.syncs.any p = true) ∧ ∀ k, k ≠ g → (k ∈ v.seen ↔ k ∈ w.seen))

/-! ### Team barriers (R164, R165) -/

/-- The barrier nb that R165 leaves of b when a group g with EM arrives under count c in a team with so many live threads. -/
structure Arrived (b nb : Barrier) (g : Nat) (em : Mask) (c : W64) (live : Nat) : Prop where
  /-- The phase completes when enough threads have arrived: PHASE counts on, and ARRIVED and every ARR are 0. -/
  completes : (if b.isOpen then b.expect else if c = 0 then live else c.toNat) ≤ b.arrived + popCount (em &&& ~~~b.arrOf g).toNat 32 →
    nb.phase = b.phase + 1 ∧ nb.isOpen = false ∧ nb.arrived = 0 ∧ ∀ h, nb.arrOf h = 0
  /-- Else it is open: the group's lanes in EM have arrived once, and the first arrival has set EXPECT and the count. -/
  opens : b.arrived + popCount (em &&& ~~~b.arrOf g).toNat 32 < (if b.isOpen then b.expect else if c = 0 then live else c.toNat) →
    nb.phase = b.phase ∧ nb.isOpen = true ∧ nb.arrived = b.arrived + popCount (em &&& ~~~b.arrOf g).toNat 32 ∧
    nb.expect = (if b.isOpen then b.expect else if c = 0 then live else c.toNat) ∧ nb.count = (if b.isOpen then b.count else c) ∧
    nb.arrOf g = b.arrOf g ||| em ∧ ∀ h, h ≠ g → nb.arrOf h = b.arrOf h

/-- What an arrival in a barrier of a team releases: the arrivals of the phase, of which the first has no other phase's behind it. -/
def Arrival (s : State) (G : Group) (t : Team) (id : Nat) : State :=
  padRelease (if (barOf t id).isOpen then s else padDrop s (.bar G.bind.team id (barOf t id).phase)) s.cur
    (.bar G.bind.team id (barOf t id).phase)

/-- R165, R166: ARRIVE returns PHASE as it was before any completion, and arrives, once the group's older writes are visible at team scope;
until then it waits. -/
def Claim.ArriveCountsThreads : Prop :=
  ∀ (s : State) (G : Group) (t : Team) (d a b : SReg), ScalarTurn s G → s.teamOf G = some t → (G.sreg a).toNat < 16 →
    (G.sreg b).toNat ≤ 32 * t.atCommit → G.laneIdle = true →
    (visibleAt s s.cur .team = false → exec (.arrive d a b) s = .next s) ∧
    (visibleAt s s.cur .team = true → ((barOf t (G.sreg a).toNat).isOpen = true → G.sreg b = (barOf t (G.sreg a).toNat).count) →
      ∃ nb, Arrived (barOf t (G.sreg a).toNat) nb s.cur G.lane.em (G.sreg b) t.live ∧
        Completes (.arrive d a b) s ((Arrival s G t (G.sreg a).toNat).setBarrier G.bind.team (G.sreg a).toNat nb)
          (G.setS d (zext64 (barOf t (G.sreg a).toNat).phase)) (G.sc.spc + 4))

/-- R165: an identifier above 15, a count above the team's threads, or a count other than the one recorded raises ILL. -/
def Claim.BarrierOperandTraps : Prop :=
  ∀ (s : State) (G : Group) (t : Team) (d a b : SReg), s.group? s.cur = some G → s.teamOf G = some t → G.wait.barTok = none →
    (16 ≤ (G.sreg a).toNat ∨ 32 * t.atCommit < (G.sreg b).toNat →
      TrapsScalar (.arrive d a b) s G (.plain cILL) ∧ TrapsScalar (.bar a b) s G (.plain cILL)) ∧
    ((G.sreg a).toNat < 16 → (G.sreg b).toNat ≤ 32 * t.atCommit → G.laneIdle = true → visibleAt s s.cur .team = true →
      (barOf t (G.sreg a).toNat).isOpen = true → G.sreg b ≠ (barOf t (G.sreg a).toNat).count →
      TrapsScalar (.arrive d a b) s G (.plain cILL) ∧ TrapsScalar (.bar a b) s G (.plain cILL)) ∧
    (16 ≤ (G.sreg a).toNat → TrapsScalar (.waitbar a b) s G (.plain cILL))

/-- R165: WAITBAR goes on when PHASE has passed its token, waits while it equals it, and raises ILL on a token from the future. BAR
goes on at once when its arrival completes the phase, and when a phase it waits for has completed. -/
def Claim.BarrierWaits : Prop :=
  ∀ (s : State) (G : Group) (t : Team) (a b : SReg), ScalarTurn s G → s.teamOf G = some t → (G.sreg a).toNat < 16 →
    (∀ (p : BitVec 16), p = (barOf t (G.sreg a).toNat).phase →
      (p ≠ (G.sreg b).setWidth 16 → (p - (G.sreg b).setWidth 16).toNat < 2 ^ 15 →
        Completes (.waitbar a b) s (passBar s s.cur G (G.sreg a) ((G.sreg b).setWidth 16)) G (G.sc.spc + 4)) ∧
      (p = (G.sreg b).setWidth 16 → exec (.waitbar a b) s = .next s) ∧
      (2 ^ 15 ≤ (p - (G.sreg b).setWidth 16).toNat → TrapsScalar (.waitbar a b) s G (.plain cILL))) ∧
    (∀ tok, G.wait.barTok = some ⟨G.sc.spc, (G.sreg a).setWidth 4, tok⟩ → (barOf t (G.sreg a).toNat).phase ≠ tok →
      ((barOf t (G.sreg a).toNat).phase - tok).toNat < 2 ^ 15 → Completes (.bar a b) s (passBar s s.cur G (G.sreg a) tok) G (G.sc.spc + 4)) ∧
    (G.wait.barTok = none → (G.sreg b).toNat ≤ 32 * t.atCommit → G.laneIdle = true → visibleAt s s.cur .team = true →
      ((barOf t (G.sreg a).toNat).isOpen = true → G.sreg b = (barOf t (G.sreg a).toNat).count) →
      ∃ nb, Arrived (barOf t (G.sreg a).toNat) nb s.cur G.lane.em (G.sreg b) t.live ∧
        (nb.phase ≠ (barOf t (G.sreg a).toNat).phase →
          Completes (.bar a b) s (passBar ((Arrival s G t (G.sreg a).toNat).setBarrier G.bind.team (G.sreg a).toNat nb) s.cur G (G.sreg a)
            (barOf t (G.sreg a).toNat).phase) G (G.sc.spc + 4)) ∧
        (nb.phase = (barOf t (G.sreg a).toNat).phase →
          exec (.bar a b) s = .next (((Arrival s G t (G.sreg a).toNat).setBarrier G.bind.team (G.sreg a).toNat nb).setBarTok s.cur
            (some ⟨G.sc.spc, (G.sreg a).setWidth 4, (barOf t (G.sreg a).toNat).phase⟩))))

/-- R164, R165, R166: ARRIVE, BAR and WAITBAR. -/
def Obligations.TeamBarriers : Prop := Claim.ArriveCountsThreads ∧ Claim.BarrierOperandTraps ∧ Claim.BarrierWaits

/-! ### Scalar loads, stores and atomics (R130, R254) -/

/-- R130 in a cached word: LDS32 writes the word zero-extended, LDS the double of two words, low word first. A copy that the core
already holds changes no cached word, only the order in which blocks were used; memory, the store queue and everything else stay. -/
def Obligations.ScalarLoadOfCachedWords : Prop :=
  ∀ (s : State) (G : Group) (w : Who) (d a : SReg) (off : BitVec 13) (l h : Line) (lo hi : W32) (ls hs : List Nat) (ea : Nat),
    ScalarTurn s G → whoScalar s s.cur G = some w → Unwatched G → FirstTry s (.scalar s.cur) G.sc.spc →
    ea = (BitVec.ofInt 64 ((G.sreg a).toNat + off.toInt)).toNat →
    CachedWord s w ea l → l.perm.u = true → l.st = .clean lo ls → w.core ∈ ls →
    (ea % 4 = 0 → ∃ s1, OnlyUse s s1 ∧ Completes (.lds32 d a off) s s1 (G.setS d (BitVec.ofNat 64 lo.toNat)) (G.sc.spc + 4)) ∧
    (ea % 8 = 0 → CachedWord s w (ea + 4) h → h.perm.u = true → h.st = .clean hi hs → w.core ∈ hs → h.key = l.key + 1 →
      ∃ s1, OnlyUse s s1 ∧ Completes (.lds d a off) s s1 (G.setS d (hi ++ lo)) (G.sc.spc + 4))

/-- R125, R130: STS32 and STS commit their words to the group's store queue, at the address base plus offset, where the words lie in
lines that may be written. Nothing else changes: no byte of memory, no cached word, no register. A store that finds the queue's 32
entries in use waits. -/
def Claim.ScalarStoreCommits : Prop :=
  ∀ (s : State) (G : Group) (w : Who) (x a : SReg) (off : BitVec 13) (l h : Line) (pl ph ea : Nat),
    ScalarTurn s G → whoScalar s s.cur G = some w → Unwatched G → FirstTry s (.scalar s.cur) G.sc.spc →
    ea = (BitVec.ofInt 64 ((G.sreg a).toNat + off.toInt)).toNat →
    CachedWord s w ea l → l.perm.u = true → l.perm.w = true → l.pa = some pl →
    (ea % 4 = 0 →
      (storeQueueFull s s.cur = false → Completes (.sts32 x a off) s { s with sq := s.sq ++
        [⟨s.cur, G.loc.coreId, keyTag l.key, ea / 4, 0xF, (G.sreg x).setWidth 32, pl, l.ex, l.perm, G.bind.ctx, 0, s.tick⟩] } G
        (G.sc.spc + 4)) ∧
      (storeQueueFull s s.cur = true → inService s (.scalar s.cur) = false → exec (.sts32 x a off) s = .next s)) ∧
    (ea % 8 = 0 → CachedWord s w (ea + 4) h → h.perm.u = true → h.perm.w = true → h.pa = some ph → storeQueueFull s s.cur = false →
      Completes (.sts x a off) s { s with sq := s.sq ++
        [⟨s.cur, G.loc.coreId, keyTag l.key, ea / 4, 0xF, (G.sreg x).setWidth 32, pl, l.ex, l.perm, G.bind.ctx, 0, s.tick⟩,
         ⟨s.cur, G.loc.coreId, keyTag h.key, ea / 4 + 1, 0xF, (G.sreg x >>> 32).setWidth 32, ph, h.ex, h.perm, G.bind.ctx, 0, s.tick⟩] } G (G.sc.spc + 4))

/-- R130, R238: an address at or above 2^56 raises XLAT, one that is no multiple of the size raises ALIGN, before anything is
translated. -/
def Claim.ScalarAccessTraps : Prop :=
  ∀ (s : State) (G : Group) (d a : SReg) (off : BitVec 13) (ea : Nat), s.group? s.cur = some G → (s.ctxOf G).isSome = true →
    FirstTry s (.scalar s.cur) G.sc.spc → ea = (BitVec.ofInt 64 ((G.sreg a).toNat + off.toInt)).toNat →
    (2 ^ 56 ≤ ea → ∀ i ∈ [Instr.lds d a off, .lds32 d a off, .sts d a off, .sts32 d a off],
      TrapsScalar i s G (.at cXLAT 4 (BitVec.ofNat 64 ea))) ∧
    (ea < 2 ^ 56 → ea % 8 ≠ 0 → ∀ i ∈ [Instr.lds d a off, .sts d a off], TrapsScalar i s G (.at cALIGN 0 (BitVec.ofNat 64 ea))) ∧
    (ea < 2 ^ 56 → ea % 4 ≠ 0 → ∀ i ∈ [Instr.lds32 d a off, .sts32 d a off], TrapsScalar i s G (.at cALIGN 0 (BitVec.ofNat 64 ea)))

/-- The new value that R254 gives a word x under operand b, and compare value d for AMOS_CAS. -/
def amosValue (i : Instr) (x b d : W32) : Option (SReg × SReg × SReg × Scope × W32) :=
  match i with
  | .amosAdd r a o sc => some (r, a, o, sc, BitVec.ofNat 32 (x.toNat + b.toNat))
  | .amosMin r a o sc => some (r, a, o, sc, BitVec.ofInt 32 (min x.toInt b.toInt))
  | .amosMax r a o sc => some (r, a, o, sc, BitVec.ofInt 32 (max x.toInt b.toInt))
  | .amosMinn r a o sc => some (r, a, o, sc, BitVec.ofNat 32 (min x.toNat b.toNat))
  | .amosMaxn r a o sc => some (r, a, o, sc, BitVec.ofNat 32 (max x.toNat b.toNat))
  | .amosAnd r a o sc => some (r, a, o, sc, x &&& b)
  | .amosOr r a o sc => some (r, a, o, sc, x ||| b)
  | .amosXor r a o sc => some (r, a, o, sc, x ^^^ b)
  | .amosSwap r a o sc => some (r, a, o, sc, b)
  | .amosCas r a o sc => some (r, a, o, sc, if x = d then b else x)
  | _ => none

/-- R251, R254: a scalar atomic on a cached word that may be written returns the old word zero-extended and leaves the new one, at every
scope. Every other cached word and every byte of memory is unchanged. Up to cluster scope the core owns the word, and the write is on its
way to the slice; above, it has been made there. -/
def Obligations.ScalarAtomicOnCachedWord : Prop :=
  ∀ (s : State) (G : Group) (w : Who) (i : Instr) (r a o : SReg) (sc : Scope) (y : W32) (l : Line) (p : Nat),
    ScalarTurn s G → whoScalar s s.cur G = some w → Unwatched G → FirstTry s (.scalar s.cur) G.sc.spc →
    amosValue i l.value ((G.sreg o).setWidth 32) ((G.sreg r).setWidth 32) = some (r, a, o, sc, y) →
    (G.sreg a).toNat % 4 = 0 → CachedWord s w (G.sreg a).toNat l → l.perm.u = true → l.perm.w = true → l.pa = some p →
    ∃ s' l', Completes i s s' (G.setS r (BitVec.ofNat 64 l.value.toNat)) (G.sc.spc + 4) ∧
      findLine s' l.key = some l' ∧ l'.value = y ∧ l'.pa = some p ∧ (∀ k, k ≠ l.key → findLine s' k = findLine s k) ∧
      s'.dram = s.dram ∧ s'.synd = s.synd ∧
      (sc = .group ∨ sc = .team ∨ sc = .cluster → l'.st = .owned w.core y ∧
        ∃ q, s'.sq = s.sq ++ [q] ∧ q.key = l.key ∧ q.group = s.cur ∧ q.data = y ∧ q.stage = 1) ∧
      (sc = .device ∨ sc = .domain → l'.st = .dirty y [] ∧ s'.sq = s.sq)

/-- R240, R265: what a store in a queue makes its group and other groups see. The group sees it over what it saw before, another group
does not see it yet, and no other word looks different to anyone. -/
def Claim.CommittedStoreIsSeenByItsGroup : Prop :=
  ∀ (s : State) (p : PWrite) (g k : Nat) (x : W32), p.stage = 0 →
    overlay { s with sq := s.sq ++ [p] } g k x =
      if k = p.key ∧ g = p.group then mergeBytes (overlay s g k x) p.data p.en else overlay s g k x

/-- R125, R130, R240, R265: what a scalar store commits, and who sees it. -/
def Obligations.ScalarStores : Prop := Claim.ScalarStoreCommits ∧ Claim.CommittedStoreIsSeenByItsGroup

/-- R130, R254: the scalar accesses retire with what the access gives, whatever the state of the caches and the translation: the
words that the load answers go to sd, and a store writes no register. An instruction that executes again takes its sources from the
operand log (Group.logged). -/
def Claim.ScalarAccessRetires : Prop :=
  ∀ (s s' : State) (G L T : Group) (w : Who) (d a b : SReg) (off : BitVec 13) (ea ta : Nat), s.group? s.cur = some G →
    whoScalar s s.cur G = some w → L = G.logged s s.cur [a] → T = G.logged s s.cur [b, a] →
    ea = (BitVec.ofInt 64 ((L.sreg a).toNat + off.toInt)).toNat → ta = (BitVec.ofInt 64 ((T.sreg a).toNat + off.toInt)).toNat →
    (∀ lo hi ps, loadLanes s w (scalarDbg G) G.sc.spc 8 false [⟨0, ea, 8⟩] = (.ok ([(0, [lo, hi])], ps), s') →
      Retires (.lds d a off) s G (s'.modGroup s.cur fun H => H.setS d (hi ++ lo)) (G.sc.spc + 4)) ∧
    (∀ x ps, loadLanes s w (scalarDbg G) G.sc.spc 4 false [⟨0, ea, 4⟩] = (.ok ([(0, [x])], ps), s') →
      Retires (.lds32 d a off) s G (s'.modGroup s.cur fun H => H.setS d (BitVec.ofNat 64 x.toNat)) (G.sc.spc + 4)) ∧
    (storeLanes s w (scalarDbg G) G.sc.spc 8 [⟨0, ta, T.sreg b⟩] = (.ok (), s') →
      Retires (.sts b a off) s G (s'.modGroup s.cur fun H => H) (G.sc.spc + 4)) ∧
    (storeLanes s w (scalarDbg G) G.sc.spc 4 [⟨0, ta, T.sreg b⟩] = (.ok (), s') →
      Retires (.sts32 b a off) s G (s'.modGroup s.cur fun H => H) (G.sc.spc + 4))

/-- R127: an entry is taken while the fault of its party's instruction is being served, where the party has none for it and fewer than 16
of its quadrant are in use; nothing else changes. -/
def Claim.LogTakesAnEntry : Prop :=
  ∀ (s : State) (e : OpEntry), logOps s e =
    if inService s e.party = true ∧ (∀ x ∈ s.oplog, x.party = e.party → x.pc ≠ e.pc) ∧
      (s.oplog.filter fun x => x.quad == e.quad).length < 16 then { s with oplog := s.oplog ++ [e] } else s

/-- R127: a scalar load that waits leaves its sources to the operand log; one that executes again takes its address from its entry, whatever
the registers hold then; and when it retires its entry is released. -/
def Claim.LoggedScalarAccess : Prop :=
  ∀ (s s' : State) (G : Group) (w : Who) (d a : SReg) (off : BitVec 13) (ea : Nat), s.group? s.cur = some G →
    whoScalar s s.cur G = some w →
    (FirstTry s (.scalar s.cur) G.sc.spc → ea = (BitVec.ofInt 64 ((G.sreg a).toNat + off.toInt)).toNat →
      loadLanes s w (scalarDbg G) G.sc.spc 8 false [⟨0, ea, 8⟩] = (.wait, s') →
      exec (.lds d a off) s = .next (logOps s' ⟨G.loc.quadId, .scalar s.cur, G.sc.spc, none, 0, splat (G.sreg a), splat 0, splat 0⟩)) ∧
    (∀ e, loggedOps s (.scalar s.cur) G.sc.spc = some e → a ≠ 0#6 → (G.logged s s.cur [a]).sreg a = e.a[0]) ∧
    (∀ p pc, ∀ e ∈ (clearParty s p pc).oplog, e.party ≠ p)

/-- R127, R130, R238: where scalar accesses trap before translation, that they retire with what the access gives, and what the operand log
holds of one that waits. -/
def Obligations.ScalarAccesses : Prop :=
  Claim.ScalarAccessTraps ∧ Claim.ScalarAccessRetires ∧ Claim.LogTakesAnEntry ∧ Claim.LoggedScalarAccess

/-! ### Engine commands (R189 to R198, R316 to R325) -/

/-- The command that a group's instruction appends to its open batch (R194, R197). -/
def newCmd (s : State) (G : Group) (k : CmdKind) (a : W64) (r : ShapeRec) : Cmd :=
  ⟨s.cur, G.bind.ctx, G.loc.coreId, k, a, r, G.eng.batchCtr, G.sc.scout.toNat, 0, [], [], none, none, false, none⟩

/-- From s to t a command has been queued that will write scratchpad ranges: it stands behind every other one, the ranges are noted as
last written by it and ordered for no matrix unit yet, and an operation in flight that reads them now has undefined results (R204).
Nothing else has changed: no byte of memory or scratchpad, and of the groups no register. -/
structure Queued (s t : State) (c : Cmd) (rs : List (Nat × Nat)) : Prop where
  cmds : t.cmds = s.cmds ++ [c]
  padw : t.padw = (loosen s s.cur (.cmd s.cmds.length) [] rs).padw
  noted : ∀ x, rs = [x] → ⟨x.1, x.2, s.cur, .cmd s.cmds.length, [], []⟩ ∈ t.padw
  rest : t = { s with cmds := t.cmds, groups := t.groups, padw := t.padw }
  groups : ∀ g G, s.group? g = some G → ∃ e, t.group? g = some { G with eng := e } ∧ e.batchCtr = G.eng.batchCtr ∧
    e.tokCtr = G.eng.tokCtr ∧ e.colls = G.eng.colls ∧
    e.mops = G.eng.mops.map fun m => if m.st = .flight ∧ listsMeet (mopRanges s G m) rs = true then { m with spoiled := true } else m

/-- R190 to R194: a copy whose record, box and scratchpad range pass the checks retires with its command queued; the data moves
later. -/
def Claim.CopyIsQueued : Prop :=
  ∀ (s s1 : State) (G : Group) (w : Who) (p r b : SReg) (rc : ShapeRec) (v : SpadView),
    s.group? s.cur = some G → whoScalar s s.cur G = some w → b ≠ 63#6 → (G.sreg p).toNat < 2 ^ 32 →
    (∀ n ∈ halves (G.sreg (b + 1)), n ≠ 0) → useRecord s w G.sc.spc (G.sreg r) = (.ok rc, s1) →
    viewBad rc (G.sreg b) (G.sreg (b + 1)) = false →
    spadCheck s1 G.bind.team G.loc.coreId ((G.sreg p).setWidth 32) (boxBytes rc (G.sreg (b + 1))) (esz rc.elem) = .ok v →
    (blockBad rc false ((G.sreg p).setWidth 32) (G.sreg b) (G.sreg (b + 1)) = false → copiesHeld s1 G.loc.coreId < 32 →
      ∃ t, Retires (.cpyLd p r b) s G t (G.sc.spc + 4) ∧
        (s1.cur = s.cur → Queued s1 t (newCmd s G (.copyLd ((G.sreg p).setWidth 32) (G.sreg b) (G.sreg (b + 1))) (G.sreg r) rc)
          (v.ranges (spadOff ((G.sreg p).setWidth 32)) (boxBytes rc (G.sreg (b + 1)))))) ∧
    (blockBad rc true ((G.sreg p).setWidth 32) (G.sreg b) (G.sreg (b + 1)) = false → rc.nwin = 0 → copiesHeld s1 G.loc.coreId < 32 →
      Retires (.cpySt p r b) s G { s1 with cmds := s1.cmds ++
        [newCmd s G (.copySt ((G.sreg p).setWidth 32) (G.sreg b) (G.sreg (b + 1))) (G.sreg r) rc] } (G.sc.spc + 4)) ∧
    (blockBad rc false ((G.sreg p).setWidth 32) (G.sreg b) (G.sreg (b + 1)) = false → 32 ≤ copiesHeld s1 G.loc.coreId →
      exec (.cpyLd p r b) s = .next s1)

/-- R316 to R318: a gather or scatter whose table, list and rows pass the checks retires with its command queued. -/
def Claim.GatherAndScatterAreQueued : Prop :=
  ∀ (s s1 : State) (G : Group) (w : Who) (p r b : SReg) (rc : ShapeRec) (v u : SpadView) (n : Nat),
    s.group? s.cur = some G → whoScalar s s.cur G = some w → b ≠ 63#6 → (G.sreg p).toNat < 2 ^ 32 → (G.sreg b).toNat < 2 ^ 32 →
    n = (G.sreg (b + 1)).toNat → 1 ≤ n → n ≤ 65536 → useRecord s w G.sc.spc (G.sreg r) = (.ok rc, s1) →
    (rc.described = true → (G.sreg p).toNat % 16 = 0) →
    spadCheck s1 G.bind.team G.loc.coreId ((G.sreg p).setWidth 32) (n * rowBytes rc) (esz rc.elem) = .ok v →
    spadCheck s1 G.bind.team G.loc.coreId ((G.sreg b).setWidth 32) (4 * n) 4 = .ok u → clearingsHeld s1 G.loc.clusterId < 32 →
    (tableGood rc false = true →
      (∃ t, Retires (.gath p r b) s G t (G.sc.spc + 4) ∧ (s1.cur = s.cur →
        Queued s1 t (newCmd s G (.gath ((G.sreg p).setWidth 32) ((G.sreg b).setWidth 32) n) (G.sreg r) rc)
          (v.ranges (spadOff ((G.sreg p).setWidth 32)) (n * rowBytes rc)))) ∧
      Retires (.scat p r b) s G { s1 with cmds := s1.cmds ++
        [newCmd s G (.scat ((G.sreg p).setWidth 32) ((G.sreg b).setWidth 32) n) (G.sreg r) rc] } (G.sc.spc + 4)) ∧
    (tableGood rc true = true →
      Retires (.scatAddI32 p r b) s G { s1 with cmds := s1.cmds ++
        [newCmd s G (.scatAddI ((G.sreg p).setWidth 32) ((G.sreg b).setWidth 32) n) (G.sreg r) rc] } (G.sc.spc + 4) ∧
      Retires (.scatAddF32 p r b) s G { s1 with cmds := s1.cmds ++
        [newCmd s G (.scatAddF ((G.sreg p).setWidth 32) ((G.sreg b).setWidth 32) n) (G.sreg r) rc] } (G.sc.spc + 4))

/-- R325: a walk takes share q of K of its list, from q·n/K to (q+1)·n/K, and returns how many entries that is when it is issued. -/
def Claim.WalkTakesItsShare : Prop :=
  ∀ (s s1 : State) (G : Group) (w : Who) (d r b : SReg) (rc : ShapeRec) (v : SpadView) (p : W32) (cap K q rows n : Nat) (ptr : W64),
    s.group? s.cur = some G → whoScalar s s.cur G = some w → b.toNat < 62 →
    (G.sreg b).toNat = cap * 2 ^ 32 + p.toNat → 1 ≤ cap → cap < 2 ^ 16 → (G.sreg (b + 1)).toNat = rows * 2 ^ 16 + q * 2 ^ 8 + K →
    rows < 2 ^ 24 → q < K → K ≤ 64 → G.sreg (b + 2) = ptr →
    useRecord s w G.sc.spc (G.sreg r) = (.ok rc, s1) → rc.elem = 0 → (q + 1) * n / K - q * n / K ≤ cap →
    spadCheck s1 G.bind.team G.loc.coreId p (8 * cap) 4 = .ok v → clearingsHeld s1 G.loc.clusterId < 32 →
    (rows = 0 → ptr = 0 → rc.rank = 2 → rc.extOf 0 = 2 → rc.extOf 1 = n → ∃ t,
      Retires (.walkCoo d r b) s G (t.modGroup s.cur fun H => H.setS d (BitVec.ofNat 64 ((q + 1) * n / K - q * n / K))) (G.sc.spc + 4) ∧
      (s1.cur = s.cur → Queued s1 t (newCmd s G (.walkCoo p cap (q * n / K) ((q + 1) * n / K)) (G.sreg r) rc)
        (v.ranges (spadOff p) (8 * cap)))) ∧
    (1 ≤ rows → ptr.toNat % 4 = 0 → ptr.toNat < 2 ^ 56 → rc.rank = 1 → rc.extOf 0 = n → ∃ t,
      Retires (.walkCsr d r b) s G (t.modGroup s.cur fun H => H.setS d (BitVec.ofNat 64 ((q + 1) * n / K - q * n / K))) (G.sc.spc + 4) ∧
      (s1.cur = s.cur → Queued s1 t (newCmd s G (.walkCsr p cap (q * n / K) ((q + 1) * n / K) rows ptr) (G.sreg r) rc)
        (v.ranges (spadOff p) (8 * cap))))

/-- R190 to R194, R316 to R318, R325: copies, gathers, scatters and walks. -/
def Obligations.EngineCommandsAreQueued : Prop := Claim.CopyIsQueued ∧ Claim.GatherAndScatterAreQueued ∧ Claim.WalkTakesItsShare

/-- R217, R218: ACCST reads its accumulators when it is issued and queues the store of what it read, while 96 rows of its quadrant stay
available (R122). A register that was in a row keeps its words; a spilled one has been read from its slot. -/
def Obligations.AccumulatorStoreIsQueued : Prop :=
  ∀ (s s1 s2 : State) (G H : Group) (w : Who) (c r b : SReg) (cv : AccConv) (m : Rnd) (rc : ShapeRec) (tiles creg : Nat),
    s.group? s.cur = some G → whoScalar s s.cur G = some w → b ≠ 63#6 → accBad cv (G.sreg c) = false →
    tiles = 2 ^ bitsOf (G.sreg c).toNat 9 8 → creg = bitsOf (G.sreg c).toNat 7 0 →
    (∀ n ∈ halves (G.sreg (b + 1)), n ≠ 0) → useRecord s w G.sc.spc (G.sreg r) = (.ok rc, s1) → rc.nwin = 0 →
    rc.elem = convElem cv → prod (boxSizes rc (G.sreg (b + 1))) = 256 * tiles →
    blockBad rc true 0 (G.sreg b) (G.sreg (b + 1)) = false →
    reserveShort s1 G.loc.quadId ((regsFrom creg (8 * tiles)).filter fun x => !G.pinned.contains x).length = false →
    copiesHeld s1 G.loc.coreId < 32 →
    refetchEach s1 s.cur (regsFrom creg (8 * tiles)) = .ok s2 → s2.group? s.cur = some H →
    ∃ t K, Retires (.accst c r b cv m) s G t (G.sc.spc + 4) ∧ t.cmds = s2.cmds ++
        [newCmd s H (.accst cv m (G.sreg c) (G.sreg b) (G.sreg (b + 1)) (accRead s2 H creg tiles)) (G.sreg r) rc] ∧
      SameOutside { s1 with cmds := t.cmds, groups := t.groups } t ∧ t.spad = s2.spad ∧ t.padw = s2.padw ∧ t.group? s.cur = some K ∧
      K.sc = H.sc ∧ (∀ n, (K.vreg n).val = (H.vreg n).val) ∧ (∀ h, h ≠ s.cur → t.group? h = s2.group? h)

/-- R197: CLOSEB returns the number of the batch that it closes and opens the next, or waits while 64 are outstanding. -/
def Claim.ClosebNumbersBatches : Prop :=
  ∀ (s : State) (G : Group) (d : SReg) (N : Nat), ScalarTurn s G → N = G.eng.batchCtr →
    (((batchesBelow s s.cur N).filter (outstanding s s.cur G)).length < 64 →
      Completes (.closeb d) s s (({ G with eng := { G.eng with batchCtr := N + 1 } } : Group).setS d (BitVec.ofNat 64 (N % 2 ^ 16)))
        (G.sc.spc + 4)) ∧
    (64 ≤ ((batchesBelow s s.cur N).filter (outstanding s s.cur G)).length → exec (.closeb d) s = .next s)

/-- A number n, taken modulo w, covers what the sequence calls m: (n − m) mod w < w/2 (R198, R210). -/
def covers (w n m : Nat) : Bool := decide ((n + w - m % w) % w < w / 2)

/-- A write of scratchpad after a WAITB n of the current group: one of a command of a batch that n covers is ordered for its unit (R204). -/
def seenByWaitb (s : State) (G : Group) (n : Nat) (w : PadWrite) : PadWrite :=
  match w.by_ with
  | .cmd k => if (s.cmds[k]?).any fun c => c.group == s.cur && decide (c.batch < G.eng.batchCtr) && covers (2 ^ 16) n c.batch
    then w.see s.cur else w
  | _ => w

/-- R198, R204: WAITB n covers the group's closed batches m with (n − m) mod 2^16 < 2^15. It waits while a command of one has not
ended; it raises BATCH with the oldest failure not reported yet, which then counts as reported; else it goes on, and what those batches'
commands wrote is ordered for the group's matrix unit. A number of no closed batch raises ILL. -/
def Claim.WaitbReportsItsBatches : Prop :=
  ∀ (s : State) (G : Group) (a : SReg), ScalarTurn s G →
    (∀ n, (G.sreg a).toNat = n → n < 2 ^ 16 → covers (2 ^ 16) n G.eng.batchCtr = false →
      ((∃ c ∈ s.cmds, c.group = s.cur ∧ c.batch < G.eng.batchCtr ∧ covers (2 ^ 16) n c.batch = true ∧ c.ended = false) →
        exec (.waitb a) s = .next s) ∧
      ((∀ c ∈ s.cmds, c.group = s.cur → c.batch < G.eng.batchCtr → covers (2 ^ 16) n c.batch = true →
          c.ended = true ∧ (c.fail = none ∨ c.batch ∈ G.eng.batchRep)) →
        Completes (.waitb a) s (dropEarly { s with padw := s.padw.map (seenByWaitb s G n) } s.cur) G (G.sc.spc + 4)) ∧
      (∀ b c f, (∀ c ∈ s.cmds, c.group = s.cur → c.batch < G.eng.batchCtr → covers (2 ^ 16) n c.batch = true → c.ended = true) →
        ((batchesBelow s s.cur G.eng.batchCtr).filter (covers (2 ^ 16) n)).findSome? (fun b => if G.eng.batchRep.contains b then none
          else (batchFail s s.cur b).map fun p => (b, p)) = some (b, c, f) →
        TrapsScalar (.waitb a) s G (batchRaise b c f) ∧
        ∃ t H, exec (.waitb a) s = .next t ∧ t.group? s.cur = some H ∧ H.eng.batchRep = b :: G.eng.batchRep)) ∧
    ((2 ^ 16 ≤ (G.sreg a).toNat ∨ covers (2 ^ 16) (G.sreg a).toNat G.eng.batchCtr = true) → TrapsScalar (.waitb a) s G (.plain cILL))

/-- R197, R198: CLOSEB and WAITB. -/
def Obligations.Batches : Prop := Claim.ClosebNumbersBatches ∧ Claim.WaitbReportsItsBatches

/-- R189: RCFENCE drops its record, and RCFENCE.all every record, from the group's cluster alone, once the lane stream is idle and older
stores are visible in the cluster. -/
def Claim.RecordFencesDropEntries : Prop :=
  ∀ (s : State) (G : Group) (a : SReg), ScalarTurn s G →
    ((G.sreg a).toNat % 128 ≠ 0 → TrapsScalar (.rcfence a) s G (.at cALIGN 0 (G.sreg a))) ∧
    (G.laneIdle = true → visibleAt s s.cur .cluster = true →
      Completes .rcfenceAll s { s with rcache := s.rcache.filter fun e => e.cluster ≠ G.loc.clusterId } G (G.sc.spc + 4) ∧
      ((G.sreg a).toNat % 128 = 0 → Completes (.rcfence a) s { s with rcache := s.rcache.filter fun e =>
        ¬ (e.cluster = G.loc.clusterId ∧ e.tag = s.asidOf G ∧ e.addr = G.sreg a) } G (G.sc.spc + 4)))

/-! ### Rows, and the matrix unit (R119 to R124, R203 to R214) -/

/-- From s to t only the places of register rows have changed, on behalf of group g and of the registers rs: which registers are mapped
or spilled. A register in a row keeps its words and which of them are undefined, in its row or, once spilled, for its slot; but one of
the registers again of g may have been spilled and read back. A spilled register of another group, or one that is not among rs, stays
as it is; a spilled one among rs may be in a row, with the words of its slot. An unmapped register stays so, or has been given a row,
all of it undefined. Outside memory nothing else has changed. -/
structure OnlyRows (s t : State) (g : Nat) (rs again : List VNum) : Prop where
  rest : SameOutside { s with groups := t.groups } t
  length : t.groups.length = s.groups.length
  groups : ∀ h G, s.group? h = some G → ∃ V, t.group? h = some { G with vec := { G.vec with vregs := V } } ∧
    ∀ n (_ : n < 128), (G.vec.vregs[n].st = .mapped → V[n].st ≠ .unmapped ∧
        (h ≠ g ∨ BitVec.ofNat 7 n ∉ again → V[n].val = G.vec.vregs[n].val ∧ V[n].undef = G.vec.vregs[n].undef)) ∧
      (G.vec.vregs[n].st = .spilled → V[n].st ≠ .unmapped ∧ (h ≠ g ∨ BitVec.ofNat 7 n ∉ rs → V[n] = G.vec.vregs[n])) ∧
      (G.vec.vregs[n].st = .unmapped → V[n].st = .unmapped ∨ V[n].undef = 0xFFFFFFFF#32)

/-- R119, R120: a spill writes the register's 32 words to its slot of the group's spill area, through the cache of the group's core, which
owns them then. -/
def Claim.SpillsFillTheSlot : Prop :=
  ∀ (s : State) (g : Nat) (G : Group) (c : Context) (r : VNum) (i : Nat) (h : i < 32), s.group? g = some G → s.ctxOf G = some c →
    ∃ l, findLine (spillRow s g r) (lineKey (areaPlace (s.useFree 32) c (slotAddr G r 0)).1.tag (slotAddr G r 0 / 4) + i) = some l ∧
      ∃ v, l.st = .owned G.loc.coreId v ∧ ((G.vreg r).undef.getLsbD i = false → v = (G.vreg r).val[i])

/-- R119, R124, R230: a refetch reads the 32 words of the register's slot, and waits while one of them is asked of a die that cannot answer
yet. When it succeeds, the register is in a row and holds them. When one of them is uncorrectable it raises the UE of R124. In a handler
that serves that very failure, a write of the register takes a fresh row with no refetch, and so raises nothing. -/
def Claim.RefetchReadsTheSlot : Prop :=
  ∀ (s s0 s1 : State) (g : Nat) (G : Group) (excl : List VNum) (r : VNum) (ws : List (Option W32)), s.group? g = some G →
    (G.vreg r).st = .spilled →
    (slotBusy s G r = (true, s0) → refetch s g excl r = .wait s0 true) ∧
    (servesRefetch G r = true → ∀ t x, ensureRows s g [] [r] true ≠ .trap t x) ∧
    (slotBusy s G r = (false, s0) → slotWords s0 G r = (ws, s1) →
    (∀ t, refetch s g excl r = .ok t → ∃ H, t.group? g = some H ∧ (H.vreg r).st = .mapped ∧
      ∀ i (h : i < 32) x, ws[i]? = some (some x) → (H.vreg r).val[i] = x ∧ (H.vreg r).undef.getLsbD i = false) ∧
    ((∃ i < 32, ∀ x, ws[i]? ≠ some (some x)) → refetch s g excl r = .trap s1 (refetchRaise G r (lostLanes ws))))

/-- R119 to R122: making rows ready, with all the spills, refetches and victims of other groups that it takes, changes no register's
value in any group; memory changes only by what spills write. -/
def Obligations.SpillsKeepValues : Prop :=
  (∀ (s : State) (g : Nat) (reads writes : List VNum) (partly : Bool),
    (∀ t, ensureRows s g reads writes partly = .ok t → OnlyRows s t g (reads ++ writes) []) ∧
    (∀ t, refetchEach s g reads = .ok t → OnlyRows s t g reads reads) ∧
    (∀ t, pinRows s g reads = .ok t → OnlyRows s t g reads [])) ∧
  Claim.SpillsFillTheSlot ∧ Claim.RefetchReadsTheSlot

/-- R203, R204: ORF waits for the lane stream; then no vector register of the group is unordered any more, and its scratchpad stores are
ordered for its matrix unit. What commands, transforms of the unit and other groups wrote stays as it is, and no value changes. -/
def Claim.OrfOrdersLaneWrites : Prop :=
  ∀ (s : State) (G : Group), ScalarTurn s G →
    (G.laneIdle = true → ∃ V, Completes .orf s
        { s with padw := s.padw.map fun w => if w.writer = s.cur ∧ w.by_ = .store then w.see s.cur else w }
        { G with vec := { G.vec with vregs := V } } (G.sc.spc + 4) ∧
      ∀ n (_ : n < 128), V[n] = { G.vec.vregs[n] with loose := false }) ∧
    (G.laneIdle = false → laneStuck s s.cur G = false → exec .orf s = .next s) ∧
    (G.laneIdle = false → laneStuck s s.cur G = true → TrapsScalar .orf s G (.plain cILL))

/-- R189, R203, R204, R274, R276: SYNCQ, FENCE, RCFENCE and ORF.
The model's choices in it: log 104. -/
def Obligations.OrderingInstructions : Prop :=
  Claim.FencesWaitForTheirScope ∧ Claim.RecordFencesDropEntries ∧ Claim.OrfOrdersLaneWrites ∧ Claim.AcquireAndRelease

/-- The state t of an MMQ on group G in state s, once its rows were ready and pinned in s2: its operation m is in flight, its token has
been returned, every register has the words that it had in s2, and memory has changed by spills and refetches alone. -/
structure OpQueued (s s2 t : State) (G : Group) (d : SReg) (m : MOp) : Prop where
  rest : SameOutside { s with groups := t.groups, qmeets := t.qmeets } t
  group : ∃ H K : Group, s2.group? s.cur = some H ∧ t.group? s.cur = some (K.setS d (BitVec.ofNat 64 (G.eng.tokCtr % 256))) ∧
    m ∈ K.eng.mops ∧ K.eng.tokCtr = G.eng.tokCtr + 1 ∧ K.sc = G.sc ∧ ∀ n, (K.vreg n).val = (H.vreg n).val

/-- R122, R205, R206, R216: MMQ and MMQ.quad whose descriptor, scratchpad tiles, rows and places in the unit are in order queue one
operation in flight, the last of its quadrant, which pins its registers, and return its token, its number modulo 256. -/
def Claim.MatrixOperationIsQueued : Prop :=
  ∀ (s s1 s2 : State) (G : Group) (d a b : SReg) (ty : MTy) (quad ck sz hf : Bool) (ra rb rc rk : List VNum),
    s.group? s.cur = some G → descBad ty quad ck b (G.sreg a) = false →
    tileRaise s G ty (if taperedTy ty then G.sreg b else 0) = none →
    descRegs ty quad ck (G.sreg a) = (ra, rb, rc, rk) →
    refetchEach s s.cur (ra ++ rb ++ rc ++ rk) = .ok s1 →
    (G.pinned ++ (ra ++ rb ++ rc ++ rk)).eraseDups.length ≤ min G.bind.budget 192 → inFlight G < 4 →
    quadFlight s1 G.loc.quadId < 8 →
    quadPinned s1 G.loc.quadId + ((G.pinned ++ (ra ++ rb ++ rc ++ rk)).eraseDups.length - G.pinned.length) ≤ 672 →
    reserveShort s1 G.loc.quadId ((G.pinned ++ (ra ++ rb ++ rc ++ rk)).eraseDups.length - G.pinned.length) = false →
    pinRows s1 s.cur (ra ++ rb ++ rc ++ rk) = .ok s2 →
    ∃ m : MOp, m.num = G.eng.tokCtr ∧ m.ord = nextOrd s2 G.loc.quadId ∧ m.st = .flight ∧ m.ra = ra ∧ m.rb = rb ∧ m.rc = rc ∧
      m.rk = rk ∧ m.reported = false ∧ m.src = ⟨G.sreg a, if taperedTy ty then G.sreg b else 0, mmqFunc ty quad ck sz hf⟩ ∧
      (quad = false → ∃ t, Retires (.mmq d a b ty ck sz hf) s G t (G.sc.spc + 4) ∧
        OpQueued s s2 t G d { m with kind := .mmq ty ck hf (G.sreg a) (if taperedTy ty then G.sreg b else 0) none }) ∧
      (quad = true → ∀ n s3, joinQuad s2 s.cur G ty ck sz hf (G.sreg a) = some (n, s3) → ∃ t,
        Retires (.mmqQuad d a b ty ck sz hf) s G t (G.sc.spc + 4) ∧
        OpQueued s s2 t G d { m with kind := .mmq ty ck hf (G.sreg a) (if taperedTy ty then G.sreg b else 0) (some n) })

/-- R214: HAD on a tile that the group may access queues its transform and returns its token. -/
def Claim.HadamardIsQueued : Prop :=
  ∀ (s : State) (G : Group) (d a b : SReg) (ty : HTy) (rows k : Nat) (v : SpadView), ScalarTurn s G →
    (G.sreg b).toNat = rows * 2 ^ 8 + k → 1 ≤ rows → rows < 2 ^ 12 → k < 3 →
    spadCheck s G.bind.team G.loc.coreId ((G.sreg a).setWidth 32) (rows * (16 * 2 ^ k) * hadEsz ty) 16 = .ok v →
    (inFlight G < 4 → quadFlight s G.loc.quadId < 8 → ∃ x,
      Completes (.had d a b ty) s s (({ G with eng := { G.eng with tokCtr := G.eng.tokCtr + 1, mops := G.eng.mops ++
        [⟨G.eng.tokCtr, nextOrd s G.loc.quadId, .had ty ((G.sreg a).setWidth 32) rows (16 * 2 ^ k), .flight, [], [], [], [], x, false,
          ⟨G.sreg a, G.sreg b, ty.code⟩⟩] } } : Group).setS d
          (BitVec.ofNat 64 (G.eng.tokCtr % 256))) (G.sc.spc + 4)) ∧
    (4 ≤ inFlight G ∨ 8 ≤ quadFlight s G.loc.quadId → exec (.had d a b ty) s = .next s)


/-- R210: MWAIT n covers the group's operations m with (n − m) mod 256 < 128. It waits while one is in flight; it raises FMT for the
first that failed and is not reported, which is then reported; else those operations are done with, their registers are free again, what
their transforms wrote counts as the group's own stores (R204), and sd says whether a meeting was dissolved. -/
def Claim.MwaitReportsItsOperations : Prop :=
  ∀ (s : State) (G : Group) (d a : SReg), ScalarTurn s G →
    (∀ n, (G.sreg a).toNat = n → n < 256 → covers 256 n G.eng.tokCtr = false →
      ((∃ m ∈ G.eng.mops, covers 256 n m.num = true ∧ m.st = .flight) → exec (.mwait d a) s = .next s) ∧
      ((∀ m ∈ G.eng.mops, covers 256 n m.num = true → m.st ≠ .flight) →
        (∀ m p k, G.eng.mops.find? (fun m => covers 256 n m.num && !m.reported && match m.st with
            | .failed _ _ => true
            | _ => false) = some m → m.st = .failed p k → TrapsScalar (.mwait d a) s G (fmtRaise m p k)) ∧
        ((∀ m ∈ G.eng.mops, covers 256 n m.num = true → m.reported = true ∨ ∀ p k, m.st ≠ .failed p k) →
          Completes (.mwait d a) s (s.waited s.cur ((G.eng.mops.filter fun m => covers 256 n m.num).map (·.num))) ((({ G with eng := { G.eng with
            mops := G.eng.mops.filter fun m => !covers 256 n m.num } } : Group).settleFlips).setS d
              (if G.eng.mops.any fun m => covers 256 n m.num && m.st == .dissolved then 1 else 0)) (G.sc.spc + 4)))) ∧
    ((256 ≤ (G.sreg a).toNat ∨ covers 256 (G.sreg a).toNat G.eng.tokCtr = true) → TrapsScalar (.mwait d a) s G (.plain cILL))

/-! ### Collectives (R389 to R392) -/

/-- R205, R206, R210, R214: MMQ, MMQ.quad, HAD and MWAIT. -/
def Obligations.MatrixOperations : Prop := Claim.MatrixOperationIsQueued ∧ Claim.HadamardIsQueued ∧ Claim.MwaitReportsItsOperations

/-- KIND, operation and SWA of a COLL instruction (R389). -/
def collParts (i : Instr) : Option (SReg × SReg × SReg × BitVec 3 × BitVec 2 × Bool) :=
  match i with
  | .collAllreduce d a b op swa => some (d, a, b, 0, (match op with | .add => 0 | .min => 1 | .max => 2), swa)
  | .collReduceScatter d a b op swa => some (d, a, b, 1, (match op with | .add => 0 | .min => 1 | .max => 2), swa)
  | .collAllgather d a b => some (d, a, b, 2, 0, false)
  | .collBroadcast d a b => some (d, a, b, 3, 0, false)
  | _ => none

/-- R390: a COLL on a communicator of its context whose descriptor and record pass the checks returns its number modulo 256 and is
outstanding then, as the next COLL on its communicator. -/
def Claim.CollectiveIsIssued : Prop :=
  ∀ (s s1 : State) (G : Group) (w : Who) (i : Instr) (d a b : SReg) (kind : BitVec 3) (op : BitVec 2) (swa : Bool) (m : Comm) (rc : ShapeRec),
    s.group? s.cur = some G → whoScalar s s.cur G = some w → collParts i = some (d, a, b, kind, op, swa) →
    commOf w.ctx (bitsOf (G.sreg b).toNat 15 0) = some m → collBad kind op swa (G.sreg b) m = false →
    useRecord s w G.sc.spc (G.sreg a) = (.ok rc, s1) →
    collRecordBad kind op swa (bitsOf (G.sreg b).toNat 27 26) m rc = false →
    ((G.eng.colls.filter fun c => c.status.isNone).length < 16 →
      Retires i s G ((s1.modComm G.bind.ctx m.idx fun m => { m with count := m.count + 1 }).setGroup s.cur
        (({ G with eng := { G.eng with collCtr := G.eng.collCtr + 1, colls := G.eng.colls ++
          [⟨G.eng.collCtr, m.idx, m.count, kind, op, swa, (G.sreg b).extractLsb' 26 2, (G.sreg b).extractLsb' 28 8,
            bitsOf (G.sreg b).toNat 25 16, rc.base, rc.extOf 0, none, [], [], none, 0, none, false⟩] } } : Group).setS d
          (BitVec.ofNat 64 (G.eng.collCtr % 256)))) (G.sc.spc + 4)) ∧
    (16 ≤ (G.eng.colls.filter fun c => c.status.isNone).length → exec i s = .next s1)

/-- R392: WAITC n covers the group's collectives m with (n − m) mod 256 < 128. It waits while one has not completed; then it returns the
status of the oldest one whose failure it has not reported, else that of n (the latest of that number), and counts it as reported. For a
number that no collective has had, and nothing to report, sd receives a value that the model leaves open (log 35). -/
def Claim.WaitcReportsItsCollectives : Prop :=
  ∀ (s : State) (G : Group) (d a : SReg), ScalarTurn s G →
    (∀ n, (G.sreg a).toNat = n → n < 256 → covers 256 n G.eng.collCtr = false →
      ((∃ c ∈ G.eng.colls, covers 256 n c.num = true ∧ c.status = none) → exec (.waitc d a) s = .next s) ∧
      ((∀ c ∈ G.eng.colls, covers 256 n c.num = true → c.status ≠ none) → ∀ c x, c.status = some x →
        (G.eng.colls.find? (fun c => covers 256 n c.num && !c.reported && c.status.any collFailed) = some c ∨
         G.eng.colls.find? (fun c => covers 256 n c.num && !c.reported && c.status.any collFailed) = none ∧
           G.eng.colls.reverse.find? (fun c => decide (c.num % 256 = n)) = some c) →
        Completes (.waitc d a) s (dropEarly s s.cur) ((G.setColl c.num fun c => { c with reported := true }).setS d x) (G.sc.spc + 4)) ∧
      ((∀ c ∈ G.eng.colls, covers 256 n c.num = true → c.status.isSome = true ∧ (c.reported = true ∨ c.status.any collFailed = false)) →
        (∀ c ∈ G.eng.colls, c.num % 256 ≠ n) →
        Completes (.waitc d a) s ((dropEarly s s.cur).useFree 1) (G.setS d (freeAt s 0)) (G.sc.spc + 4))) ∧
    ((256 ≤ (G.sreg a).toNat ∨ covers 256 (G.sreg a).toNat G.eng.collCtr = true) → TrapsScalar (.waitc d a) s G (.plain cILL))

/-- R389, R390, R392: COLL and WAITC. -/
def Obligations.Collectives : Prop := Claim.CollectiveIsIssued ∧ Claim.WaitcReportsItsCollectives

/-! ### Deeds (R175 to R178) -/

/-- R176: what GIVE answers where it refuses, and what it does where it does not. A new deed takes the next serial of its core and goes
into transit to the named core, once the lane stream is idle, the group's copies over its banks are done and its stores are visible in
the cluster; a held deed goes on to the named core, and to the end of the list of deeds (log 95, the model's choice). GIVE is a release
(R268). -/
def Claim.GiveTransfersBanks : Prop :=
  ∀ (s : State) (G : Group) (t : Team) (d a b : SReg) (target : Nat), ScalarTurn s G → s.teamOf G = some t →
    target = G.loc.coreId / 64 * 64 + (G.sreg b).toNat →
    bitsOf (G.sreg a).toNat 63 32 = 0 → bitsOf (G.sreg a).toNat 6 0 = 0 → hCount (G.sreg a) ≠ 0 →
    (64 ≤ (G.sreg b).toNat ∨ coreOn s target = false ∨ target = G.loc.coreId →
      Completes (.give d a b) s s (G.setS d (BitVec.ofNat 64 (2 ^ 63 + 4))) (G.sc.spc + 4)) ∧
    ((G.sreg b).toNat < 64 → coreOn s target = true → target ≠ G.loc.coreId →
      (hSeq (G.sreg a) = 0 →
        (hOrigin (G.sreg a) ≠ G.loc.coreId % 64 ∨ (teamBanks t G.loc.coreId).length < hFirst (G.sreg a) + hCount (G.sreg a) →
          Completes (.give d a b) s s (G.setS d (BitVec.ofNat 64 (2 ^ 63 + 1))) (G.sc.spc + 4)) ∧
        (hOrigin (G.sreg a) = G.loc.coreId % 64 → hFirst (G.sreg a) + hCount (G.sreg a) ≤ (teamBanks t G.loc.coreId).length →
          ((∃ e ∈ s.deeds, e.core = G.loc.coreId ∧ e.creator = G.bind.team ∧ hFirst (G.sreg a) < e.first + e.count ∧
              e.first < hFirst (G.sreg a) + hCount (G.sreg a)) →
            Completes (.give d a b) s s (G.setS d (BitVec.ofNat 64 (2 ^ 63 + 2))) (G.sc.spc + 4)) ∧
          ((∀ e ∈ s.deeds, e.core = G.loc.coreId → e.creator = G.bind.team → ¬ (hFirst (G.sreg a) < e.first + e.count ∧
              e.first < hFirst (G.sreg a) + hCount (G.sreg a))) →
            (16 ≤ (s.deeds.filter fun e => e.origin == G.loc.coreId).length →
              Completes (.give d a b) s s (G.setS d (BitVec.ofNat 64 (2 ^ 63 + 3))) (G.sc.spc + 4)) ∧
            ((s.deeds.filter fun e => e.origin == G.loc.coreId).length < 16 → G.laneIdle = true →
              copiesMeet s s.cur G.bind.team (bankRanges t G.loc.coreId (hFirst (G.sreg a)) (hCount (G.sreg a))) = false →
              visibleAt s s.cur .cluster = true → ∃ (e : Deed) (L : List (Nat × BitVec 8)),
                e = ⟨G.loc.coreId, G.loc.coreId, nextSerial s G.loc.coreId, hFirst (G.sreg a), hCount (G.sreg a), G.bind.ctx, G.bind.team,
                  .transit target⟩ ∧
                L = (G.loc.coreId, nextSerial s G.loc.coreId) :: s.serials.filter (fun p => p.1 != G.loc.coreId) ∧
                Completes (.give d a b) s (padRelease (padDrop { s with
                  deeds := s.deeds.filter (fun x => x != { e with st := .transit G.loc.coreId }) ++ [e]
                  serials := L } (.deed e.handle)) s.cur (.deed e.handle)) (G.setS d e.handle) (G.sc.spc + 4))))) ∧
      (hSeq (G.sreg a) ≠ 0 →
        (s.deeds.find? (fun e => e.named G.loc.clusterId G.bind.ctx (G.sreg a) && e.st == .held G.bind.team G.loc.coreId) = none →
          Completes (.give d a b) s s (G.setS d (BitVec.ofNat 64 (2 ^ 63 + 1))) (G.sc.spc + 4)) ∧
        (∀ e, s.deeds.find? (fun e => e.named G.loc.clusterId G.bind.ctx (G.sreg a) && e.st == .held G.bind.team G.loc.coreId) = some e →
          G.laneIdle = true → copiesMeet s s.cur G.bind.team (bankRanges ((s.teams[e.creator]?).getD t) e.core e.first e.count) = false →
          visibleAt s s.cur .cluster = true →
          Completes (.give d a b) s
            (padRelease (padDrop { s with deeds := s.deeds.filter (fun x => x != e) ++ [{ e with st := .transit target }] } (.deed e.handle))
              s.cur (.deed e.handle))
            (G.setS d e.handle) (G.sc.spc + 4))))

/-- R177: TAKE accepts the oldest deed in transit to its core, or the one named: it holds the deed then, or has its own banks back, and
returns the handle, and is an acquire (R268); it returns 0 where there is none. That a deed's age counts from its last GIVE, which moves
it to the end of the list, is the model's choice (log 95). -/
def Claim.TakeAcceptsDeeds : Prop :=
  ∀ (s : State) (G : Group) (d a : SReg), ScalarTurn s G →
    (takeFind s G (G.sreg a) = none → Completes (.take d a) s s (G.setS d 0) (G.sc.spc + 4)) ∧
    (∀ e, takeFind s G (G.sreg a) = some e →
      (e.core = G.loc.coreId → e.creator = G.bind.team →
        Completes (.take d a) s (padDrop (acquired { s with deeds := s.deeds.filter fun x => x != e } s.cur (· == .deed e.handle))
          (.deed e.handle)) (G.setS d e.handle)
          (G.sc.spc + 4)) ∧
      (¬ (e.core = G.loc.coreId ∧ e.creator = G.bind.team) →
        Completes (.take d a) s (padDrop (acquired { s with deeds := s.deeds.map fun x =>
          if x = e then { x with st := .held G.bind.team G.loc.coreId } else x } s.cur (· == .deed e.handle)) (.deed e.handle)) (G.setS d e.handle) (G.sc.spc + 4)))

/-- R178 (and log 96, for a deed that the asking team holds on another core): DEEDQ of a handle: 0 in bits 1:0 for none, 1 held by the
asking team on its core, 2 in transit, 3 held by another, and the core that it is in transit to or held on in bits 13:8. -/
def Claim.DeedqReportsDeeds : Prop :=
  ∀ (s : State) (G : Group) (d a : SReg), ScalarTurn s G →
    (s.deeds.find? (fun e => e.named G.loc.clusterId G.bind.ctx (G.sreg a)) = none →
      Completes (.deedq d a) s s (G.setS d 0) (G.sc.spc + 4)) ∧
    (∀ e, s.deeds.find? (fun e => e.named G.loc.clusterId G.bind.ctx (G.sreg a)) = some e → ∃ (k : Nat) (c : Nat),
      Completes (.deedq d a) s s (G.setS d (BitVec.ofNat 64 (k + 256 * (c % 64)))) (G.sc.spc + 4) ∧
      (e.st = .transit c ∧ k = 2 ∨ e.st = .held G.bind.team G.loc.coreId ∧ c = G.loc.coreId ∧ k = 1 ∨
        ∃ t, e.st = .held t c ∧ (t ≠ G.bind.team ∨ c ≠ G.loc.coreId) ∧ k = 3))

/-- R175 to R178: GIVE, TAKE and DEEDQ.
The model's choices in it: log 95 and 96. -/
def Obligations.Deeds : Prop := Claim.GiveTransfersBanks ∧ Claim.TakeAcceptsDeeds ∧ Claim.DeedqReportsDeeds

/-! ### Existence tiles (R309 to R311) -/

/-- R309: ERASE of a present tile returns its frame to its pool, makes the tile absent with its region kept, and drops every cached word
of it unwritten; it returns 1. An absent tile stays absent, and 0 is returned. While stores to the tile are in queues it waits. On a page
that is not sparse it raises ILL. -/
def Claim.EraseRemovesTiles : Prop :=
  ∀ (s s1 : State) (G : Group) (w : Who) (d a : SReg) (l : W64) (big : Bool) (va key ex : Nat), s.group? s.cur = some G →
    whoScalar s s.cur G = some w → va = (G.sreg a).toNat → va < 2 ^ 56 → va % 4096 = 0 →
    FirstTry s (.scalar s.cur) G.sc.spc → xlate s w.ctx va .write = (.ok l big, s1) → key = lineKey (leafTag w.ctx.asid l) (va / 4) →
    ex = mapEntry l big va →
    (leafSparse l = true → tileHeld s1 key ex = false →
      (∀ f r s2 s3, readExist s1 w.ctx (mapEntry l big va) big = (.present f r, s2) →
        poolReturn (dropEarly s2 s.cur) w.ctx r (BitVec.ofNat 27 (f / 4096)) = (true, s3) →
        Retires (.erase d a) s G ((recordSectors (dramWrite64 (dropTile s3 key) (mapEntry l big va) (zext64 r <<< 48)) w.ctxNo va 32).modGroup
          s.cur fun H => H.setS d 1) (G.sc.spc + 4)) ∧
      (∀ r s2, readExist s1 w.ctx (mapEntry l big va) big = (.absent r, s2) →
        Retires (.erase d a) s G ((recordSectors (dropTile (dropEarly s2 s.cur) key) w.ctxNo va 32).modGroup s.cur fun H => H.setS d 0) (G.sc.spc + 4))) ∧
    (leafSparse l = true → tileHeld s1 key ex = true → exec (.erase d a) s =
      .next (logOps s1 ⟨G.loc.quadId, .scalar s.cur, G.sc.spc, none, 0, splat (G.sreg a), splat 0, splat 0⟩)) ∧
    (leafSparse l = false → s1.group? s.cur = some G →
      exec (.erase d a) s = .next (scalarTrap (clearParty s1 (.scalar s.cur) G.sc.spc) s.cur G (.plain cILL)))

/-- R311, R313: XPROBE says whether a tile exists, with its region in bits 15:8, which XPOOL reports on then; on a page that is not sparse
it returns 2. -/
def Claim.XprobeReportsTiles : Prop :=
  ∀ (s s1 : State) (G : Group) (w : Who) (d a : SReg) (l : W64) (big : Bool) (va : Nat), s.group? s.cur = some G →
    whoScalar s s.cur G = some w → FirstTry s (.scalar s.cur) G.sc.spc → va = (G.sreg a).toNat → va < 2 ^ 56 →
    xlate s w.ctx va .read = (.ok l big, s1) →
    (leafSparse l = false → Retires (.xprobe d a) s G (s1.modGroup s.cur fun H => H.setS d 2) (G.sc.spc + 4)) ∧
    (leafSparse l = true →
      (∀ f r s2, readExist s1 w.ctx (mapEntry l big va) big = (.present f r, s2) → Retires (.xprobe d a) s G (s2.modGroup s.cur fun H =>
        ({ H with wait := { H.wait with region := some r } } : Group).setS d (BitVec.ofNat 64 (r.toNat * 256 + 1))) (G.sc.spc + 4)) ∧
      (∀ r s2, readExist s1 w.ctx (mapEntry l big va) big = (.absent r, s2) → Retires (.xprobe d a) s G (s2.modGroup s.cur fun H =>
        ({ H with wait := { H.wait with region := some r } } : Group).setS d (BitVec.ofNat 64 (r.toNat * 256))) (G.sc.spc + 4)))

/-- R309, R311, R313: ERASE and XPROBE. -/
def Obligations.ExistenceTiles : Prop := Claim.EraseRemovesTiles ∧ Claim.XprobeReportsTiles

/-! ### Launches and items (R97, R107, R114, R115) -/

/-- R97, R98, R107: LAUNCH reads its record with the lane stream idle and older stores visible in the part. An acceptable record takes a
free entry of its context's launch table, under the next number, which sd receives; a refused one changes nothing and sd receives its
code with bit 63. -/
def Claim.LaunchIsAcceptedOrRefused : Prop :=
  ∀ (s s1 : State) (G : Group) (w : Who) (d a : SReg) (ws : List W32) (c : Context), s.group? s.cur = some G →
    (G.sreg a).toNat % 128 = 0 → G.laneIdle = true → visibleAt s s.cur .device = true → whoScalar s s.cur G = some w →
    readWordsAt s w (scalarDbg G) G.sc.spc (G.sreg a).toNat 32 = (.ok ws, s1) → s1.contexts[G.bind.ctx]? = some c →
    (launchCode s1 G.bind.ctx ws 1 = 0 → ∃ t : State, Retires (.launch d a) s G (t.modGroup s.cur fun H => H.setS d c.launchSeq) (G.sc.spc + 4) ∧
      (∃ k < 1024, (∀ l ∈ s1.launches, l.ctx = G.bind.ctx → l.holds s1 = true → l.idx ≠ k) ∧
        t.launches = s1.launches ++ [⟨G.bind.ctx, k, c.launchSeq, parseLaunch ws, (parseLaunch ws).deps.map fun _ => false,
          (parseLaunch ws).deps.map fun _ => false, none, 0, 0, s1.cycle, .accepted, false⟩]) ∧
      t.contexts[G.bind.ctx]? = some { c with launchSeq := c.launchSeq + 1 } ∧
      t = { s1 with launches := t.launches, contexts := t.contexts }) ∧
    (launchCode s1 G.bind.ctx ws 1 ≠ 0 → Retires (.launch d a) s G (s1.modGroup s.cur fun H =>
      H.setS d (BitVec.ofNat 64 (2 ^ 63 + launchCode s1 G.bind.ctx ws 1))) (G.sc.spc + 4))

/-- R97, R102, R103: LAUNCH.graph returns what the check of its header, nodes and edges gives: the instance's number, or its code with
bit 63. An accepted graph has one launch for each node; that all of them carry the instance's number is the model's choice (log 38). -/
def Claim.GraphLaunchIsAcceptedOrRefused : Prop :=
  ∀ (s s1 : State) (G : Group) (w : Who) (d a : SReg) (ws : List W32), s.group? s.cur = some G →
    (G.sreg a).toNat % 128 = 0 → G.laneIdle = true → visibleAt s s.cur .device = true → whoScalar s s.cur G = some w →
    readWordsAt s w (scalarDbg G) G.sc.spc (G.sreg a).toNat 32 = (.ok ws, s1) →
    (∀ k q s2, submitGraph none s1 G.bind.ctx (G.sreg a) ws = (k, q, s2) → Retires (.launchGraph d a) s G (s2.modGroup s.cur fun H =>
      H.setS d (if k = 0 then q else BitVec.ofNat 64 (2 ^ 63 + k))) (G.sc.spc + 4)) ∧
    (∀ q s2, submitGraph none s1 G.bind.ctx (G.sreg a) ws = (0, q, s2) → ∃ ns I, s2.launches = s1.launches ++ ns ∧
      s2.graphs = s1.graphs ++ [I] ∧ ns.length = graphNodes ws ∧ (∀ l ∈ ns, l.seq = q ∧ l.ctx = G.bind.ctx ∧ l.st = .accepted) ∧
      I.seq = q ∧ I.hdr = G.sreg a ∧ I.edges.length = graphEdges ws ∧ I.ended = false ∧ I.due = false ∧
      ∀ l ∈ ns, l.idx < 1024)

/-- R97, R98, R102, R103, R107: LAUNCH and LAUNCH.graph.
The model's choices in it: log 38. -/
def Obligations.Launches : Prop := Claim.LaunchIsAcceptedOrRefused ∧ Claim.GraphLaunchIsAcceptedOrRefused

/-- R115: the item queue of a group whose launch has items. ITEMQ.put appends a range and returns 1, returns 0 where the queue is closed
or full, and raises ILL for a range that runs past 2^32; ITEMQ.count returns the items that wait; ITEMQ.close closes the queue. -/
def Obligations.ItemQueueInstructions : Prop :=
  ∀ (s : State) (G : Group) (t : Team) (q : ItemQueue) (d a b : SReg), ScalarTurn s G → s.teamOf G = some t → hasItems s G = true →
    itemQueue t G.loc.coreId = some q →
    Completes (.itemqCount d) s s (G.setS d (BitVec.ofNat 64 (q.ranges.map fun r => r.2.toNat).sum)) (G.sc.spc + 4) ∧
    Completes .itemqClose s (s.setQueue G.bind.team { q with closed := true }) G (G.sc.spc + 4) ∧
    ((G.sreg a).toNat < 2 ^ 32 → (G.sreg b).toNat < 2 ^ 32 → (G.sreg a).toNat + (G.sreg b).toNat ≤ 2 ^ 32 →
      (G.sreg b = 0 → Completes (.itemqPut d a b) s s (G.setS d 1) (G.sc.spc + 4)) ∧
      (G.sreg b ≠ 0 → q.closed = true ∨ 16 ≤ q.ranges.length → Completes (.itemqPut d a b) s s (G.setS d 0) (G.sc.spc + 4)) ∧
      (G.sreg b ≠ 0 → q.closed = false → q.ranges.length < 16 → Completes (.itemqPut d a b) s (s.setQueue G.bind.team
        { q with ranges := q.ranges ++ [((G.sreg a).setWidth 32, (G.sreg b).setWidth 32)] }) (G.setS d 1) (G.sc.spc + 4))) ∧
    (2 ^ 32 ≤ (G.sreg a).toNat ∨ 2 ^ 32 ≤ (G.sreg b).toNat ∨ 2 ^ 32 < (G.sreg a).toNat + (G.sreg b).toNat →
      TrapsScalar (.itemqPut d a b) s G (.plain cILL))

/-- R109, R167: EXIT ends a group that is in no BRC meeting: it leaves its slot and its team, its runs, vote entries and pending causes are
gone, and its team has 32 live threads fewer. No byte of memory or scratchpad changes. In a meeting it waits. -/
def Obligations.ExitEndsTheGroup : Prop :=
  ∀ (s : State) (G : Group) (t : Team), s.group? s.cur = some G → s.teamOf G = some t →
    (meetOf s s.cur = none → ∃ s' H t', exec .exit s = .next s' ∧ s'.group? s.cur = some H ∧ H.status = .exited ∧ H.inSlot = false ∧
      H.lane.run = none ∧ H.lane.dq = [] ∧ H.lane.vp = [] ∧ H.trap.cause = 0 ∧ H.bind = G.bind ∧ H.sc.spc = G.sc.spc + 4 ∧
      s'.teams[G.bind.team]? = some t' ∧ t'.live = t.live - 32 ∧ t'.groups = t.groups ∧
      s'.dram = s.dram ∧ s'.synd = s.synd ∧ s'.lines = s.lines ∧ s'.sq = s.sq ∧ s'.spad = s.spad ∧
      (t.ended = false → t'.ended = true → ∀ h ∈ t.groups, ∀ K, s'.group? h = some K → K.gone = true)) ∧
    (meetOf s s.cur ≠ none → exec .exit s = .next s)

/-! ### System registers (R57, R69, R70) -/

/-- The value of a listed register of group G in context c and tenant t: R18, R95, R121, R141, R194, R279, R290, R292, R295, R332 to
R334, R344, R347, R358, R365, R403. -/
def systemValue (s : State) (G : Group) (c : Context) (t : Tenant) (sel : Nat) : Option W64 :=
  match sel with
  | 0x001 => some s.units
  | 0x002 => some G.loc.reg
  | 0x003 => some G.bind.gidx
  | 0x004 => some G.bind.dbase
  | 0x005 => some s.cycle
  | 0x010 => some G.trap.cause
  | 0x011 => some G.trap.epcs
  | 0x012 => some G.trap.epcl
  | 0x013 => some (match G.trap.recs.toList.getD G.trap.cur none with
    | some r => BitVec.ofNat 64 (r.info.toNat / 2 ^ 32)
    | none => 0)
  | 0x014 => some (G.bind.area + BitVec.ofNat 64 (16896 + 384 * G.trap.cur))
  | 0x015 => some (BitVec.ofNat 64 (4 * c.hbase.toNat + if c.hbaseEn then 1 else 0))
  | 0x016 => some (BitVec.ofNat 64 G.dbg.stepm.toNat)
  | 0x017 => some G.dbg.waddr
  | 0x018 => some (BitVec.ofNat 64 G.dbg.wctl.toNat)
  | 0x019 => some c.calla
  | 0x020 => some (BitVec.ofNat 64 G.sc.fpctl.toNat)
  | 0x021 => some (BitVec.ofNat 64 G.sc.fpstat.toNat)
  | 0x022 => some (BitVec.ofNat 64 (G.spilled * 2 ^ 30 + G.pinned.length * 2 ^ 20 + G.held * 2 ^ 10 + G.bind.budget))
  | 0x023 => some G.bind.area
  | 0x030 => some (BitVec.ofNat 64 c.asid.toNat)
  | 0x031 => some (BitVec.ofNat 64 c.xlctl.toNat)
  | 0x032 => some (BitVec.ofNat 64 (c.deltaBase.toNat * 2 ^ 16 + c.deltaLogn.toNat))
  | 0x033 => some (fresvReg c)
  | 0x034 => some (BitVec.ofNat 64 G.sc.scout.toNat)
  | 0x050 => some (tenantReg t)
  | 0x051 => some (vacateReg s t)
  | _ => none

/-- R57, R70: what the selectors of a handler and of a privileged context are. -/
def mayRead (G : Group) (c : Context) (sel : Nat) : Prop :=
  (sel ∈ [0x010, 0x011, 0x012, 0x013, 0x014] → G.trap.hmode = true) ∧
  (sel ∈ [0x015, 0x016, 0x017, 0x018, 0x023, 0x032] → c.priv = true)
def mayWrite (G : Group) (c : Context) (sel : Nat) : Prop := mayRead G c sel ∧ (sel ∈ [0x031, 0x051] → c.priv = true)

/-- R69, R70: GETC of every listed register that the code may read returns its value, zero-extended, and changes nothing else. FPSTAT and
XPOOL are read once the lane stream is idle. R313: XPOOL is NONE before any region was named, else the region last named with the FREE
and CAP of its descriptor. -/
def Obligations.SystemRegisterRead : Prop :=
  ∀ (s : State) (G : Group) (c : Context) (t : Tenant) (d : SReg) (sel : Nat) (v : W64), ScalarTurn s G → s.ctxOf G = some c →
    tenantOf s G.bind.ctx = some t →
    (systemValue s G c t sel = some v → mayRead G c sel → sel ≠ 0x021 →
      Completes (.getc d (BitVec.ofNat 13 sel)) s s (G.setS d v) (G.sc.spc + 4)) ∧
    (G.laneIdle = true → Completes (.getcFpstat d) s s (G.setS d (BitVec.ofNat 64 G.sc.fpstat.toNat)) (G.sc.spc + 4)) ∧
    (G.laneIdle = true → G.wait.region = none → Completes (.getcXpool d) s s (G.setS d (BitVec.ofNat 64 (2 ^ 63))) (G.sc.spc + 4)) ∧
    (G.laneIdle = true → ∀ r free cap s1, G.wait.region = some r → poolCounts s c r = ((free, cap), s1) → Completes (.getcXpool d) s s1
      (G.setS d (BitVec.ofNat 64 (r.toNat * 2 ^ 48 + free.toNat % 2 ^ 24 * 2 ^ 24 + cap.toNat % 2 ^ 24))) (G.sc.spc + 4)) ∧
    (G.laneIdle = false → laneStuck s s.cur G = false → exec (.getcFpstat d) s = .next s ∧ exec (.getcXpool d) s = .next s)

/-- R70, R141, R194, R292, R295, R332, R333, R338, R347: what SETC of x writes, field by field; a read-only register keeps its value. -/
def Obligations.SystemRegisterWrite : Prop :=
  ∀ (s : State) (G : Group) (c : Context) (a : SReg) (x : W64), ScalarTurn s G → s.ctxOf G = some c → x = G.sreg a →
    -- CAUSE keeps the bits written 1; EPCS and EPCL take their addresses
    (G.trap.hmode = true →
      Completes (.setcCause a) s s { G with trap := { G.trap with cause := G.trap.cause &&& x &&& 0x80000000001FFFFF#64 } } (G.sc.spc + 4) ∧
      Completes (.setc a 0x011#13) s s { G with trap := { G.trap with epcs := x &&& 0x00FFFFFFFFFFFFFC#64 } } (G.sc.spc + 4) ∧
      Completes (.setcEpcl a) s s { G with trap := { G.trap with epcl := x &&& 0x80FFFFFFFFFFFFFF#64, epclSet := true } } (G.sc.spc + 4)) ∧
    -- SCOUT ignores a value above 63
    (x.toNat ≤ 63 → Completes (.setcScout a) s s { G with sc := { G.sc with scout := x.setWidth 6 } } (G.sc.spc + 4)) ∧
    (63 < x.toNat → Completes (.setcScout a) s s G (G.sc.spc + 4)) ∧
    -- read-only registers
    (∀ sel ∈ [0x001, 0x002, 0x003, 0x004, 0x005, 0x013, 0x014, 0x019, 0x022, 0x023, 0x030, 0x033, 0x040, 0x050], mayWrite G c sel →
      Completes (.setc a (BitVec.ofNat 13 sel)) s s G (G.sc.spc + 4)) ∧
    -- FPCTL, and the flags of FPSTAT that are written 1 are cleared
    (G.laneIdle = true →
      Completes (.setcFpctl a) s s { G with sc := { G.sc with fpctl := x.setWidth 4 } } (G.sc.spc + 4) ∧
      Completes (.setcFpstat a) s s { G with sc := { G.sc with fpstat := G.sc.fpstat &&& ~~~(x.setWidth 4) } } (G.sc.spc + 4)) ∧
    (c.priv = true →
      Completes (.setcHbase a) s (s.modCtx G.bind.ctx fun c => { c with hbase := x.extractLsb' 2 54, hbaseEn := x.getLsbD 0 }) G
        (G.sc.spc + 4) ∧
      ((x.setWidth 32).toNat = 0 → Completes (.setcVacate a) s s G (G.sc.spc + 4)) ∧
      -- VACATE retires, and then the request is posted
      ((x.setWidth 32).toNat ≠ 0 → exec (.setcVacate a) s = .next (postVacate (scalarRetire s s.cur G.dbg.stepm G.trap.hmode G.sc.spc
        (G.sc.spc + 4)) c.tenant (x.setWidth 32).toNat (x.extractLsb' 58 3) none).2)) ∧
    (c.priv = true → G.laneIdle = true →
      -- STEPM ignores 3
      (x.extractLsb' 0 2 = 3#2 → Completes (.setcStepm a) s s G (G.sc.spc + 4)) ∧
      (x.extractLsb' 0 2 ≠ 3#2 →
        Completes (.setcStepm a) s s { G with dbg := { G.dbg with stepm := x.extractLsb' 0 2 } } (G.sc.spc + 4)) ∧
      Completes (.setcWaddr a) s s { G with dbg := { G.dbg with waddr := x &&& 0x00FFFFFFFFFFFFFC#64 } } (G.sc.spc + 4) ∧
      -- WCTL keeps LOGW where a value above 16 is written
      (∃ W, Completes (.setcWctl a) s s { G with dbg := { G.dbg with wctl := W } } (G.sc.spc + 4) ∧
        W.extractLsb' 5 3 = x.extractLsb' 5 3 ∧
        W.extractLsb' 0 5 = if (x.extractLsb' 0 5).toNat ≤ 16 then x.extractLsb' 0 5 else G.dbg.wctl.extractLsb' 0 5) ∧
      -- XLCTL: DERR is cleared by a 1 and never set, FSVC ignores 3; DELTA ignores a LOGN out of range
      (∃ X, Completes (.setcXlctl a) s (s.modCtx G.bind.ctx fun c => { c with xlctl := X }) G (G.sc.spc + 4) ∧
        X.getLsbD 6 = (c.xlctl.getLsbD 6 && !x.getLsbD 6) ∧ X.getLsbD 5 = x.getLsbD 5 ∧ X.getLsbD 4 = x.getLsbD 4 ∧
        X.extractLsb' 2 2 = (if x.extractLsb' 2 2 = 3#2 then c.xlctl.extractLsb' 2 2 else x.extractLsb' 2 2) ∧
        X.getLsbD 1 = x.getLsbD 1 ∧ X.getLsbD 0 = false) ∧
      (∃ L, Completes (.setcDelta a) s (s.modCtx G.bind.ctx fun c => { c with deltaBase := x.extractLsb' 16 40, deltaLogn := L }) G
          (G.sc.spc + 4) ∧
        L = if 6 ≤ (x.extractLsb' 0 5).toNat ∧ (x.extractLsb' 0 5).toNat ≤ 20 then x.extractLsb' 0 5 else c.deltaLogn))

/-- R57, R70: a selector that is not listed raises ILL on GETC and SETC; a handler's register outside a handler, and a privileged one in
a context without privilege, raise PRIV with the selector in AUX0, and no register is read or written. -/
def Obligations.SystemRegisterTraps : Prop :=
  ∀ (s : State) (G : Group) (c : Context) (d : SReg) (sel : Nat), s.group? s.cur = some G → s.ctxOf G = some c → sel < 2 ^ 13 →
    (sel ∉ selectors → TrapsScalar (.getc d (BitVec.ofNat 13 sel)) s G (.plain cILL) ∧
      TrapsScalar (.setc d (BitVec.ofNat 13 sel)) s G (.plain cILL)) ∧
    (sel ∈ selectors → ¬ mayRead G c sel →
      TrapsScalar (.getc d (BitVec.ofNat 13 sel)) s G { Raise.plain cPRIV with aux0 := BitVec.ofNat 64 sel }) ∧
    (sel ∈ selectors → ¬ mayWrite G c sel →
      TrapsScalar (.setc d (BitVec.ofNat 13 sel)) s G { Raise.plain cPRIV with aux0 := BitVec.ofNat 64 sel }) ∧
    (c.priv = false → ∀ p ∈ [(Instr.setcXlctl d, 0x031), (.setcDelta d, 0x032), (.setcVacate d, 0x051), (.setcHbase d, 0x015),
        (.setcStepm d, 0x016), (.setcWaddr d, 0x017), (.setcWctl d, 0x018)],
      TrapsScalar p.1 s G { Raise.plain cPRIV with aux0 := BitVec.ofNat 64 p.2 }) ∧
    (G.trap.hmode = false → ∀ p ∈ [(Instr.setcCause d, 0x010), (.setcEpcl d, 0x012)],
      TrapsScalar p.1 s G { Raise.plain cPRIV with aux0 := BitVec.ofNat 64 p.2 })

/-! ### Traps, returns and the debugger (R57, R58, R108, R337 to R341, R350, R351) -/

/-- R341: BRK raises BRK with its code at itself. R58: a word that is no instruction raises ILL at itself. -/
def Claim.BreakpointsAndUnassignedWordsTrap : Prop :=
  ∀ (s : State) (G : Group), s.group? s.cur = some G →
    (∀ code : BitVec 13, TrapsScalar (.brk code) s G { Raise.plain cBRK with num := code.toNat }) ∧
    (s.curLane = false → TrapsScalar .unassignedInstruction s G (.plain cILL)) ∧
    (s.curLane = true → G.lane.run.isSome = true → ∀ H, H = { G.lane.rel.foldl Group.release G with
        lane := { (G.lane.rel.foldl Group.release G).lane with chain := none, rel := [] } } →
      TrapsLane .unassignedInstruction s (s.setGroup s.cur H) H (.plain cILL))

/-- R341: TRAP retires, and then raises TRAP with its code: the PC saved is that of the next instruction, the record names the TRAP. In a
handler the cause is held pending, and the handler goes on. -/
def Claim.TrapRetiresThenTraps : Prop :=
  ∀ (s : State) (G : Group) (code : BitVec 13) (info : W64), s.group? s.cur = some G →
    info = recInfo { Raise.plain cTRAP with num := code.toNat } false G.trap.hmode false →
    ∃ t H, exec (.trap code) s = .next t ∧
      t = { causeTold (clearParty s (.scalar s.cur) G.sc.spc) s.cur G { Raise.plain cTRAP with num := code.toNat } false G.sc.spc
          G.sc.spc false with groups := s.groups.set s.cur H } ∧
      Noted (G.stepped (G.sc.spc + 4)) H cTRAP info G.sc.spc G.sc.spc 0 0 (splat 0) ∧
      (G.trap.hmode = true → H.trap.hmode = true ∧ H.sc.spc = G.sc.spc + 4 ∧ H.lane = G.lane) ∧
      (G.trap.hmode = false → ∀ c, s.ctxOf G = some c →
        if c.hbaseEn then InHandler (G.stepped (G.sc.spc + 4)) H c
        else H.status = .trapped cTRAP ∧ H.trap.hmode = false ∧ H.sc.spc = G.sc.spc + 4 ∧ H.lane = G.lane)

/-- R149, R337, R338, R339: SRET once the lane stream is idle. The handler's stack entries go, which brings deep ones up from the spill
area, and the current cause's bit is cleared. With
another cause pending, the lowest is delivered back to back; else the program resumes: the scalar stream at EPCS, the lane stream at the
address that the handler wrote to EPCL or at the chain head, with EM, queue and vote port as they were, latches undefined, the values
supplied kept, and the first instruction of each stream exempt from WATCH and INJ. -/
def Obligations.ReturnFromTrap : Prop :=
  ∀ (s : State) (G : Group) (a : Aside) (c : Context) (cause : W64), s.group? s.cur = some G → G.trap.hmode = true → G.laneIdle = true →
    G.trap.aside = some a → s.ctxOf G = some c → cause = G.trap.cause &&& ~~~(1#64 <<< G.trap.cur) →
    ∃ t H, exec .sret s = .next (syncStack t s.cur G.lane.stack) ∧ OnlyGroup s t s.cur H ∧ H.trap.cause = cause ∧ H.sc.sregs = G.sc.sregs ∧ H.vec = G.vec ∧
      H.trap.epcs = G.trap.epcs ∧ H.trap.epcl = G.trap.epcl ∧ H.trap.supplied = G.trap.supplied ∧ H.trap.recs = G.trap.recs ∧
      H.lane.stack = G.lane.stack.drop (G.lane.stack.length - a.depth) ∧ H.status = G.status ∧
      (cause.setWidth 21 ≠ 0 → H.trap.hmode = true ∧ H.sc.spc = BitVec.ofNat 64 (4 * c.hbase.toNat) ∧ H.trap.aside = some a ∧
        (∀ n, n < 21 → cause.getLsbD n = true → H.trap.cur ≤ n) ∧ cause.getLsbD H.trap.cur = true ∧ H.lane.em = G.lane.em) ∧
      (cause.setWidth 21 = 0 → H.trap.hmode = false ∧ H.sc.spc = G.trap.epcs ∧ H.lane.em = a.em ∧ H.lane.dq = a.dq ∧ H.lane.vp = a.vp ∧
        H.lane.run = (if G.trap.epcl.getLsbD 63 then none else a.run) ∧
        H.lane.lpc = (if G.trap.epclSet then (G.trap.epcl.setWidth 56).setWidth 64 else a.headPc) ∧ H.lane.latches = noLatches ∧
        H.lane.chain = none ∧ H.trap.firstS = true ∧ H.trap.firstL = true ∧ H.trap.aside = none)

/-- R57, R337, R350, R351: SRET outside a handler, and HALT and INJECT in a context without privilege, raise PRIV. -/
def Claim.PrivilegedInstructionsTrap : Prop :=
  ∀ (s : State) (G : Group) (c : Context), s.group? s.cur = some G → s.ctxOf G = some c →
    (G.trap.hmode = false → TrapsScalar .sret s G (.plain cPRIV)) ∧
    (c.priv = false → ∀ d a b, ∀ i ∈ [Instr.halt, .injectReg d a b, .injectMem d a b, .injectTrip d a b],
      TrapsScalar i s G (.plain cPRIV))

/-- R332, R334: a cause whose bit is not set yet has its record in the group's spill area, written through the cache of the group's core:
word k of it at byte 4 k from the cause's place on. One whose bit is set already writes no word. -/
def Claim.CausesWriteTheirRecords : Prop :=
  ∀ (s : State) (G : Group) (c : Context) (r : Raise) (lane chain : Bool) (pc head : W64), s.ctxOf G = some c →
    (G.trap.cause.getLsbD r.cause = false → ∀ k, k < 96 → ∃ l,
      findLine (writeCause s G r lane pc head chain)
        (lineKey (areaPlace s c (recAddr G r.cause).toNat).1.tag ((recAddr G r.cause).toNat / 4) + k) = some l ∧
      l.st = .owned G.loc.coreId ((faultRecord G r lane pc head chain).word k)) ∧
    (G.trap.cause.getLsbD r.cause = true → (writeCause s G r lane pc head chain).lines = s.lines)

/-- R57, R58, R332, R334, R341: BRK, TRAP, words that are no instruction, privileged instructions without their privilege, and the records that
causes write. -/
def Obligations.TrapInstructions : Prop :=
  Claim.BreakpointsAndUnassignedWordsTrap ∧ Claim.TrapRetiresThenTraps ∧ Claim.PrivilegedInstructionsTrap ∧ Claim.CausesWriteTheirRecords

/-- R108, R348, R350: YIELD pauses its group. HALT in a privileged context retires and halts the group after itself: outside a handler EPCS
names the next instruction; in one it is kept, which is the model's choice (log 46). Under MODE 1 its STEP is raised too. -/
def Claim.HaltAndYield : Prop :=
  ∀ (s : State) (G : Group) (c : Context), s.group? s.cur = some G → s.ctxOf G = some c →
    (ScalarTurn s G → Completes .yield s s { G with wait := { G.wait with paused := true } } (G.sc.spc + 4)) ∧
    (c.priv = true → ∃ H, Retires .halt s G ((dropStreams s s.cur).setGroup s.cur H) (G.sc.spc + 4) ∧ H.status = .stopped ∧
      H.sc.sregs = G.sc.sregs ∧ H.vec = G.vec ∧ H.trap.cause = G.trap.cause ∧
      H.trap.epcs = if G.trap.hmode then G.trap.epcs else epcsOf (G.sc.spc + 4)) ∧
    (c.priv = true → ScalarTurn s G → ∃ t H, exec .halt s = .next t ∧ OnlyGroup (dropStreams s s.cur) t s.cur H ∧ H.status = .stopped ∧ H.sc.spc = G.sc.spc + 4 ∧
      H.sc.sregs = G.sc.sregs ∧ H.vec = G.vec ∧ H.trap.hmode = G.trap.hmode ∧ H.trap.cause = G.trap.cause ∧
      H.trap.epcs = if G.trap.hmode then G.trap.epcs else epcsOf (G.sc.spc + 4))

/-- R340, R350, R351: INJECT in a privileged context with an idle lane stream. INJECT.trip arms a trip at a word, at the one that holds the
address where that is misaligned, which is the model's choice (log 47). INJECT.mem flips the bits of its
mask in the DRAM word of a mapped address, data and check byte, after what is cached of it has been written back or dropped, and returns 1.
INJECT.reg returns 0 for an unmapped register and touches nothing; for a mapped one it flips the bits of its mask in one lane and
returns 1. -/
def Claim.InjectFlipsBits : Prop :=
  ∀ (s : State) (G : Group) (c : Context) (d a b : SReg), s.group? s.cur = some G → s.ctxOf G = some c → c.priv = true →
    G.laneIdle = true →
    (ScalarTurn s G → G.sreg b = 0 → Completes (.injectTrip d a b) s s
      (({ G with dbg := { G.dbg with trip := some (BitVec.ofNat 64 ((G.sreg a).toNat / 4 * 4)) } } : Group).setS d 1) (G.sc.spc + 4)) ∧
    ((G.sreg b).toNat < 2 ^ 40 → (G.sreg a).toNat < 2 ^ 56 → (G.sreg a).toNat % 4 = 0 → ∀ w s1 tag pa k ex,
      whoScalar s s.cur G = some w → locateMapped s w (G.sreg a).toNat .write = (.ok (.mem tag pa k ex), s1) →
      ∃ s2, Retires (.injectMem d a b) s G ((dramFlip s2 pa ((G.sreg b).setWidth 32) ((G.sreg b).extractLsb' 32 8)).modGroup s.cur
          fun H => H.setS d 1) (G.sc.spc + 4) ∧
        s2 = flushRange (flushWrites s1 (lineKey tag ((G.sreg a).toNat / 4)) 1) (lineKey tag ((G.sreg a).toNat / 4)) 1) ∧
    (∀ (r : VNum) (lane : Nat), lane < 32 → G.sreg a = BitVec.ofNat 64 (lane * 2 ^ 8 + r.toNat) → (G.sreg b).toNat < 2 ^ 32 →
      (ScalarTurn s G → (G.vreg r).st = .unmapped → Completes (.injectReg d a b) s s (G.setS d 0) (G.sc.spc + 4)) ∧
      ((G.vreg r).st ≠ .unmapped → ∀ s1, ensureRows s s.cur [r] [] false = .ok s1 →
        Retires (.injectReg d a b) s G (s1.modGroup s.cur fun H => (H.flip r lane ((G.sreg b).setWidth 32)).setS d 1) (G.sc.spc + 4)))

/-- R108, R350, R351: YIELD, HALT and INJECT.
The model's choices in it: log 46 and 47. -/
def Obligations.HaltYieldAndInject : Prop := Claim.HaltAndYield ∧ Claim.InjectFlipsBits

/-! ### Lane integer instructions (R37, R71, R131 to R135, R145) -/

/-- The number whose low n bits are given. -/
def bitsNat (f : Nat → Bool) : Nat → Nat
  | 0 => 0
  | n + 1 => bitsNat f n + if f n then 2 ^ n else 0

/-- A value of w bits as a signed number. -/
def signedOf (w v : Nat) : Int := if 2 ^ (w - 1) ≤ v % 2 ^ w then (v % 2 ^ w : Nat) - (2 ^ w : Nat) else (v % 2 ^ w : Nat)

/-- A byte by its selector (R133): as it is, all zeros, all ones, or bits reversed. -/
def byteBySel (y sel : Nat) : Nat :=
  let b := y / 2 ^ (8 * (sel % 8)) % 256
  if sel / 8 = 0 then b else if sel / 8 = 1 then 0 else if sel / 8 = 2 then 255 else bitsNat (fun j => Nat.testBit b (7 - j)) 8

/-- What R131 to R135 and R145 give a lane of an integer, bit-field, select, move or mask-count instruction: the low bits of its type. -/
def laneIntValue (i : Instr) (x : LaneIn) (l : Fin 32) : Option (LTy × W64) :=
  let t := x.f.ty
  let w := t.width
  let a := (x.a[l]).toNat
  let b := (x.b[l]).toNat
  let c := (x.c[l]).toNat
  let ia := intOf t x.a[l]
  let ib := intOf t x.b[l]
  let ic := intOf t x.c[l]
  let int (r : Int) : Option (LTy × W64) := some (t, BitVec.ofNat 64 (r % (2 ^ w : Nat)).toNat)
  let nat (r : Nat) : Option (LTy × W64) := some (t, BitVec.ofNat 64 r)
  let len := min (b / 256 % 256) 32
  let src (k : Nat) : Bool := if k < 32 then Nat.testBit a k else t.isSigned && Nat.testBit a 31
  match i with
  | .iadd _ | .iaddImm _ => int (ia + ib)
  | .isub _ | .isubImm _ => int (ia - ib)
  | .imul _ | .imulImm _ => int (ia * ib)
  | .imulh _ | .imulhImm _ => int (ia * ib / (2 ^ w : Nat))
  | .imad _ | .imadImm _ => int (ia * ib + ic)
  | .imin _ | .iminImm _ => int (min ia ib)
  | .imax _ | .imaxImm _ => int (max ia ib)
  | .laneAnd _ | .laneAndImm _ => some (t, x.a[l] &&& x.b[l])
  | .laneOr _ | .laneOrImm _ => some (t, x.a[l] ||| x.b[l])
  | .laneXor _ | .laneXorImm _ => some (t, x.a[l] ^^^ x.b[l])
  | .laneShl _ | .laneShlImm _ => nat (if w ≤ b then 0 else a * 2 ^ b % 2 ^ w)
  | .laneShr _ | .laneShrImm _ => nat (if w ≤ b then 0 else a % 2 ^ w / 2 ^ b)
  | .laneSra _ | .laneSraImm _ => int (if w ≤ b then (if signedOf w a < 0 then -1 else 0) else signedOf w a / (2 ^ b : Nat))
  | .laneClz _ => nat (if a % 2 ^ w = 0 then w else w - 1 - (a % 2 ^ w).log2)
  | .lanePopc _ => nat ((List.range w).filter (Nat.testBit a)).length
  | .brev _ => nat (bitsNat (fun j => Nat.testBit a (w - 1 - j)) w)
  | .bfe _ | .bfeImm _ => nat (bitsNat (fun j => if j < len then src (b % 256 + j) else decide (len ≠ 0) && t.isSigned && src (b % 256 + len - 1)) 32)
  | .bfi _ | .bfiImm _ => nat (bitsNat (fun j => if b % 256 ≤ j ∧ j < b % 256 + len then Nat.testBit a (j - b % 256) else Nat.testBit c j) 32)
  | .bswz _ | .bswzImm _ => nat ((List.range 4).foldr (fun k n => byteBySel (b % 2 ^ 32 * 2 ^ 32 + a % 2 ^ 32) (c / 2 ^ (5 * k) % 32) + 256 * n) 0)
  | .laneSel _ | .laneSelImm _ => some (t, if (x.G.vec.kregs.toList.getD x.f.var.toNat 0).getLsbD l then x.a[l] else x.b[l])
  | .mov _ | .movi _ => some (t, x.a[l])
  | .popk _ => some (.x32, BitVec.ofNat 64 ((List.range 32).filter x.ka.getLsbD).length)
  | .ffsk _ => some (.x32, match (List.range 32).find? x.ka.getLsbD with
    | some n => BitVec.ofNat 64 n
    | none => 32)
  | _ => none

/-- The group after a result: in the destination register the active lanes have it (R39, R41), L0 has it in the active lanes and the
other latches have moved up by one (R47); a 64-bit result takes a pair. -/
def laneWrote (x : LaneIn) (G : Group) (t : LTy) (res : Lanes LVal) : Group := x.putL0 (x.putDest G res) t.isPair res

/-- R131 to R135, R145, R71: every lane integer, bit-field, select, move and mask-count instruction, in each of its types and with any
operands, gives each active lane its value, placed under R71, and goes on at PC + 1. No flag and no mask register changes. -/
def Obligations.LaneIntegerResult : Prop :=
  ∀ (s : State) (x : LaneIn) (i : Instr) (t : LTy) (v : Fin 32 → W64), LaneReady s i false x →
    (∀ l, laneIntValue i x l = some (t, v l)) →
    LaneRetires i s x (x.s.setGroup x.g (laneWrote x x.G t (Vector.ofFn fun l => place t (v l)))) (x.pc + 12)

/-- R207: an instruction of Obligations.LaneIntegerResult that touches a register that an operation of the matrix unit pins retires without
a trap. Its results are undefined: the active lanes of its destination and all of L0; the other lanes of a destination that is not pinned,
and every other register, keep their words. Every operation that pins a register it touches has undefined results. (Which effects of an
instruction count as results is the model's reading: log 114.) -/
def Claim.PinnedRegisters : Prop :=
  ∀ (s : State) (x : LaneIn) (i : Instr) (t : LTy) (v : Fin 32 → W64), LaneOn s i false x → x.clash = true →
    (∀ l, laneIntValue i x l = some (t, v l)) →
    ∃ H K, LaneRetires i s x (x.s.setGroup x.g H) (x.pc + 12) ∧ (laneRetire x (x.s.setGroup x.g H) (x.pc + 12)).group? x.g = some K ∧
      (∀ r ∈ destRegs x.row x.f, ∀ l : Fin 32, (x.act.getLsbD l = true → (H.vreg r).undef.getLsbD l = true) ∧
        (x.act.getLsbD l = false → (x.G.vreg r).st = .mapped → r ∉ x.env.lost →
          (H.vreg r).val[l] = (x.G.vreg r).val[l] ∧ (H.vreg r).undef.getLsbD l = (x.G.vreg r).undef.getLsbD l)) ∧
      (∀ r, r ∉ destRegs x.row x.f → H.vreg r = x.G.vreg r) ∧ (∀ l : Fin 32, (H.lane.latches[0])[l] = ⟨none, none⟩) ∧
      H.sc = { x.G.sc with fpstat := H.sc.fpstat } ∧ H.trap = x.G.trap ∧
      ∀ m ∈ x.G.eng.mops, (∃ r ∈ readRegs x.row x.f ++ destRegs x.row x.f, r ∈ m.regs) → ∀ o ∈ K.eng.mops, o.num = m.num → o.spoiled = true

/-- R71: a result as it sits in a lane register: .i8 and .i16 sign-extended to 32 bits, the other types zero-extended. -/
def Claim.ResultPlacement : Prop :=
  ∀ (t : LTy) (v : W64),
    (t = .i8 → (place t v).toNat = ((signedOf 8 v.toNat) % (2 ^ 32 : Nat)).toNat) ∧
    (t = .i16 → (place t v).toNat = ((signedOf 16 v.toNat) % (2 ^ 32 : Nat)).toNat) ∧
    (t ≠ .i8 → t ≠ .i16 → (place t v).toNat = v.toNat % 2 ^ t.width)

/-! ### Comparisons (R65, R134, R139) -/

/-- The condition that VAR names on two integers (R65). -/
def intCond (v : BitVec 3) (a b : Int) : Prop :=
  match v.toNat with
  | 0 => a = b
  | 1 => a ≠ b
  | 2 => a < b
  | 3 => a ≤ b
  | 4 => b < a
  | _ => b ≤ a

/-- A group after a comparison: the active lanes' bits of a mask destination, or all ones and zeros in a vector one; L0 has all ones or
zeros (R134). -/
def laneCompared (x : LaneIn) (G : Group) (m : Mask) : Group :=
  let res : Lanes LVal := Vector.ofFn fun l => if m.getLsbD l then 0xFFFFFFFF#64 else 0
  x.putL0 (match x.f.dest with
    | .k k => putMaskBits G k x.act m
    | _ => x.putDest G res) false res

/-- R134: ICMP compares the lanes' integers under their type. -/
def Claim.LaneCompareResult : Prop :=
  ∀ (s : State) (x : LaneIn), ∃ m : Mask,
    (∀ l : Fin 32, m.getLsbD l = true ↔ intCond x.f.var (intOf x.f.ty x.a[l]) (intOf x.f.ty x.b[l])) ∧
    (LaneReady s (.icmp x.f) false x → LaneRetires (.icmp x.f) s x (x.s.setGroup x.g (laneCompared x x.G m)) (x.pc + 12)) ∧
    (LaneReady s (.icmpImm x.f) false x → LaneRetires (.icmpImm x.f) s x (x.s.setGroup x.g (laneCompared x x.G m)) (x.pc + 12))

/-! ### Floating point and conversions (R74 to R76, R90 to R93, R136 to R143) -/

/-- What R90 to R93 and R136 to R140 give a lane: its result type, its value and the flags that it raises. The exact result of the
operation, of values decoded from the instruction's type, is rounded once under VAR. -/
def laneFloatValue (i : Instr) (x : LaneIn) (l : Fin 32) : Option (LTy × LaneRes) :=
  let t := x.f.ty
  let md := rndOf x.f.var
  let a := fvalOf t x.a[l]
  let b := fvalOf t x.b[l]
  let c := fvalOf t x.c[l]
  let src := readTy .cvt x.f
  let out (e : Exact) : Option (LTy × LaneRes) := some (t, roundTo t md e)
  match i with
  | .fadd _ | .faddImm _ => out (exactAdd md a b)
  | .fsub _ | .fsubImm _ => out (exactAdd md a b.negate)
  | .fmul _ | .fmulImm _ => out (exactMul a b)
  | .ffma _ | .ffmaImm _ => out (exactFma md a b c)
  | .fmin _ | .fminImm _ => some (t, minMax t false x.a[l] x.b[l])
  | .fmax _ | .fmaxImm _ => some (t, minMax t true x.a[l] x.b[l])
  | .frcp _ => out (exactRcp a)
  | .frsq _ => out (exactRsq a)
  | .fsqrt _ => out (exactSqrt a)
  | .fexp2 _ => out (exactExp2 a)
  | .flog2 _ => out (exactLog2 a)
  | .fsin _ => out (exactSin a)
  | .fcos _ => out (exactCos a)
  | .frnd _ => out (exactRnd md a)
  | .fclass _ => some (.x32, ⟨BitVec.ofNat 64 (2 ^ classBit t x.a[l]), 0⟩)
  | .cvt _ => some (t, convertTo t md src.isInt (fvalOf src x.a[l]))
  | .cvtq _ => some (t, cvtqVal t md src x.a[l] x.b[l])
  | .pack _ => some (.x32, packVal t md x.a[l] x.b[l])
  | .unpack _ => some (.x32, unpackVal t x.f.var.toNat x.a[l])
  | _ => none

/-- A group with flags added to FPSTAT (R141). -/
def withFlags (G : Group) (fl : FFlags) : Group := { G with sc := { G.sc with fpstat := G.sc.fpstat ||| fl } }

/-- fl is the flags that the active lanes raise together. -/
def isFlags (x : LaneIn) (r : Fin 32 → LaneRes) (fl : FFlags) : Prop :=
  ∀ n, n < 4 → (fl.getLsbD n = true ↔ ∃ l : Fin 32, x.act.getLsbD l = true ∧ (r l).fl.getLsbD n = true)

/-- R136, R141, R142: a floating-point or conversion instruction writes each active lane's value, placed under R71, and adds the flags of
the active lanes to FPSTAT. When an active lane raises a flag that FPCTL enables, FPX is raised instead: the flags are added, and no
register and no latch is written. -/
def Obligations.LaneFloatResult : Prop :=
  ∀ (s : State) (x : LaneIn) (i : Instr) (t : LTy) (r : Fin 32 → LaneRes) (fl : FFlags), LaneReady s i false x →
    (∀ l, laneFloatValue i x l = some (t, r l)) → isFlags x r fl →
    ((∀ l : Fin 32, x.act.getLsbD l = true → (r l).fl &&& x.G.sc.fpctl = 0) →
      LaneRetires i s x (x.s.setGroup x.g (laneWrote x (withFlags x.G fl) t (Vector.ofFn fun l => place t (r l).val))) (x.pc + 12)) ∧
    ((∃ l : Fin 32, x.act.getLsbD l = true ∧ (r l).fl &&& x.G.sc.fpctl ≠ 0) → ∃ rs : Raise,
      TrapsLane i s (x.s.setGroup x.g (withFlags x.G fl)) (withFlags x.G fl) rs ∧ rs.cause = cFPX ∧
      rs.aux0 = BitVec.ofNat 64 (fl &&& x.G.sc.fpctl).toNat ∧
      ∀ l : Fin 32, rs.lanes.getLsbD l = true ↔ x.act.getLsbD l = true ∧ (r l).fl &&& x.G.sc.fpctl ≠ 0)

/-- A signed multiple of 2^q, as a number of such units. -/
def unitsOf2 (neg : Bool) (m : Nat) (e q : Int) : Int := (if neg then -1 else 1) * (m * 2 ^ (e - q).toNat : Nat)

/-- The order of two values, neither a NaN; −0 equals +0. -/
def valueLt (a b : FVal) : Prop :=
  match a, b with
  | .inf n, .inf k => n = true ∧ k = false
  | .inf n, .fin _ _ _ => n = true
  | .fin _ _ _, .inf k => k = false
  | .fin n m e, .fin k p g => unitsOf2 n m e (min e g) < unitsOf2 k p g (min e g)
  | _, _ => False

/-- A value is a NaN; the flag asks for a signalling one. -/
def isNan (x : FVal) (signalling : Bool) : Prop := ∃ b, x = .nan b ∧ (signalling = true → b = true)

/-- The condition that VAR names on two values (R139). -/
def floatCond (v : BitVec 3) (a b : FVal) : Prop :=
  let un := isNan a false ∨ isNan b false
  match v.toNat with
  | 0 => ¬ un ∧ ¬ valueLt a b ∧ ¬ valueLt b a
  | 1 => un ∨ valueLt a b ∨ valueLt b a
  | 2 => ¬ un ∧ valueLt a b
  | 3 => ¬ un ∧ ¬ valueLt b a
  | 4 => ¬ un ∧ valueLt b a
  | 5 => ¬ un ∧ ¬ valueLt a b
  | _ => un

/-- The comparison sets invalid (R139): eq, ne and un for a signalling NaN alone, the others for any NaN. -/
def compareInvalid (v : BitVec 3) (a b : FVal) : Prop :=
  let quiet := decide (v.toNat = 0 ∨ v.toNat = 1 ∨ v.toNat = 6)
  isNan a quiet ∨ isNan b quiet

/-- R139, R141, R142: FCMP. Invalid is added to FPSTAT when an active lane sets it; where FPCTL enables it, FPX is raised instead in the
lanes that set it, and no mask, register or latch is written. -/
def Claim.LaneFloatCompareResult : Prop :=
  ∀ (s : State) (x : LaneIn), ∃ (m : Mask) (fl : FFlags),
    (∀ l : Fin 32, m.getLsbD l = true ↔ floatCond x.f.var (fvalOf x.f.ty x.a[l]) (fvalOf x.f.ty x.b[l])) ∧
    ((∃ l : Fin 32, x.act.getLsbD l = true ∧ compareInvalid x.f.var (fvalOf x.f.ty x.a[l]) (fvalOf x.f.ty x.b[l])) → fl = flagNV) ∧
    ((∀ l : Fin 32, x.act.getLsbD l = true → ¬ compareInvalid x.f.var (fvalOf x.f.ty x.a[l]) (fvalOf x.f.ty x.b[l])) → fl = 0) ∧
    (fl &&& x.G.sc.fpctl = 0 →
      (LaneReady s (.fcmp x.f) false x →
        LaneRetires (.fcmp x.f) s x (x.s.setGroup x.g (laneCompared x (withFlags x.G fl) m)) (x.pc + 12)) ∧
      (LaneReady s (.fcmpImm x.f) false x →
        LaneRetires (.fcmpImm x.f) s x (x.s.setGroup x.g (laneCompared x (withFlags x.G fl) m)) (x.pc + 12))) ∧
    (fl &&& x.G.sc.fpctl ≠ 0 → ∀ i ∈ [Instr.fcmp x.f, .fcmpImm x.f], LaneReady s i false x → ∃ r : Raise,
      TrapsLane i s (x.s.setGroup x.g (withFlags x.G fl)) (withFlags x.G fl) r ∧ r.cause = cFPX ∧ r.aux0 = BitVec.ofNat 64 flagNV.toNat ∧
      ∀ l : Fin 32, r.lanes.getLsbD l = true ↔
        x.act.getLsbD l = true ∧ compareInvalid x.f.var (fvalOf x.f.ty x.a[l]) (fvalOf x.f.ty x.b[l]))

/-- R65, R134, R139: ICMP and FCMP. -/
def Obligations.LaneComparisons : Prop := Claim.LaneCompareResult ∧ Claim.LaneFloatCompareResult

/-! ### Masks and votes (R144, R145, R157, R158) -/

/-- The new value of a mask instruction's destination (R145). -/
def maskValue (i : Instr) (x : LaneIn) : Option Mask :=
  match i with
  | .kand _ => some (x.ka &&& x.kb)
  | .kor _ => some (x.ka ||| x.kb)
  | .kxor _ => some (x.ka ^^^ x.kb)
  | .knot _ => some (~~~x.ka)
  | _ => none

/-- R145, R158: a mask logic instruction writes the active lanes' bits of its mask register, MOVEM all of it or EM, ELECT all of it, with
the lowest active lane alone. Nothing else changes. -/
def Claim.MaskInstructions : Prop :=
  ∀ (s : State) (x : LaneIn) (i : Instr), LaneReady s i false x →
    (∀ (k : BitVec 3) (m : Mask) (h : k.toNat < 7), x.f.dest = .k k → maskValue i x = some m → ∃ K : Vector Mask 7,
      LaneRetires i s x (x.s.setGroup x.g { x.G with vec := { x.G.vec with kregs := K } }) (x.pc + 12) ∧
      (∀ l : Fin 32, (K[k.toNat]).getLsbD l = if x.act.getLsbD l then m.getLsbD l else (x.G.vec.kregs[k.toNat]).getLsbD l) ∧
      ∀ n (h : n < 7), n ≠ k.toNat → K[n] = x.G.vec.kregs[n]) ∧
    (i = .movem x.f → ∀ (k : BitVec 3), k.toNat < 7 → x.f.dest = .k k → LaneRetires i s x (x.s.setGroup x.g
      { x.G with vec := { x.G.vec with kregs := x.G.vec.kregs.setIfInBounds k.toNat x.ka } }) (x.pc + 12)) ∧
    (i = .movem x.f → x.f.dest = .em → LaneRetires i s x (x.s.setGroup x.g { x.G with lane := { x.G.lane with em := x.ka } }) (x.pc + 12)) ∧
    (i = .elect x.f → ∀ (k : BitVec 3), k.toNat < 7 → x.f.dest = .k k → ∃ m : Mask, LaneRetires i s x (x.s.setGroup x.g
        { x.G with vec := { x.G.vec with kregs := x.G.vec.kregs.setIfInBounds k.toNat m } }) (x.pc + 12) ∧
      ∀ l : Fin 32, m.getLsbD l = true ↔ x.act.getLsbD l = true ∧ ∀ j : Fin 32, j < l → x.act.getLsbD j = false)

/-- R30, R157: VOTE appends its entry to a vote port with room, and stalls the lane stream, changing nothing else, on a full one. -/
def Claim.VoteAppendsToThePort : Prop :=
  ∀ (s : State) (x : LaneIn) (i : Instr) (B : Mask) (e : W64), LaneReady s i false x →
    (∀ l : Fin 32, B.getLsbD l = true ↔ x.act.getLsbD l = true ∧ x.a[l] ≠ 0) →
    (i = .voteBallot x.f ∧ e = BitVec.ofNat 64 B.toNat ∨ i = .voteAny x.f ∧ e = (if B = 0 then 0 else 1) ∨
      i = .voteAll x.f ∧ e = (if B = x.act then 1 else 0)) →
    (x.G.lane.vp.length < 4 → LaneRetires i s x (x.s.setGroup x.g { x.G with lane := { x.G.lane with vp := x.G.lane.vp ++ [e] } })
      (x.pc + 12)) ∧
    (4 ≤ x.G.lane.vp.length → LaneWaits i s x (x.s.setGroup x.g { x.G with lane := { x.G.lane with stall := .port } }))

/-- R30, R144, R145, R157, R158: mask instructions, ELECT and VOTE. -/
def Obligations.MasksAndVotes : Prop := Claim.MaskInstructions ∧ Claim.VoteAppendsToThePort

/-! ### Lane control (R148 to R162) -/

/-- The flow of a group: its EM, its stack, and where its lane stream goes on. -/
structure BranchFlow where
  em : Mask
  stack : List StackEntry
  next : W64

/-- The effect of BRL (R151) at lane offset pc of a group, T being the active lanes; none for STACK. -/
def brlFlow (G : Group) (masked : Bool) (T : Mask) (pc target : BitVec 19) : Option BranchFlow :=
  let N := G.lane.em &&& ~~~T
  let at_ (o : BitVec 19) : W64 := G.bind.lbase + BitVec.ofNat 64 (12 * o.toNat)
  let fresh : Option BranchFlow := if 32 ≤ G.lane.stack.length then none
    else if T ≠ 0 then some ⟨T, ⟨.branch, pc + 1, 0, false, N, G.lane.em⟩ :: G.lane.stack, at_ target⟩
    else some ⟨G.lane.em, ⟨.branch, pc + 1, 0, false, 0, G.lane.em⟩ :: G.lane.stack, at_ (pc + 1)⟩
  if masked = false then some ⟨G.lane.em, G.lane.stack, at_ target⟩
  else match G.lane.stack with
    | [] => fresh
    | e :: t => if e.kind = .branch ∧ e.ppc = pc + 1 then
        (if T ≠ 0 then some ⟨T, { e with pend := e.pend ||| N } :: t, at_ target⟩
        else some ⟨e.pend ||| N, { e with pend := 0 } :: t, at_ (pc + 1)⟩)
      else fresh

/-- A group with a flow's EM and stack. -/
def withFlow (G : Group) (f : BranchFlow) : Group := { G with lane := { G.lane with em := f.em, stack := f.stack } }

/-- R151: BRL does what the pseudocode of R151 says, and raises STACK where it would push on a full stack. R159, R161, R331: BRC does the
same in a handler, inside a compacted region, with a compaction entry on its stack and with a full stack (the last two: log 40). -/
def Obligations.LaneBranchSplitsLanes : Prop :=
  ∀ (s : State) (x : LaneIn) (i : Instr) (r : Option BranchFlow), LaneReady s i false x →
    (i = .brl x.f ∨ i = .brc x.f ∧ (x.G.trap.hmode = true ∨ (∃ n m, meetOf x.s x.g = some (n, m) ∧ m.admitting = false) ∨
      x.G.hasCompaction = true ∨ 32 ≤ x.G.lane.stack.length)) →
    brlFlow x.G (x.f.pred ≠ .always) x.act (laneOff x.G x.pc) (targetOf x.f) = r →
    (∀ f, r = some f → LaneRetires i s x (x.s.setGroup x.g (withFlow x.G f)) f.next) ∧
    (r = none → TrapsLane i s x.s x.G (.plain cSTACK))

/-- R159: a BRC that finds no meeting of its team at its address, and a free meeting slot in its quadrant, opens a meeting and waits for
its admission to close; one that finds a meeting whose opener has the same snapshot joins it and waits. -/
def Claim.BrcOpensOrJoinsMeetings : Prop :=
  ∀ (s : State) (x : LaneIn), LaneReady s (.brc x.f) false x → x.G.trap.hmode = false → x.G.hasCompaction = false →
    x.G.lane.stack.length < 32 → (∀ n m, meetOf x.s x.g = some (n, m) → m.admitting = true) →
    (openMeet x.s x.G x.pc = none → (∃ b : Bool, b ∉ slotsUsed x.s x.G.loc.quadId) → ∃ t m, LaneWaits (.brc x.f) s x t ∧
      t.meets = x.s.meets ++ [m] ∧ m.quad = x.G.loc.quadId ∧ m.mslot ∉ slotsUsed x.s x.G.loc.quadId ∧ m.team = x.G.bind.team ∧ m.pc = x.pc ∧
      m.target = laneAddr x.G (targetOf x.f) ∧ m.admitting = true ∧ m.closed = false ∧
      m.members = [⟨x.g, x.act, x.G.lane.em, false⟩] ∧
      t = { x.s with meets := t.meets, groups := t.groups } ∧
      (∀ G, x.s.group? x.g = some G → t.group? x.g = some { G with lane := { G.lane with stall := .admission x.s.meets.length } })) ∧
    (∀ n m b H, openMeet x.s x.G x.pc = some n → x.s.meets[n]? = some m →
      (m.members.filter fun b => b.group != x.g).head? = some b → x.s.group? b.group = some H → sameSnap x.G H = true →
      ∃ t, LaneWaits (.brc x.f) s x t ∧ t.meets[n]? = some { m with members :=
        (m.members.filter fun b => b.group != x.g) ++ [⟨x.g, x.act, x.G.lane.em, false⟩] } ∧
      (∀ k, k ≠ n → t.meets[k]? = x.s.meets[k]?) ∧ t = { x.s with meets := t.meets, groups := t.groups })

/-- R152: JOIN of a branch entry runs the pending lanes from PPC, or pops the entry and goes on with its original lanes. With no entry,
or an item entry on top, it raises ILL. R155: STOP ends the run, and raises ILL while a compaction entry is on the stack. -/
def Obligations.JoinAndStop : Prop :=
  ∀ (s : State) (x : LaneIn),
    (LaneReady s .join false x →
      (∀ e t, x.G.lane.stack = e :: t → e.kind = .branch →
        (e.pend ≠ 0 → LaneRetires .join s x (x.s.setGroup x.g { x.G with lane := { x.G.lane with
          em := e.pend, stack := { e with pend := 0 } :: t } }) (x.G.bind.lbase + BitVec.ofNat 64 (12 * e.ppc.toNat))) ∧
        (e.pend = 0 → LaneRetires .join s x (x.s.setGroup x.g { x.G with lane := { x.G.lane with em := e.orig, stack := t } })
          (x.pc + 12))) ∧
      ((x.G.lane.stack = [] ∨ ∃ e t, x.G.lane.stack = e :: t ∧ e.kind = .item) → TrapsLane .join s x.s x.G (.plain cILL))) ∧
    (LaneReady s .stop false x →
      (x.G.hasCompaction = false →
        LaneRetires .stop s x (x.s.setGroup x.g { x.G with lane := { x.G.lane with run := none } }) (x.pc + 12)) ∧
      (x.G.hasCompaction = true → TrapsLane .stop s x.s x.G (.plain cILL)))

/-- R162: a JOIN at a compaction entry parks its group until every member of the meeting has reached it. The first one fixes the address;
a JOIN at another one raises ILL. The last one closes the meeting, and every group goes on. -/
def Claim.JoinClosesMeetings : Prop :=
  ∀ (s : State) (x : LaneIn) (e : StackEntry) (u : List StackEntry) (n : Nat) (m : Meet), LaneReady s .join false x →
    x.G.lane.stack = e :: u → e.kind = .compaction → meetOf x.s x.g = some (n, m) →
    (∀ p, m.closeAt = some p → p ≠ x.pc → TrapsLane .join s x.s x.G (.plain cILL)) ∧
    ((m.closeAt = none ∨ m.closeAt = some x.pc) → x.s.meets[n]? = some m →
      ((∃ b ∈ m.members, b.group ≠ x.g ∧ b.parked = false) → ∃ t, LaneWaits .join s x t ∧
        t.meets[n]? = some { m with
          closeAt := some x.pc
          members := m.members.map fun b => if b.group = x.g then { b with parked := true } else b } ∧
        (∀ k, k ≠ n → t.meets[k]? = x.s.meets[k]?) ∧ t = { x.s with meets := t.meets, groups := t.groups }) ∧
      ((∀ b ∈ m.members, b.group = x.g ∨ b.parked = true) → ∃ s', LaneRetires .join s x s' (x.pc + 12) ∧
        s' = closeMeet (x.s.modMeet n fun m => { m with
          closeAt := some x.pc
          members := m.members.map fun b => if b.group = x.g then { b with parked := true } else b }) n x.g
          { m with
            closeAt := some x.pc
            members := m.members.map fun b => if b.group = x.g then { b with parked := true } else b } x.pc))

/-- R159, R162: meetings from BRC to the closing JOIN. -/
def Obligations.BrcMeetings : Prop := Claim.BrcOpensOrJoinsMeetings ∧ Claim.JoinClosesMeetings

/-- R156: ITEM gives the next items of its core's queue to the lanes that have finished or hold none, ascending, counts the finished ones
as retired, and keeps the lanes without an item apart; it goes on when a lane is left, leaves the loop when none is and the queue is
closed and empty, and waits when none is and the queue is open. A launch without items, and a handler (R331), raise ILL. -/
def Claim.ItemRefillsLanes : Prop :=
  ∀ (s : State) (x : LaneIn) (team : Team) (q : ItemQueue), LaneReady s (.item x.f) false x → x.s.teamOf x.G = some team →
    itemQueue team x.G.loc.coreId = some q →
    (hasItems x.s x.G = false ∨ x.G.trap.hmode = true → TrapsLane (.item x.f) s x.s x.G (.plain cILL)) ∧
    (hasItems x.s x.G = true → x.G.trap.hmode = false → ∀ (e : StackEntry) (t : List StackEntry),
      (x.G.lane.stack = e :: t ∧ e.kind = .item ∧ e.hpc = laneOff x.G x.pc ∨
        (∀ f u, x.G.lane.stack = f :: u → ¬ (f.kind = .item ∧ f.hpc = laneOff x.G x.pc)) ∧ x.G.lane.stack.length < 32 ∧
          t = x.G.lane.stack ∧ e = ⟨.item, targetOf x.f, laneOff x.G x.pc, false, 0, x.G.lane.em⟩) →
      ∀ (Q : Mask) (q' : ItemQueue) (got : List (Nat × W32)) (em' ih' : Mask), Q = x.act ||| ((x.G.lane.em ||| e.pend) &&& ~~~x.G.lane.ih) →
      giveItems q (lanesOf Q) = (q', got) → ih' = (x.G.lane.ih &&& ~~~Q) ||| maskOf (got.map (·.1)) →
      em' = (x.G.lane.em ||| e.pend) &&& ~~~(Q &&& ~~~ih') → ∃ (s' : State) (H : Group), H.lane.ih = ih' ∧ s'.group? x.g = x.s.group? x.g ∧
        s' = { x.s.setQueue x.G.bind.team q' with launches := s'.launches } ∧
        (∀ l, x.s.launches[x.G.bind.launch]? = some l → s'.launches[x.G.bind.launch]? =
          some { l with retired := l.retired + BitVec.ofNat 64 (popCount (Q &&& x.G.lane.ih).toNat 32) }) ∧
        H.sc = x.G.sc ∧ H.trap = x.G.trap ∧ (∀ r, x.f.dest ≠ .v r → H.vreg r = x.G.vreg r) ∧
        (∀ r, x.f.dest = .v r → ∀ p ∈ got, ∀ h : p.1 < 32, (H.vreg r).val[p.1] = p.2 ∧ (H.vreg r).undef.getLsbD p.1 = false) ∧
        (em' ≠ 0 → H.lane.em = em' ∧ H.lane.stack = { e with pend := Q &&& ~~~ih' } :: t ∧
          LaneRetires (.item x.f) s x (s'.setGroup x.g H) (x.pc + 12)) ∧
        (em' = 0 → q'.closed = false → H.lane.em = em' ∧ H.lane.stack = { e with pend := Q &&& ~~~ih' } :: t ∧
          LaneWaits (.item x.f) s x (s'.setGroup x.g { H with lane := { H.lane with stall := .item } })) ∧
        (em' = 0 → q'.closed = true → q'.ranges = [] → H.lane.em = e.orig ∧ H.lane.stack = t ∧
          LaneRetires (.item x.f) s x (s'.setGroup x.g H) (x.G.bind.lbase + BitVec.ofNat 64 (12 * (targetOf x.f).toNat))))

/-- R156: items are given in the order of the queue, one to a lane, lowest lane first, until the queue is empty. -/
def Claim.ItemsAreGivenInOrder : Prop :=
  ∀ (q q' : ItemQueue) (ls : List Nat) (got : List (Nat × W32)), (∀ r ∈ q.ranges, r.2 ≠ 0 ∧ r.1.toNat + r.2.toNat ≤ 2 ^ 32) →
    giveItems q ls = (q', got) →
    let all (q : ItemQueue) : List Nat := q.ranges.flatMap fun r => (List.range r.2.toNat).map fun k => r.1.toNat + k
    got.map (·.1) = ls.take got.length ∧ got.map (fun p => p.2.toNat) = (all q).take got.length ∧ all q' = (all q).drop got.length ∧
    got.length = min ls.length (all q).length ∧ q'.closed = q.closed ∧ q'.core = q.core

/-- R114, R156: ITEM, and the order in which items are given. -/
def Obligations.Items : Prop := Claim.ItemRefillsLanes ∧ Claim.ItemsAreGivenInOrder

/-! ### Registers, latches and retirement of lane instructions (R39, R41, R47 to R51, R119, R338) -/

/-- R39, R41, R47: writing a result, of an instruction that touches no pinned register. The destination's active lanes take its low word,
its partner's the high word; their other lanes and
every other register keep their words. L0 takes it in the active lanes and is undefined in the others, and the older latches move up. -/
def Claim.LaneDestination : Prop :=
  ∀ (x : LaneIn) (G : Group) (res : Lanes LVal) (pair : Bool), x.clash = false →
    (∃ V, x.putDest G res = { G with vec := { G.vec with vregs := V } }) ∧
    (∀ n, n ∉ destRegs x.row x.f → (x.putDest G res).vreg n = G.vreg n) ∧
    (∀ r ∈ destRegs x.row x.f, ∀ l : Fin 32, ((x.putDest G res).vreg r).st = .mapped ∧
      (x.act.getLsbD l = false → ((x.putDest G res).vreg r).val[l] = (G.vreg r).val[l]) ∧
      (x.act.getLsbD l = true → ((x.putDest G res).vreg r).undef.getLsbD l = false)) ∧
    (∀ r, destRegs x.row x.f = [r] → ∀ l : Fin 32, x.act.getLsbD l = true →
      ((x.putDest G res).vreg r).val[l] = (res[l]).extractLsb' 0 32) ∧
    (∀ r, destRegs x.row x.f = [r, r + 1] → ∀ l : Fin 32, x.act.getLsbD l = true →
      ((x.putDest G res).vreg r).val[l] = (res[l]).extractLsb' 0 32 ∧
      ((x.putDest G res).vreg (r + 1)).val[l] = (res[l]).extractLsb' 32 32) ∧
    (∃ L : Vector (Lanes LatchLane) 8, x.putL0 G pair res = { G with lane := { G.lane with latches := L } } ∧
      (∀ l : Fin 32, L[0][l] = if x.act.getLsbD l then
        ⟨some ((res[l]).extractLsb' 0 32), if pair then some ((res[l]).extractLsb' 32 32) else none⟩ else ⟨none, none⟩) ∧
      ∀ n (h : n + 1 < 8), L[n + 1] = G.lane.latches[n])

/-- R39, R41, R47, R71, R207: how a result is placed, where it is written, and what becomes of it where a register is pinned. -/
def Obligations.LaneDestination : Prop := Claim.ResultPlacement ∧ Claim.LaneDestination ∧ Claim.PinnedRegisters

/-- R47 to R51, R120, R338, R348: what the retirement of a lane instruction changes, when no STEP is due, no register of it is pinned by an
older operation, and the stack has no entry in the spill area or is as deep as before. Only its group changes, and of it the lane PC, the
chain and what SRET exempted and supplied; memory changes only when a budget below 8 makes the group spill. A register that is not marked
for release keeps its words, in a row or in its spill slot. A register that a mark releases is unmapped once the chain has ended, unless
the instruction writes it. That a mark on a source which is also DEST keeps the inactive lanes of DEST is the model's choice (log 76). -/
def Claim.LaneRetirement : Prop :=
  ∀ (x : LaneIn) (s : State) (G : Group) (next : W64), s.group? x.g = some G → x.clash = false →
    (G.dbg.stepm ≠ 2#2 ∨ x.G.trap.hmode = true) →
    (G.lane.stack.length = x.G.lane.stack.length ∨ G.lane.stack.length ≤ 8 ∧ x.G.lane.stack.length ≤ 8) →
    ∃ (t : State) (H : Group), laneRetire x s next = t ∧ t.groups = s.groups.set x.g H ∧
      SameOutside { s with groups := t.groups, tick := s.tick + 1 } t ∧
      (8 ≤ G.bind.budget → t = { s with
        groups := t.groups, verdicts := t.verdicts, oplog := t.oplog, psets := t.psets, fab := { s.fab with peers := t.fab.peers }
        freeCtr := t.freeCtr, tick := s.tick + 1 }) ∧
      H.lane.lpc = next ∧ H.lane.stall = .none ∧ H.sc = G.sc ∧ H.vec.kregs = G.vec.kregs ∧ H.dbg = G.dbg ∧ H.wait = G.wait ∧
      H.eng = G.eng ∧ H.bind = G.bind ∧ H.status = G.status ∧ H.lane.em = G.lane.em ∧ H.lane.ih = G.lane.ih ∧ H.lane.run = G.lane.run ∧
      H.lane.dq = G.lane.dq ∧ H.lane.vp = G.lane.vp ∧ H.lane.stack = G.lane.stack ∧ H.lane.latches = G.lane.latches ∧
      H.trap.cause = G.trap.cause ∧ H.trap.recs = G.trap.recs ∧ H.trap.hmode = G.trap.hmode ∧ H.trap.aside = G.trap.aside ∧
      (x.G.trap.hmode = false → H.lane.chain = none → H.trap.firstL = false ∧ H.trap.supplied = splat none) ∧
      (x.row.latch = false → H.lane.chain = none) ∧
      (∀ r, r ∉ markedRegs x.row x.f ∨ r ∈ destRegs x.row x.f → r ∉ G.lane.rel ∨ r ∈ destRegs x.row x.f →
        (H.vreg r).val = (G.vreg r).val ∧ (H.vreg r).undef = (G.vreg r).undef ∧
        ((H.vreg r).st = .unmapped ↔ (G.vreg r).st = .unmapped)) ∧
      (∀ r, r ∈ markedRegs x.row x.f ∨ r ∈ G.lane.rel → r ∉ destRegs x.row x.f → H.lane.chain = none → (H.vreg r).st = .unmapped)

/-- R121, R122, R127, R252: a lane instruction that waits holds the rows for its results in flight, and the registers that it reads stay in
their rows; while its fault is served, and where an entry of its quadrant's operand log is free, the entry takes its sources and its mask
instead, but for an atomic, which never enters the log. One that executes again works on what its entry holds, and reads no register. -/
def Claim.LaneInstructionsWait : Prop :=
  ∀ (x : LaneIn) (s : State) (G : Group) (log : Bool), s.group? x.g = some G → G.lane.stack = x.G.lane.stack →
    (inService s (.lane x.g) = false ∨ log = false → (∀ e ∈ s.oplog, e.party = .lane x.g → e.pc ≠ x.pc) →
      laneWait x log s = s.setGroup x.g { G with
      lane := { G.lane with keeps := readRegs x.row x.f, flight := (destRegs x.row x.f).length } }) ∧
    (inService s (.lane x.g) = true → log = true → (∀ e ∈ s.oplog, e.party = .lane x.g → e.pc ≠ x.pc) →
      (s.oplog.filter fun e => e.quad == x.G.loc.quadId).length < 16 → ∃ e : OpEntry, e.quad = x.G.loc.quadId ∧ e.party = .lane x.g ∧
        e.pc = x.pc ∧ e.act = x.act ∧ e.a = x.a ∧ e.b = x.b ∧ e.c = x.c ∧ laneWait x log s = { s with
          oplog := s.oplog ++ [e]
          groups := s.groups.set x.g { G with lane := { G.lane with keeps := [], flight := (destRegs x.row x.f).length } } }) ∧
    (∀ w run row f e, loggedOps s (.lane x.g) G.lane.lpc = some e → rowReads s x.g G.lane.lpc row f = [] ∧
      ∃ y, laneIn s x.g G w run row f = y ∧ y.act = e.act ∧ y.a = e.a ∧ y.b = e.b ∧ y.c = e.c) ∧
    (∀ i op f, laneParts i = some (op, f) → (logsOps i = false ↔ 0x0B0 ≤ op % 512 ∧ op % 512 ≤ 0x0B7))

/-- R150: the 128 bits of a stack entry, which are read back as that entry. -/
def Claim.StackEntryLayout : Prop :=
  ∀ e : StackEntry, e.bits.extractLsb' 0 32 = e.orig ∧ e.bits.extractLsb' 32 32 = e.pend ∧ e.bits.extractLsb' 64 23 = 0 ∧
    e.bits.getLsbD 87 = e.mslot ∧ e.bits.extractLsb' 88 19 = e.hpc ∧ e.bits.extractLsb' 107 19 = e.ppc ∧
    (e.bits.extractLsb' 126 2).toNat = (match e.kind with
      | .branch => 0
      | .item => 1
      | .compaction => 2) ∧ stackEntryOf e.bits = e

/-- R149, R150: the entries of a stack below the top 8 lie in the group's spill area, 16 bytes each, little-endian, from byte 16384 on. That
they are counted from the top is the model's choice (log 101). -/
def Claim.DeepEntriesLieInTheSpillArea : Prop :=
  ∀ (s : State) (g : Nat) (G : Group) (c : Context) (e : StackEntry) (n k : Nat), s.group? g = some G → s.ctxOf G = some c →
    8 ≤ n → G.lane.stack[n]? = some e → k < 4 → stackAddr G n = G.bind.area.toNat + 16384 + 16 * (n - 8) ∧
    ∃ l, findLine (writeDeep s g) (lineKey (areaPlace s c (stackAddr G 8)).1.tag (stackAddr G 8 / 4) + 4 * (n - 8) + k) = some l ∧
      l.st = .owned G.loc.coreId (e.bits.extractLsb' (32 * k) 32)

/-- R47 to R51, R120 to R122, R127, R149, R150, R338, R348: how a lane instruction retires or waits, and where its group's stack lies.
The model's choices in it: log 76 and 101. -/
def Obligations.LaneRetirement : Prop :=
  Claim.LaneRetirement ∧ Claim.LaneInstructionsWait ∧ Claim.StackEntryLayout ∧ Claim.DeepEntriesLieInTheSpillArea

/-! ### Lane memory instructions (R236 to R242, R253 to R256, R182) -/

/-- The bytes of an access of each lane, and what a load makes of the word that holds them (R71, R236). -/
def loadParts (i : Instr) : Option (Nat × (LTy → Nat → W32 → W64)) :=
  match i with
  | .ldw _ | .ldwImm _ => some (4, fun _ _ w => BitVec.ofNat 64 w.toNat)
  | .ldh _ | .ldhImm _ => some (2, fun t va w => place t (BitVec.ofNat 64 (w.toNat / 2 ^ (8 * (va % 4)))))
  | .ldb _ | .ldbImm _ => some (1, fun t va w => place t (BitVec.ofNat 64 (w.toNat / 2 ^ (8 * (va % 4)))))
  | _ => none

/-- The address of a lane: base plus the sign-extended offset, modulo 2^64 (R238). -/
def laneEa (x : LaneIn) (l : Nat) : Nat :=
  (BitVec.ofInt 64 ((x.a.toList.getD l 0).toNat + ((x.b.toList.getD l 0).setWidth 32).toInt)).toNat

/-- R238, R241, R339, R342: a load whose lanes' words are there writes the active lanes of its destination: what the access gives, and in
the lanes for which a handler supplied a value, that value for the word that it stands for, without a read of that word. LDD takes the word
pair, of which it still reads the other word; LDX takes the word and whether its tile exists, and XPOOL reports on the first region met. -/
def Obligations.LaneLoads : Prop :=
  ∀ (s s1 : State) (x : LaneIn) (i : Instr) (vs : List (Nat × List W32)) (ps : List Placed), LaneReady s i false x →
    (∀ size conv, loadParts i = some (size, conv) →
      loadLanes x.s x.w x.dbg x.pc size false (x.fetching.map fun l => ⟨l, laneEa x l, size⟩) = (.ok (vs, ps), s1) →
      LaneRetires i s x (s1.modGroup x.g fun G => x.putDest G (byLane (vs.map (fun p => (p.1, conv x.f.ty (laneEa x p.1) (p.2.headD 0))) ++
        x.given.map fun p => (p.1, place x.f.ty (BitVec.ofNat 64 p.2.toNat))))) (x.pc + 12)) ∧
    (∀ a, (i = .ldd x.f ∨ i = .lddImm x.f) → loadRead x.s x.w x.dbg x.pc 8 false [] (x.lanes.filterMap x.pairAcc) = (.ok (a, ps), s1) →
      (∀ f ∈ a.fails, (x.supplied f.1).isSome = true ∧ x.G.trap.supInj.getLsbD f.1 = false) →
      ∃ R : List (Nat × LVal), LaneRetires i s x (s1.modGroup x.g fun G => x.putDest G (byLane R)) (x.pc + 12) ∧ R.map (·.1) = x.lanes ∧
        ∀ p ∈ R,
          (∀ ws, (a.vals.find? fun v => v.1 == p.1) = some (p.1, ws) →
            (x.supplied p.1 = none → p.2 = ws.getD 1 0 ++ ws.getD 0 0) ∧
            (∀ v, x.supplied p.1 = some v → (x.G.trap.supAt.toList.getD p.1 0).toNat = laneEa x p.1 → p.2 = ws.headD 0 ++ v) ∧
            (∀ v, x.supplied p.1 = some v → (x.G.trap.supAt.toList.getD p.1 0).toNat = laneEa x p.1 + 4 → p.2 = v ++ ws.headD 0)) ∧
          (∀ v, (a.vals.find? fun v => v.1 == p.1) = none → x.supplied p.1 = some v → p.2 = v ++ v)) ∧
    (∀ a, (i = .ldx x.f ∨ i = .ldxImm x.f) →
      loadRead x.s x.w x.dbg x.pc 4 true (x.given.map (·.1)) (x.lanes.map fun l => ⟨l, laneEa x l, 4⟩) = (.ok (a, ps), s1) → a.fails = [] →
      ∃ R : List (Nat × LVal), LaneRetires i s x (s1.modGroup x.g fun G =>
          match firstRegion s1 ps with
          | some r => { x.putDest G (byLane R) with wait := { G.wait with region := some r } }
          | none => x.putDest G (byLane R)) (x.pc + 12) ∧
        R = (a.vals.map (fun p => (p.1, p.2.headD 0)) ++ x.given).map fun p => (p.1, (match ps.find? fun q => q.lane == p.1 with
          | some q => existWord q
          | none => 0) ++ p.2))

/-- R239: a store whose lanes' places may be written commits in all its active lanes and writes no register; the lanes' addresses and data
are those of the sources. R242: PREF changes no register, no store and no byte of scratchpad, whatever its addresses are; and into the
shared cache no byte of memory, where no block has to leave for its words and every word has its check byte in order (a word that it
finds uncorrectable is rewritten poisoned, R234). -/
def Obligations.LaneStoresAndPrefetch : Prop :=
  ∀ (s : State) (x : LaneIn) (i : Instr), LaneReady s i false x →
    (∀ size s1, (i = .stw x.f ∧ size = 4 ∨ i = .sth x.f ∧ size = 2 ∨ i = .stb x.f ∧ size = 1 ∨ i = .std x.f ∧ size = 8) →
      storeLanes x.s x.w x.dbg x.pc size (x.lanes.map fun l => ⟨l, laneEa x l, x.c.toList.getD l 0⟩) = (.ok (), s1) →
      LaneRetires i s x s1 (x.pc + 12)) ∧
    ((i = .pref x.f ∨ i = .prefImm x.f) → ∃ s1, LaneRetires i s x s1 (x.pc + 12) ∧ SameOutside x.s s1 ∧ s1.sq = x.s.sq ∧
      (x.f.var ≠ 0#3 → (∀ t, x.s.shUse.length + x.lanes.length ≤ waysOf x.s t) → (∀ pa, wordFate (wordSyn x.s pa) ≠ .bad) →
        s1.dram = x.s.dram ∧ s1.synd = x.s.synd))

/-- R182: LDP reads, and STP writes, a scratchpad word in each active lane, all of them accessible: LDP at the sum of base and offset
modulo 2^32, STP at its base. STP changes no register, no memory, and no scratchpad byte outside its words, unless a Hadamard transform
lies under them (R214); its words are ordered for no matrix unit yet (R204). -/
def Obligations.LaneScratchpadAccess : Prop :=
  ∀ (s : State) (x : LaneIn) (i : Instr), LaneReady s i false x →
    (∀ pl : Nat → Nat, (i = .ldp x.f ∨ i = .ldpImm x.f) →
      (∀ l ∈ x.lanes, ∃ v, spadCheck x.s x.G.bind.team x.G.loc.coreId
          ((x.a.toList.getD l 0 + x.b.toList.getD l 0).setWidth 32) 4 4 = .ok v ∧
        pl l = v.addr (spadOff ((x.a.toList.getD l 0 + x.b.toList.getD l 0).setWidth 32))) →
      (∀ l ∈ x.lanes, underHad x.s [(pl l, pl l + 4)] = false) →
      LaneRetires i s x (x.s.modGroup x.g fun G => x.putDest G (byLane (x.lanes.map fun l =>
        (l, BitVec.ofNat 64 (spadWord x.s (padFree + l) (pl l)).toNat)))) (x.pc + 12)) ∧
    (∀ pl : Nat → Nat, i = .stp x.f →
      (∀ l ∈ x.lanes, ∃ v, spadCheck x.s x.G.bind.team x.G.loc.coreId ((x.a.toList.getD l 0).setWidth 32) 4 4 = .ok v ∧
        pl l = v.addr (spadOff ((x.a.toList.getD l 0).setWidth 32))) →
      underHad x.s (x.lanes.map fun l => (pl l, pl l + 4)) = false → ∃ s1, LaneRetires i s x s1 (x.pc + 12) ∧
        s1 = { x.s with spad := s1.spad, groups := s1.groups, padw := (loosen x.s x.g .store [] (x.lanes.map fun l => (pl l, pl l + 4))).padw } ∧
        (∀ a, (∀ l ∈ x.lanes, a < pl l ∨ pl l + 4 ≤ a) → cellGet s1.spad a = cellGet x.s.spad a) ∧
        (∀ l ∈ x.lanes, (∀ m ∈ x.lanes, l < m → pl m + 4 ≤ pl l ∨ pl l + 4 ≤ pl m) → ∀ k, k < 4 →
          cellGet s1.spad (pl l + k) = some ((x.b.toList.getD l 0).extractLsb' (8 * k) 8)) ∧
        (∀ h H, x.s.group? h = some H → ∃ e, s1.group? h = some { H with eng := e }))

/-- The accesses of a memory instruction: their lanes, addresses and sizes. -/
def accessParts (i : Instr) (x : LaneIn) : Option (List LAcc) :=
  let loads (n : Nat) : Option (List LAcc) := some (x.fetching.map fun l => ⟨l, laneEa x l, n⟩)
  let stores (n : Nat) : Option (List LAcc) := some (x.lanes.map fun l => ⟨l, laneEa x l, n⟩)
  match i with
  | .ldw _ | .ldwImm _ => loads 4
  | .ldh _ | .ldhImm _ => loads 2
  | .ldb _ | .ldbImm _ => loads 1
  | .ldd _ | .lddImm _ => some (x.lanes.filterMap x.pairAcc)
  | .ldx _ | .ldxImm _ => stores 4
  | .stw _ => stores 4
  | .sth _ => stores 2
  | .stb _ => stores 1
  | .std _ => stores 8
  | .atomAdd _ | .atomMin _ | .atomMax _ | .atomAnd _ | .atomOr _ | .atomXor _ | .atomSwap _ => loads 4
  | .atomCas _ => some (x.fetching.map fun l => ⟨l, (x.a.toList.getD l 0).toNat, 4⟩)
  | .eopAdd _ | .eopMin _ | .eopMax _ | .eopAnd _ | .eopOr _ | .eopXor _ => stores 4
  | _ => none

/-- R238, R239, R255: before any lane is translated, an address at or above 2^56 raises XLAT with subcode 4, and else one that is no
multiple of the size raises ALIGN, each in exactly the lanes that meet it, with their addresses. No lane is performed. -/
def Obligations.LaneAccessTraps : Prop :=
  ∀ (s : State) (x : LaneIn) (i : Instr) (as : List LAcc), LaneReady s i false x → accessParts i x = some as →
    (∀ e ∈ x.s.psets, e.party = .lane x.g → e.pc ≠ x.pc) →
    ((∃ a ∈ as, 2 ^ 56 ≤ a.va) → ∃ r : Raise, TrapsLane i s x.s x.G r ∧ r.cause = cXLAT ∧ r.sub = 4 ∧
      ∀ l : Fin 32, (r.lanes.getLsbD l = true ↔ ∃ a ∈ as, a.lane = l ∧ 2 ^ 56 ≤ a.va) ∧
        (∀ a ∈ as, a.lane = l → 2 ^ 56 ≤ a.va → r.addr[l] = BitVec.ofNat 64 a.va)) ∧
    ((∀ a ∈ as, a.va < 2 ^ 56) → (∃ a ∈ as, a.va % a.size ≠ 0) → ∃ r : Raise, TrapsLane i s x.s x.G r ∧ r.cause = cALIGN ∧
      ∀ l : Fin 32, (r.lanes.getLsbD l = true ↔ ∃ a ∈ as, a.lane = l ∧ a.va % a.size ≠ 0) ∧
        (∀ a ∈ as, a.lane = l → a.va % a.size ≠ 0 → r.addr[l] = BitVec.ofNat 64 a.va))

/-- The operation of a lane of an atomic or of an escrow update (R254, R256, R257): the new word from the old one, the operand, the compare
value, the code that a peer is sent (R63, R384), whether it is an FP32 addition, and the escrow tag. -/
def laneAtom (i : Instr) (x : LaneIn) (l : Nat) : Option (AtOp × Option EscTag) :=
  let c : W32 := (x.c.toList.getD l 0).setWidth 32
  let b : W32 := (x.b.toList.getD l 0).setWidth 32
  let at_ (f : W32 → W32) (k : BitVec 7) : Option (AtOp × Option EscTag) := some (⟨f, k, c, 0, false⟩, none)
  let esc (t : EscTag) (k : BitVec 7) (fp : Bool) : Option (AtOp × Option EscTag) := some (⟨id, k, c, 0, fp⟩, some t)
  match i with
  | .atomAdd f => if f.ty = .f32 then some (⟨fun o => f32Add o c, 0, c, 0, true⟩, none) else at_ (fun o => o + c) 0x00
  | .atomMin f => if f.ty = .n32 then at_ (fun o => BitVec.ofNat 32 (min o.toNat c.toNat)) 0x18
      else at_ (fun o => BitVec.ofInt 32 (min o.toInt c.toInt)) 0x08
  | .atomMax f => if f.ty = .n32 then at_ (fun o => BitVec.ofNat 32 (max o.toNat c.toNat)) 0x20
      else at_ (fun o => BitVec.ofInt 32 (max o.toInt c.toInt)) 0x10
  | .atomAnd _ => at_ (fun o => o &&& c) 0x28
  | .atomOr _ => at_ (fun o => o ||| c) 0x30
  | .atomXor _ => at_ (fun o => o ^^^ c) 0x38
  | .atomSwap _ => at_ (fun _ => c) 0x40
  | .atomCas _ => some (⟨fun o => if o = b then c else o, 0x48, c, b, false⟩, none)
  | .eopAdd f => if f.ty = .f32 then esc .addF 0x00 true else esc .addI 0x00 false
  | .eopMin f => if f.ty = .n32 then esc .minN 0x18 false else esc .minI 0x08 false
  | .eopMax f => if f.ty = .n32 then esc .maxN 0x20 false else esc .maxI 0x10 false
  | .eopAnd _ => esc .and 0x28 false
  | .eopOr _ => esc .or 0x30 false
  | .eopXor _ => esc .xor 0x38 false
  | _ => none

/-- R255, R256: a lane atomic whose words can be updated writes each active lane's old word, zero-extended, or the value that a handler
supplied; an escrow update writes no register. The lanes' operations are those of R254 and R257, at their own addresses. -/
def Claim.LaneAtomicsAndEscrow : Prop :=
  ∀ (s s1 : State) (x : LaneIn) (i : Instr) (as : List LAcc) (op : Nat → AtOp), LaneReady s i false x → accessParts i x = some as →
    ((∀ l, laneAtom i x l = some (op l, none)) → ∀ vs,
      atomLanes x.s x.w x.dbg x.pc (scopeOf x.f.var) (as.map fun a => ⟨a.lane, a.va, op a.lane⟩) = (.ok vs, s1) →
      LaneRetires i s x (s1.modGroup x.g fun G => x.putDest G (byLane ((vs ++ x.given).map fun p => (p.1, BitVec.ofNat 64 p.2.toNat))))
        (x.pc + 12)) ∧
    (∀ t, (∀ l, laneAtom i x l = some (op l, some t)) →
      escrowLanes x.s x.w x.dbg x.pc t (as.map fun a => ⟨a.lane, a.va, op a.lane⟩) = (.ok (), s1) → LaneRetires i s x s1 (x.pc + 12))

/-- R256, R257, R260: an escrow update of a word by a core. In a word that is in escrow under the same tag the core's partial combines with the
operand, or begins as it. A word that is not in escrow takes the word's value as its base, and the core's partial is the operand. No
register changes, and no byte of memory while the word's block is in use at both levels, unless its base is poison. -/
def Claim.EscrowUpdatesCombine : Prop :=
  ∀ (s : State) (core key : Nat) (t : EscTag) (x : W32) (pa : Nat) (ex ctx : Option Nat) (perm : LinePerm) (l : Line),
    findLine s key = some l → ∃ k, findLine (escrowUpdate s core key t x pa ex ctx perm) key = some k ∧
      (∀ b ps y, l.st = .escrow t b (ps ++ [(core, y)]) → (∀ p ∈ ps, p.1 ≠ core) → k.st = .escrow t b (ps ++ [(core, t.apply y x)])) ∧
      (∀ b ps, l.st = .escrow t b ps → (∀ p ∈ ps, p.1 ≠ core) → k.st = .escrow t b (ps ++ [(core, x)])) ∧
      ((∀ u b ps, l.st ≠ .escrow u b ps) → k.st = .escrow t (some l.value) [(core, x)]) ∧
      SameOutside s (escrowUpdate s core key t x pa ex ctx perm) ∧
      ((∃ p ∈ s.shUse, p.1 = key / 32) → (coreRivals s core (key / 32)).length < 16 → (∀ u ps, l.st ≠ .escrow u none ps) →
        (escrowUpdate s core key t x pa ex ctx perm).dram = s.dram)

/-- R254 to R257, R260: lane atomics and escrow updates, and what an update makes of a word. -/
def Obligations.LaneAtomicsAndEscrow : Prop := Claim.LaneAtomicsAndEscrow ∧ Claim.EscrowUpdatesCombine

/-! ### Cross-lane instructions (R88, R326 to R328) -/

/-- A pairwise tree over 2^n leaves from leaf k on (R88). -/
def segTree (op : LaneRes → LaneRes → LaneRes) (leaf : Nat → LaneRes) : Nat → Nat → LaneRes
  | 0, k => leaf k
  | n + 1, k => op (segTree op leaf n k) (segTree op leaf n (k + 2 ^ n))

/-- The identity and the operation of a reduction (R327). -/
def segParts (i : Instr) (f : LForm) : Option (W64 × (W64 → W64 → LaneRes)) :=
  let int (e : W32) (g : W32 → W32 → W32) : Option (W64 × (W64 → W64 → LaneRes)) :=
    some (BitVec.ofNat 64 e.toNat, fun a b => .of (BitVec.ofNat 64 (g (a.setWidth 32) (b.setWidth 32)).toNat))
  match i with
  | .segredAdd _ => if f.ty = .f32 then some (0x80000000, fun a b => roundTo .f32 .rne (exactAdd .rne (fvalOf .f32 a) (fvalOf .f32 b)))
      else int 0 fun a b => a + b
  | .segredMin _ => if f.ty = .f32 then some (0x7F800000, minMax .f32 false)
      else if f.ty = .n32 then int 0xFFFFFFFF fun a b => BitVec.ofNat 32 (min a.toNat b.toNat)
      else int 0x7FFFFFFF fun a b => BitVec.ofInt 32 (min a.toInt b.toInt)
  | .segredMax _ => if f.ty = .f32 then some (0xFF800000, minMax .f32 true)
      else if f.ty = .n32 then int 0 fun a b => BitVec.ofNat 32 (max a.toNat b.toNat)
      else int 0x80000000 fun a b => BitVec.ofInt 32 (max a.toInt b.toInt)
  | .segredAnd _ => int 0xFFFFFFFF fun a b => a &&& b
  | .segredOr _ => int 0 fun a b => a ||| b
  | .segredXor _ => int 0 fun a b => a ^^^ b
  | _ => none

/-- R88, R327, R328: SEGRED gives every active lane the pairwise tree of its segment, inactive lanes contributing the identity, and adds
the flags of the tree; SCANK counts the mask bits of its segment below a lane, or up to it. -/
def Claim.SegmentInstructions : Prop :=
  ∀ (s : State) (x : LaneIn) (i : Instr) (n : Nat), LaneReady s i false x → x.f.c.src = .raw (BitVec.ofNat 9 n) → 1 ≤ n → n ≤ 5 →
    (∀ e op fl, segParts i x.f = some (e, op) → ∀ r : Fin 32 → LaneRes,
      (∀ l : Fin 32, r l = segTree (fun p q => ⟨(op p.val q.val).val, p.fl ||| q.fl ||| (op p.val q.val).fl⟩)
        (fun k => .of (if x.act.getLsbD k then x.a.toList.getD k 0 else e)) n (l / 2 ^ n * 2 ^ n)) →
      isFlags x r fl → fl &&& x.G.sc.fpctl = 0 →
      LaneRetires i s x (x.s.setGroup x.g (laneWrote x (withFlags x.G fl) x.f.ty (Vector.ofFn fun l => place x.f.ty (r l).val)))
        (x.pc + 12)) ∧
    (∀ c : Fin 32 → Nat, (i = .scankExcl x.f ∧ (∀ l : Fin 32, c l = ((List.range (l % 2 ^ n)).filter fun k =>
          x.ka.getLsbD (l / 2 ^ n * 2 ^ n + k)).length) ∨
        i = .scankIncl x.f ∧ ∀ l : Fin 32, c l = ((List.range (l % 2 ^ n + 1)).filter fun k =>
          x.ka.getLsbD (l / 2 ^ n * 2 ^ n + k)).length) →
      LaneRetires i s x (x.s.setGroup x.g (laneWrote x x.G .x32 (Vector.ofFn fun l => BitVec.ofNat 64 (c l)))) (x.pc + 12))

/-- R326: ISECT with a vote port that has room writes the first 32 matches to all lanes of its pair, whatever lanes are active, and
appends its vote entry. -/
def Claim.IntersectionInstruction : Prop :=
  ∀ (s : State) (x : LaneIn), LaneReady s (.isect x.f) false x → x.G.lane.vp.length < 4 →
    let X (k : Nat) : Nat := (x.a.toList.getD k 0).toNat % 2 ^ 32
    let Y (k : Nat) : Nat := (x.b.toList.getD k 0).toNat % 2 ^ 32
    let real (f : Nat → Nat) : List Nat := (List.range 32).filter fun k => x.act.getLsbD k && f k != 0xFFFFFFFF
    let M : List (Nat × Nat) := (real X).flatMap fun i => ((real Y).filter fun j => X i = Y j).map fun j => (i, j)
    ∀ ax ay : Nat,
      (real X ≠ [] → real Y ≠ [] → ∃ mu, (∃ i ∈ real X, ∀ k ∈ real X, X k ≤ X i ∧ ∃ j ∈ real Y, (∀ k ∈ real Y, Y k ≤ Y j) ∧
          mu = min (X i) (Y j)) ∧
        ax = ((real X).filter fun k => X k ≤ mu).length ∧ ay = ((real Y).filter fun k => Y k ≤ mu).length) →
      (real X = [] ∨ real Y = [] → ax = (real X).length ∧ ay = (real Y).length) →
      ∃ H : Group, LaneRetires (.isect x.f) s x (x.s.setGroup x.g H) (x.pc + 12) ∧
        H.lane = { x.G.lane with vp := x.G.lane.vp ++ [BitVec.ofNat 64 (ax + 2 ^ 8 * ay + 2 ^ 16 * min M.length 32 +
          if 32 < M.length then 2 ^ 22 else 0)] } ∧
        H.sc = x.G.sc ∧ H.vec.kregs = x.G.vec.kregs ∧ (∀ r, x.f.dest = .v r → destRegs x.row x.f = [r, r + 1] → ∀ l : Fin 32,
          (H.vreg r).val[l] = (match M[l.val]? with
            | some p => BitVec.ofNat 32 p.1
            | none => 0xFFFFFFFF) ∧
          (H.vreg (r + 1)).val[l] = (match M[l.val]? with
            | some p => BitVec.ofNat 32 p.2
            | none => 0xFFFFFFFF))

/-- R326 to R328: SEGRED, SCANK and ISECT. -/
def Obligations.CrossLaneInstructions : Prop := Claim.SegmentInstructions ∧ Claim.IntersectionInstruction

/-! ### Calls and repairs (R339, R342 to R346) -/

/-- R343 to R346: CALLV. With no active lane it only goes on. It posts one call for its active lanes in a free record, once older writes
are visible, and waits; a code that no responder serves is answered at once with all ones (log 44). When its call is answered it writes
the replies, all ones in a lane with another code and after a timeout, and the record is free; that is an acquire. -/
def Obligations.CallsPostAndReturn : Prop :=
  ∀ (s : State) (x : LaneIn) (c : Context), LaneReady s (.callv x.f) false x → x.s.ctxOf x.G = some c →
    (x.act = 0 → LaneRetires (.callv x.f) s x (x.s.setGroup x.g x.G) (x.pc + 12)) ∧
    (x.act ≠ 0 →
      (∀ r, waitingCall x.G c x.pc = some r →
        (r.answered = false → r.timeout = false → LaneWaits (.callv x.f) s x x.s) ∧
        (r.answered = true ∨ r.timeout = true → ∃ R : Lanes LVal, LaneRetires (.callv x.f) s x
          ((dropEarly (x.s.modCtx x.G.bind.ctx fun c => { c with calls := c.calls.filter fun q => q.index != r.index }) x.g).modGroup x.g
            fun G => { x.putDest G R with wait := { G.wait with call := none } }) (x.pc + 12) ∧
          ∀ (i : Nat) (l : Fin 32), (lanesOf r.mask).head? = some i → (R[l]).toNat =
            if r.timeout = false ∧ (r.req[l]).toNat / 2 ^ 24 = (r.req.toList.getD i 0).toNat / 2 ^ 24 then (r.rep[l]).toNat
            else 2 ^ 32 - 1)) ∧
      (waitingCall x.G c x.pc = none →
        (visibleAt x.s x.g .domain = false → LaneWaits (.callv x.f) s x x.s) ∧
        (visibleAt x.s x.g .domain = true → (∀ n < 1024, ∃ q ∈ c.calls, q.index = n) →
          LaneWaits (.callv x.f) s x x.s) ∧
        (visibleAt x.s x.g .domain = true → ∀ n i, freeCall c = some n → (lanesOf x.act).head? = some i →
          0x22 ≤ (x.a.toList.getD i 0).toNat / 2 ^ 24 % 2 ^ 8 → ∃ s1, LaneRetires (.callv x.f) s x s1 (x.pc + 12) ∧
            s1.group? x.g = some (x.putDest x.G (splat 0xFFFFFFFF#64))) ∧
        (visibleAt x.s x.g .domain = true → ∀ n i, freeCall c = some n → (lanesOf x.act).head? = some i →
          (x.a.toList.getD i 0).toNat / 2 ^ 24 % 2 ^ 8 < 0x22 → ∃ t c' r H, LaneWaits (.callv x.f) s x t ∧
            t.contexts[x.G.bind.ctx]? = some c' ∧ r ∈ c'.calls ∧ r.index = n ∧ r.group = x.g ∧ r.mask = x.act ∧ r.seq = c.callSeq ∧
            r.gidx = x.G.bind.gidx ∧ r.loc = x.G.loc.reg ∧ r.answered = false ∧ r.dropped = false ∧ c'.callSeq = c.callSeq + 1 ∧
            (∀ l : Fin 32, r.req[l] = if x.act.getLsbD l then (x.a[l]).setWidth 32 else 0) ∧
            t.group? x.g = some H ∧ H.wait.call = some (x.pc, n) ∧ H.lane.lpc = x.G.lane.lpc ∧ H.vec = x.G.vec)))

/-- R339, R342: REPLACE in a handler. The supply form keeps its values in the active lanes that the current cause's record names, where the
cause is INJ, or UE of a load or an atomic; the store form is a full-word store at its base. -/
def Obligations.ReplaceSuppliesOrStores : Prop :=
  ∀ (s : State) (x : LaneIn),
    (LaneReady s (.replaceSupply x.f) true x → ∀ m : Mask,
      (∀ l : Fin 32, m.getLsbD l = true ↔ x.act.getLsbD l = true ∧ ∃ r, x.G.trap.recs.toList.getD x.G.trap.cur none = some r ∧
        (x.G.trap.cur = cINJ ∨ x.G.trap.cur = cUE ∧ (r.aux0 = 0 ∨ r.aux0 = 2)) ∧ r.info.getLsbD (32 + l) = true) →
      ∃ A : Lanes W64, LaneRetires (.replaceSupply x.f) s x (x.s.modGroup x.g fun G => { G with trap := { G.trap with
          supplied := Vector.ofFn fun l => if m.getLsbD l.val then some ((x.b[l]).setWidth 32) else G.trap.supplied[l]
          supAt := A
          supInj := if x.G.trap.cur = cINJ then G.trap.supInj ||| m else G.trap.supInj &&& ~~~m } }) (x.pc + 12) ∧
        ∀ l : Fin 32, (m.getLsbD l = false → A[l] = x.G.trap.supAt[l]) ∧ (m.getLsbD l = true → x.G.trap.cur ≠ cINJ →
          ∀ r, x.G.trap.recs.toList.getD x.G.trap.cur none = some r → A[l] = r.addr[l])) ∧
    (LaneReady s (.replaceStore x.f) true x → ∀ s1,
      storeLanes x.s { x.w with slots := some x.G.bind.area.toNat } x.dbg x.pc 4
        (x.lanes.map fun l => ⟨l, (x.a.toList.getD l 0).toNat, x.b.toList.getD l 0⟩) = (.ok (), s1) →
      LaneRetires (.replaceStore x.f) s x s1 (x.pc + 12))

/-! ### The part's own steps on streams, stores and engines (R28, R58, R108, R156, R160, R193 to R196, R205, R211, R214, R265, R316, R323,
R330, R344 to R346, R350, R387, R391, R392) -/

/-- R28, R108, R156: the head run of the decision queue starts: the lane PC goes to its start address and the latches are empty; a waiting
ITEM executes again once its queue has an item or is closed; and a group paused by YIELD goes on. -/
def Claim.StreamsGoOn : Prop :=
  ∀ (s : State) (g : Nat) (G : Group), s.group? g = some G →
    (G.running = true → G.lane.run = none → ∀ r t, G.lane.dq = r :: t → exec (.runStart g) s = .next (s.setGroup g { G with
      lane := { G.lane with run := some r, lpc := r.addr, dq := t, latches := noLatches, chain := none, rel := [], stall := .none } })) ∧
    (G.running = true → G.lane.stall = .item → (∀ t q, s.teamOf G = some t → itemQueue t G.loc.coreId = some q →
        q.closed = true ∨ q.ranges ≠ []) →
      exec (.itemRetry g) s = .next (s.setGroup g { G with lane := { G.lane with stall := .none } })) ∧
    (G.wait.paused = true → exec (.yieldResume g) s = .next (s.setGroup g { G with wait := { G.wait with paused := false } }))

/-- A member's T lanes or N lanes at a BRC (R160). -/
def memberHas (b : MMember) (taken : Bool) (i : Nat) : Bool := (if taken then b.act else b.em &&& ~~~b.act).getLsbD i

/-- t_i or n_i: the members of a list that hold such a thread at position i. -/
def threadsAt (ms : List MMember) (taken : Bool) (i : Nat) : Nat := (ms.filter fun b => memberHas b taken i).length

/-- a or b of R160: the most threads at one position. -/
def isMost (ms : List MMember) (taken : Bool) (a : Nat) : Prop :=
  (∀ i < 32, threadsAt ms taken i ≤ a) ∧ ∃ i < 32, threadsAt ms taken i = a

/-- Lane l of the group K of a member after its meeting closed is lane l of group G: the same mask bits, the same IH bit, and the same word
of every register that G has in a row. -/
def laneCameFrom (K G : Group) (l : Fin 32) : Prop :=
  (∀ j (_ : j < 7), (K.vec.kregs[j]).getLsbD l = (G.vec.kregs[j]).getLsbD l) ∧ K.lane.ih.getLsbD l = G.lane.ih.getLsbD l ∧
    ∀ r, (G.vreg r).st = .mapped → (K.vreg r).val[l] = (G.vreg r).val[l] ∧ (K.vreg r).undef.getLsbD l = (G.vreg r).undef.getLsbD l

/-- R160: admission to a meeting closes, ms being the members that still wait at the BRC, in ascending slot order. With one member, or
where a + b ≥ m, the meeting closes and every member makes its own split. Else every member has pushed a compaction entry; the k-th one
has the k-th T thread of each position and goes on at TARGET, or from the a-th on the (k − a)-th N thread and goes on at PC + 1, and the
members from a + b on have EM = 0 and park. The members' stacks do not reach the spill area, and no STEP is due. -/
def Claim.AdmissionCloses : Prop :=
  ∀ (s : State) (n : Nat) (m : Meet) (ms : List MMember) (a b : Nat), s.meets[n]? = some m → m.admitting = true → m.closed = false →
    anyHalted s (m.members.map (·.group)) = false → ms = waitingMembers s n m → (m.members.map (·.group)).Nodup →
    (∀ x ∈ ms, ∃ G, s.group? x.group = some G ∧ G.lane.stack.length < 8 ∧ G.dbg.stepm ≠ 2#2) → isMost ms true a → isMost ms false b →
    ∃ t, exec (.brcAdmissionClose n) s = .next t ∧
      (ms.length ≤ 1 ∨ ms.length ≤ a + b →
        t.meets[n]? = some { m with admitting := false, closed := true, members := [] } ∧
        ∀ x ∈ ms, ∀ G f, s.group? x.group = some G → brlFlow G true x.act (laneOff G m.pc) (laneOff G m.target) = some f →
          ∃ K, t.group? x.group = some K ∧ K.lane.em = f.em ∧ K.lane.stack = f.stack ∧ K.lane.lpc = f.next ∧ K.lane.stall = .none ∧
            K.vec = G.vec ∧ K.sc = G.sc) ∧
      (1 < ms.length → a + b < ms.length →
        (∃ x, t.meets[n]? = some x ∧ x.admitting = false ∧ x.closed = false ∧ x.members.map (·.group) = ms.map (·.group)) ∧
        ∀ k x G, ms[k]? = some x → s.group? x.group = some G → ∃ K, t.group? x.group = some K ∧
          K.lane.stack = ⟨.compaction, laneOff G m.pc + 1, laneOff G m.pc, m.mslot, 0, x.em⟩ :: G.lane.stack ∧
          K.lane.latches = noLatches ∧ K.lane.dq = G.lane.dq ∧ K.lane.vp = G.lane.vp ∧ K.sc = G.sc ∧
          (k < a → K.lane.lpc = m.target ∧ K.lane.stall = .none ∧ ∀ l : Fin 32,
            (K.lane.em.getLsbD l = true ↔ k < threadsAt ms true l) ∧
            ∀ y H, (ms.filter fun b => memberHas b true l)[k]? = some y → s.group? y.group = some H → laneCameFrom K H l) ∧
          (a ≤ k → k < a + b → K.lane.lpc = m.pc + 12 ∧ K.lane.stall = .none ∧ ∀ l : Fin 32,
            (K.lane.em.getLsbD l = true ↔ k - a < threadsAt ms false l) ∧
            ∀ y H, (ms.filter fun b => memberHas b false l)[k - a]? = some y → s.group? y.group = some H → laneCameFrom K H l) ∧
          (a + b ≤ k → K.lane.em = 0 ∧ K.lane.stall = .parked n))

/-- R387, R330: QUEUE that a group has been given is taken at the boundary of its scalar stream, once for all its queues: EPCS names the
next scalar instruction, and a handler that runs keeps it pending. -/
def Claim.QueueIsTaken : Prop :=
  ∀ (s : State) (g : Nat) (G : Group), s.group? g = some G → G.running = true → G.queueDue ≠ [] →
    ∃ t H, exec (.queueCause g) s = .next t ∧ t.group? g = some H ∧ H.queueDue = [] ∧ H.trap.cause.getLsbD cQUEUE = true ∧
      (G.trap.hmode = true → H.sc = G.sc ∧ H.lane = G.lane ∧ H.trap.hmode = true) ∧
      (G.trap.hmode = false → ∀ c, s.ctxOf G = some c → c.hbaseEn = true →
        H.trap.hmode = true ∧ H.trap.epcs = epcsOf G.sc.spc ∧ H.sc.spc = c.handler) ∧
      (G.trap.hmode = false → ∀ c, s.ctxOf G = some c → c.hbaseEn = false → H.status = .trapped cQUEUE)

/-- R249, R265: a store on its way, the oldest of its group to its word, is performed in its core's cache, which owns the word then, with
the enabled bytes changed, so that no other copy is left; it is then written to the word's slice, and is then visible to every cluster.
Nothing but the caches and the store changes; while the word's block is in use at both levels, no other word and no byte of memory. -/
def Claim.StoresArePerformed : Prop :=
  ∀ (s : State) (g n i : Nat) (w : PWrite), (writesOf s g)[n]? = some i → s.sq[i]? = some w → mayPerform s i w = true →
    (w.stage = 0 → ∃ t, exec (.accessPerformed g n) s = .next t ∧ t.sq = s.sq.set i { w with stage := 1 } ∧ SameOutside s t ∧
      (∀ l, findLine s w.key = some l → (∀ a b ps, l.st ≠ .escrow a b ps) → ∃ k, findLine t w.key = some k ∧ k.pa = some w.pa ∧
        k.st = .owned w.core (mergeBytes l.value w.data w.en) ∧
        ((∃ p ∈ s.shUse, p.1 = w.key / 32) → (coreRivals s w.core (w.key / 32)).length < 16 →
          t.dram = s.dram ∧ ∀ x, x ≠ w.key → findLine t x = findLine s x)) ∧
      (findLine s w.key = none → w.en = 0xF#4 → ∃ k, findLine t w.key = some k ∧ k.st = .owned w.core w.data ∧
        k.pa = some w.pa)) ∧
    (w.stage = 1 →
      (∀ l v, findLine s w.key = some l → l.st = .owned w.core v → ∃ t, exec (.accessPerformed g n) s = .next t ∧
        t = { s with lines := t.lines, sq := s.sq.set i { w with stage := 2 } } ∧
        findLine t w.key = some { l with st := .dirty v [w.core] } ∧ ∀ x, x ≠ w.key → findLine t x = findLine s x) ∧
      (ownedAt s w.key w.core = false → exec (.accessPerformed g n) s = .next { s with sq := s.sq.set i { w with stage := 2 } })) ∧
    (2 ≤ w.stage → exec (.accessPerformed g n) s = .next { s with sq := s.sq.eraseIdx i })

/-- R330, R350, R324: firmware resumes a group that halted in place: by HALT, where it stands; with a cause, by delivering it where the
handler base that holds by then is enabled. A new handler base is the context's. The group's clearing commands then read again the list
of the window that they are in. -/
def Claim.HaltedGroupsResume : Prop :=
  ∀ (s : State) (g : Nat) (G : Group) (c : Context), s.group? g = some G → s.ctxOf G = some c →
    (G.status = .stopped → exec (.groupResume g none) s = .next ((rereadLists s g).setGroup g { G with status := .running })) ∧
    (∀ k, G.status = .trapped k →
      (c.hbaseEn = true → ∃ t H, exec (.groupResume g none) s = .next t ∧ t = (rereadLists s g).setGroup g H ∧ InHandler G H c ∧ H.status = .running) ∧
      (∀ x : W64, x.getLsbD 0 = true → ∃ t H, exec (.groupResume g (some x)) s = .next t ∧ t.group? g = some H ∧
        H.trap.hmode = true ∧ H.status = .running ∧ H.sc.spc = BitVec.ofNat 64 (4 * (x.extractLsb' 2 54).toNat)))

/-- Command n of state s, whose turn at its engine it is: at most seven older copies of its core, or three older clearing commands of its
cluster, have not ended, and the group G that issued it runs. -/
def AtWork (s : State) (n : Nat) (c : Cmd) (G : Group) : Prop :=
  s.cmds[n]? = some c ∧ s.group? c.group = some G ∧ c.ended = false ∧ cmdsRun s G = true ∧
    ((s.cmds.take n).filter fun m => !m.ended && m.sameEngine c).length < (if c.kind.isCopy then 8 else 4)

/-- R193 to R195, R316, R323: the engines work on a command that they have started, eight copies of a core or four clearing commands of a
cluster at most. Of the command only its progress and its failure change, and it keeps its first failure; no other command changes. The
step raises no trap: no group's PCs, registers, masks, stack or causes change, whatever the command meets. -/
def Claim.EngineCommandsRun : Prop :=
  ∀ (s : State) (n : Nat) (c : Cmd) (G : Group) (e : Instr), AtWork s n c G →
    (if c.kind.isCopy then e = .copyComplete n else ∃ odd, e = .clearingComplete n odd) → ∃ t d, exec e s = .next t ∧
      t.cmds[n]? = some d ∧ d = { c with next := d.next, early := d.early, rowsDone := d.rowsDone, uses := d.uses, part := d.part, ended := d.ended, fail := d.fail } ∧
      (∀ f, c.fail = some f → d.fail = some f) ∧ (∀ k, k ≠ n → t.cmds[k]? = s.cmds[k]?) ∧
      ∀ (h : Nat) (H : Group), s.group? h = some H → ∃ K, t.group? h = some K ∧ K.sc = H.sc ∧ K.lane = H.lane ∧ K.vec = H.vec ∧
        K.trap = H.trap ∧ K.status = H.status

/-- R190, R193 to R195, R288: the last element, at flat index f, of a copy between words of memory and scratchpad (ELEM 0 to 2). An element out
of bounds fails with RECORD where the record does not clamp; one whose bank is not open, with DEED; memory that faults, with the fault's
cause. A fault that is being served leaves the element to be done. An uncorrectable word is reported as UE, and the copy ends. Else the
element's bytes are moved and the copy ends. What peers have answered for the element is then done with. Which address a failed element
reports (its own, its scratchpad address, the start of its word) is the model's choice (log 28). -/
def Claim.CopiesMoveElements : Prop :=
  ∀ (s s1 : State) (n f : Nat) (c : Cmd) (G : Group) (w : Who) (p : W32) (org sz : W64) (i : List Int) (va : Nat) (pa : W32),
    AtWork s n c G → engWho s (.copy n) c.group c.core c.ctx = some w → c.rcd.described = false → c.next = f → c.early = [] →
    boxCount c.rcd sz = f + 1 → i = elemCoord c.rcd org sz f → va = elemAddr c.rcd i → pa = p + BitVec.ofNat 32 (esz c.rcd.elem * f) →
    (c.kind = .copyLd p org sz ∨ c.kind = .copySt p org sz) →
    (inBounds c.rcd i = false → c.rcd.clamp = false → exec (.copyComplete n) s = .next (stopFail s n cRECORD 0 va f)) ∧
    (inBounds c.rcd i = true → spadView s G.bind.team c.core pa (esz c.rcd.elem) = none →
      exec (.copyComplete n) s = .next (stopFail s n cDEED 0 pa.toNat f)) ∧
    (∀ v, inBounds c.rcd i = true → spadView s G.bind.team c.core pa (esz c.rcd.elem) = some v →
      (c.kind = .copyLd p org sz →
        (∀ y, engRead s w va = (.ok (some y), s1) → exec (.copyComplete n) s =
          .next ((unitDone (padWrite s1 v (spadOff pa) (elemBytes y va (esz c.rcd.elem)) 0) n).modCmd n (Cmd.onto (f + 1) true))) ∧
        (engRead s w va = (.ok none, s1) → exec (.copyComplete n) s =
          .next ((unitDone (noteFail s1 n cUE 0 (va / 4 * 4) f) n).modCmd n (Cmd.onto (f + 1) true))) ∧
        (engRead s w va = (.park, s1) → exec (.copyComplete n) s = .next (s1.modCmd n (Cmd.onto f false))) ∧
        (∀ k sub, engRead s w va = (.fail k sub, s1) → exec (.copyComplete n) s = .next (stopFail s1 n k sub va f))) ∧
      (c.kind = .copySt p org sz → ∀ bs en d, bs = spadBytes s v 0 (spadOff pa) (esz c.rcd.elem) →
        storeWord va (esz c.rcd.elem) (zext64 (BitVec.ofNat 32 (ofLe bs))) (va / 4) = (en, d) →
        (engWrite (s.useFree 128) w false va en d = (.ok true, s1) → exec (.copyComplete n) s =
          .next ((unitDone s1 n).modCmd n (Cmd.onto (f + 1) true))) ∧
        (engWrite (s.useFree 128) w false va en d = (.ok false, s1) → exec (.copyComplete n) s =
          .next ((unitDone (noteFail s1 n cUE 0 (va / 4 * 4) f) n).modCmd n (Cmd.onto (f + 1) true))) ∧
        (engWrite (s.useFree 128) w false va en d = (.park, s1) → exec (.copyComplete n) s =
          .next (s1.modCmd n (Cmd.onto f false))) ∧
        (∀ k sub, engWrite (s.useFree 128) w false va en d = (.fail k sub, s1) → exec (.copyComplete n) s =
          .next (stopFail s1 n k sub va f))))

/-- R323, R325, R326: the last entry of a WALK.coo whose two words read: its row and its column are written at the entry's place in the two
lists, cap words apart, and the walk ends. A list word whose bank is not open fails the walk with DEED at the entry, and names the word,
which is the model's choice (log 28). -/
def Claim.WalksWriteEntries : Prop :=
  ∀ (s s1 s2 : State) (n e : Nat) (c : Cmd) (G : Group) (w : Who) (p row col : W32) (cap lo : Nat) (odd : List Nat), AtWork s n c G →
    engWho s (.clearing n) c.group c.core c.ctx = some w → c.kind = .walkCoo p cap lo (e + 1) → max c.next lo = e → c.early = [] →
    engRead s w (elemAddr c.rcd [0, e, 0, 0, 0]) = (.ok (some row), s1) →
    engRead s1 w (elemAddr c.rcd [1, e, 0, 0, 0]) = (.ok (some col), s2) →
    (∀ v u, spadView s2 G.bind.team c.core (listAt p (e - lo)) 4 = some v →
      spadView (walkPut s2 v (spadOff (listAt p (e - lo))) row) G.bind.team c.core (listAt p (cap + (e - lo))) 4 = some u →
      exec (.clearingComplete n odd) s = .next ((unitDone (walkPut (walkPut s2 v (spadOff (listAt p (e - lo))) row) u
        (spadOff (listAt p (cap + (e - lo)))) col) n).modCmd n (Cmd.onto (e + 1) true))) ∧
    (spadView s2 G.bind.team c.core (listAt p (e - lo)) 4 = none → exec (.clearingComplete n odd) s =
      .next (stopFail s2 n cDEED 0 (listAt p (e - lo)).toNat (e - lo)))

/-- The rows of A' and the columns of B' of one member of an operation (R202, R205, R213). -/
def tablesOf (s : State) (p : Part) : List (List FVal) × List (List FVal) :=
  match p.op.kind, s.group? p.g with
  | .mmq ty _ hf d a _, some G => operandTables (operandsOf s G ty d a) (kSteps ty) hf
  | _, _ => ([], [])

/-- R205, R211, R216: the group's next operation, when its turn in its quadrant has come, or the four of a quad meeting, complete: in every
member, C[i][j] of the block of B from member k is accumulated over the k-steps from row i of its own A' and column j of that B', and the
K registers hold the sums of the products by column and by row. Nothing else in the register file changes but these registers. -/
def Claim.MatrixOperationsComplete : Prop :=
  ∀ (s : State) (g : Nat) (G : Group) (m : MOp) (tok : BitVec 8) (ps : List Part) (n : Option Nat), s.group? g = some G →
    cmdsRun s G = true → G.eng.mops.find? (fun o => o.st == .flight) = some m → m.num % 256 = tok.toNat →
    isTurn s G.loc.quadId m = true → partsOf s g m = some (ps, n) → (ps.map (·.g)).Nodup → (∀ p ∈ ps, p.op.spoiled = false) →
    (∀ p ∈ ps, ∀ ty ck hf d a x H, p.op.kind = .mmq ty ck hf d a x → s.group? p.g = some H →
      badScale s H ty a = none ∧ tileClosed s H ty a = false) →
    ∃ t, exec (.matrixOpComplete g tok) s = .next t ∧
      ∀ p ∈ ps, ∀ ty ck hf d a x H, p.op.kind = .mmq ty ck hf d a x → s.group? p.g = some H → H.gone = false → H.eng.flips = [] →
        dCreg d + 8 * ps.length ≤ 128 → (ck = true → dKreg d + ps.length ≤ 128 ∧
          (dKreg d + ps.length ≤ dCreg d ∨ dCreg d + 8 * ps.length ≤ dKreg d)) →
        ∃ K, t.group? p.g = some K ∧ (∀ o ∈ K.eng.mops, o.num = p.op.num → o.st = .done) ∧ K.sc = H.sc ∧ K.lane = H.lane ∧
          (∀ k q, ps[k]? = some q →
            (∀ r, r < 8 → ∀ l : Fin 32, (K.vreg (BitVec.ofNat 7 (dCreg d + 8 * k + r))).val[l] =
              accumulate ((tablesOf s p).1.getD (8 * (l.val / 16) + r) []) ((tablesOf s q).2.getD (l.val % 16) []) 0
                (if dZacc d then 0 else engReg s H (32 * (dCreg d + 8 * k + r) + l.val) (BitVec.ofNat 7 (dCreg d + 8 * k + r)) l.val)
                (kSteps ty)) ∧
            (ck = true → ∀ l : Fin 32, (K.vreg (BitVec.ofNat 7 (dKreg d + k))).val[l] =
              if l.val < 16 then checkSum ((tablesOf s p).1.map fun row => (row, (tablesOf s q).2.getD l.val []))
              else checkSum ((tablesOf s q).2.map fun col => ((tablesOf s p).1.getD (l.val - 16) [], col)))) ∧
          (∀ r : VNum, (r.toNat < dCreg d ∨ dCreg d + 8 * ps.length ≤ r.toNat) →
            (ck = true → r.toNat < dKreg d ∨ dKreg d + ps.length ≤ r.toNat) → K.vreg r = H.vreg r)

/-- R214, R216, R204: a Hadamard operation that is its group's next one, its turn having come, transforms its rows in place, each from the old
row; operations of other groups in flight over them have undefined results, and no other unit sees them ordered yet. One whose range was
touched leaves the bytes of it that the group can still access undefined (none where its range is no longer the group's: log 103, the
model's choice). -/
def Claim.HadamardCompletes : Prop :=
  ∀ (s : State) (g : Nat) (G : Group) (m : MOp) (tok : BitVec 8) (ty : HTy) (a : W32) (rows n : Nat), s.group? g = some G →
    cmdsRun s G = true → G.eng.mops.find? (fun o => o.st == .flight) = some m → m.num % 256 = tok.toNat →
    isTurn s G.loc.quadId m = true → m.kind = .had ty a rows n → G.gone = false →
    (∀ v, m.spoiled = false → spadView s G.bind.team G.loc.coreId a (rows * n * hadEsz ty) = some v →
      exec (.hadComplete g tok) s = .next ((loosen (spoilOthers (hadRows s v (spadOff a) ty n 0 rows) g (mopRanges s G m)) g (.had m.num) [g]
        (mopRanges s G m)).modGroup g fun H => H.setOp m.num fun o => { o with st := .done })) ∧
    (m.spoiled = true ∨ spadView s G.bind.team G.loc.coreId a (rows * n * hadEsz ty) = none → exec (.hadComplete g tok) s =
      .next ((dropRanges s (mopRanges s G m)).modGroup g fun H => H.setOp m.num fun o => { o with st := .done }))

/-- R390 to R393: a running collective waits with its buffer while stores of its group are on their way. One that has read its own buffer
sends what other members lack, and goes on with their data: parameters that differ end it with RECORD; while a member's data is not all
here it waits; once all is here, and the words can be written, it writes its part of the result, with its new residual, in one step or word
by word in several, and ends with the status of success. Or it ends by an abort or by a failure elsewhere: its status
then names the cause with PEER, or ABORT. FELL says that switch accumulation was asked for and not granted. No trap is raised. -/
def Claim.CollectivesEnd : Prop :=
  ∀ (s : State) (g : Nat) (G : Group) (num : BitVec 8) (c : Coll) (ctx : Context) (m : Comm) (w : Who), s.group? g = some G →
    runningColl G num = some c → s.ctxOf G = some ctx → commOf ctx c.comm = some m →
    engWho s (.coll g c.num) g G.loc.coreId G.bind.ctx = some w →
    (c.out = none → c.own = none → storesWait s g = true → exec (.collectiveComplete g num .data) s = .next s) ∧
    (∀ own ks s1 s2, c.out = none → c.own = some own →
      sendAll (dropAsks s w.party) w.ctx.asid m.rank (collChunks c own) (m.members.zipIdx.map fun q => (q.2, q.1, c.sent.getD q.2 0)) = (ks, s1) →
      s2 = (s1.modGroup g fun H => H.setColl c.num fun d => { d with own := some own, resid := c.resid, sent := ks }) →
      ((∃ q ∈ m.members.zipIdx, q.2 ≠ m.rank ∧ ∃ x ∈ collFrom s2 w.ctxNo c q.1, paramsDiffer c x.d = true) →
        ∃ t K, exec (.collectiveComplete g num .data) s = .next t ∧ t.group? g = some K ∧ K.trap = G.trap ∧
          ∀ o ∈ K.eng.colls, o.num = c.num → o.status = some (collStatus cRECORD (c.swa && !m.grant) false false false)) ∧
      ((∀ q ∈ m.members.zipIdx, q.2 ≠ m.rank → ∀ x ∈ collFrom s2 w.ctxNo c q.1, paramsDiffer c x.d = false) →
        (allWords s2 w.ctxNo m c own = none → exec (.collectiveComplete g num .data) s = .next s2) ∧
        (∀ all lo xs sat out s3 s4 s5 k, allWords s2 w.ctxNo m c own = some all → collResult s2 m c all = (lo, xs, sat) →
          collReady s2 w (c.base.toNat + 4 * lo) xs.length = (.ok (), s3) → collReady s3 w m.area.toNat c.resid.length = (.ok (), s4) →
          out = atWords (c.base.toNat + 4 * lo) xs ++ atWords m.area.toNat c.resid → out.length ≤ 2 ^ 29 → c.wrote = 0 →
          collWrite ((s4.useFree c.n).modGroup g fun H => H.setColl c.num fun d => { d with out := some (out, sat) }) w 0 out =
            (.ok (), k, s5) →
          ∃ t K, exec (.collectiveComplete g num .data) s = .next t ∧ t.group? g = some K ∧ K.trap = G.trap ∧ t.lines = s5.lines ∧
            ∀ o ∈ K.eng.colls, o.num = c.num → o.status = some (collStatus 0 (c.swa && !m.grant) sat false false)))) ∧
    (∀ out sat most k s1, c.out = some (out, sat) → collWrite s w c.wrote ((out.drop c.wrote).take most) = (.ok (), k, s1) → k < out.length →
      exec (.collectiveComplete g num (.part most)) s = .next (s1.modGroup g fun H => H.setColl c.num fun d => { d with wrote := k })) ∧
    (∃ t K, exec (.collectiveComplete g num .abort) s = .next t ∧ t.group? g = some K ∧ K.trap = G.trap ∧
      ∀ o ∈ K.eng.colls, o.num = c.num → o.status = some (collStatus 0 (c.swa && !m.grant) false true true)) ∧
    (∀ k, ∃ t K, exec (.collectiveComplete g num (.peer k)) s = .next t ∧ t.group? g = some K ∧ K.trap = G.trap ∧
      ∀ o ∈ K.eng.colls, o.num = c.num → o.status = some (collStatus k (c.swa && !m.grant) false true false))

/-- R189: a record may leave the record cache at any time, and nothing else changes. -/
def Claim.RecordsLeaveTheCache : Prop :=
  ∀ (s : State) (k : Nat) (asid : BitVec 16) (a : W64), (∃ e ∈ s.rcache, e.cluster = k ∧ e.tag = asid ∧ e.addr = a) →
    ∃ L, exec (.recordCacheDrop k asid a) s = .next { s with rcache := L } ∧ (∀ e ∈ L, ¬ (e.cluster = k ∧ e.tag = asid ∧ e.addr = a)) ∧
      (∀ e ∈ s.rcache, ¬ (e.cluster = k ∧ e.tag = asid ∧ e.addr = a) → e ∈ L)

/-- A call of a context closed from s to t: its record holds the replies, or all ones after a timeout; one that no group waits for any more
is free. -/
def CallClosed (t : State) (ctx : Nat) (c : Context) (r : CallRec) (rep : Lanes W32) (late : Bool) : Prop :=
  ∃ x, t.contexts[ctx]? = some x ∧ x.calls = if r.dropped then c.calls.filter (fun q => q.index != r.index)
    else c.calls.map fun q => if q.index = r.index then { q with rep := rep, answered := !late, timeout := late } else q

/-- R307, R344 to R346: firmware serves the calls that select it, and a host's call that is not answered in time returns all ones. A split
call records 4 to 12 for the stacks that it selects; a refill of frames that firmware can take closes its call with the replies. -/
def Claim.CallsAreServed : Prop :=
  ∀ (s : State) (ctx n : Nat) (c : Context) (r : CallRec), s.contexts[ctx]? = some c → openCall c n = some r →
    (r.fn < 0x20 → ∃ t, exec (.callTimeout ctx n) s = .next t ∧ CallClosed t ctx c r (splat 0xFFFFFFFF#32) true ∧ t.groups = s.groups) ∧
    (r.fn = 0x20 → ∃ t, exec (.callServiceSplit ctx n) s = .next t ∧ t.groups = s.groups ∧
      ∀ i, lanesOf r.mask = [i] → callFn (r.req.toList.getD i 0) = 0x20 → ∀ k ∈ splitStacks (r.req.toList.getD i 0), ∃ x, t.contexts[ctx]? = some x ∧
        x.split.toList.getD k none = some (max 4 (min 12 (bitsOf (r.req.toList.getD i 0).toNat 3 0)))) ∧
    (r.fn = 0x21 → ∀ frames s1 reps s2, takeGiven s frames = some s1 →
      callLanes (refillLane ctx c) r 0x21 (frames, s1) = (reps, [], s2) → ∃ t, exec (.callServiceRefill ctx n frames) s = .next t ∧
        CallClosed t ctx c r reps false ∧ t.groups = s.groups)

/-- The steps that the part makes on streams, stores, engines and calls. -/
def Obligations.StreamAndStoreSteps : Prop :=
  Claim.StreamsGoOn ∧ Claim.AdmissionCloses ∧ Claim.QueueIsTaken ∧ Claim.StoresArePerformed ∧ Claim.HaltedGroupsResume ∧
    Claim.RecordsLeaveTheCache

/-- The steps that complete what the engines, the matrix unit and firmware's call service have queued.
The model's choices in it: log 28 and 103. -/
def Obligations.EngineAndCallSteps : Prop :=
  Claim.EngineCommandsRun ∧ Claim.CopiesMoveElements ∧ Claim.WalksWriteEntries ∧ Claim.MatrixOperationsComplete ∧ Claim.HadamardCompletes ∧
    Claim.CollectivesEnd ∧ Claim.CallsAreServed


/-! ### Steps of the memory side (R118, R173, R225 to R233, R248, R279 to R291, R404) -/

/-- R194, R283, R286, R287: the home unit translates an address of a context ahead of its access: at most its translations, its lifetime
counts and the table words that it found uncorrectable change; no cached word and no group does. A fault that a copy's scout pass meets is
posted to the service, if no record of that page is open and the die has room. -/
def Claim.MissesAreWalked : Prop :=
  ∀ (s s1 : State) (asid : BitVec 16) (va : W64) (k : AccKind) (i : Nat) (c : Context), ctxByAsid s asid = some i →
    s.contexts[i]? = some c → va.toNat < 2 ^ 56 →
    (∀ l big, xlate s c va.toNat (match k with | .read => .read | .write => .write | .exec => .exec) = (.ok l big, s1) →
      exec (.translationMiss asid va k) s = .next s1 ∧ s1.groups = s.groups ∧ s1.lines = s.lines ∧ s1.contexts = s.contexts) ∧
    (∀ f, xlate s c va.toNat (match k with | .read => .read | .write => .write | .exec => .exec) = (.fault f, s1) →
      scouted s i c va.toNat k = true →
      ∃ t, exec (.translationMiss asid va k) s = .next t ∧ t.groups = s.groups ∧ t.lines = s.lines ∧ t.contexts = s.contexts ∧
        t.tlb = s1.tlb ∧ (c.nosvc = false → (∀ die, (s1.faults.filter fun r => !r.closed && r.die == die).length < 256) →
          ∃ r ∈ t.faults, r.closed = false ∧ r.ctx = i ∧ pageHolds r.page r.big va.toNat = true))

/-- R286, R287, R289, R295: firmware resolves a fault with a valid leaf, so that its accesses are made again; or delivers it to every access
that it joined, each with its own subcode, or, where no frame is to be had, as FRAME; or hands it to the host where FSVC says so, with a
NOTICE. A host that does not answer gives XLAT with subcode 8. -/
def Claim.FaultsAreServed : Prop :=
  ∀ (s : State) (n : Nat) (f : OpenFault) (c : Context), openFault s n = some f → s.contexts[f.ctx]? = some c →
    (f.toHost = false →
      (∀ leaf t, serveFault s n f leaf = some t → exec (.faultResolve n leaf) s = .next t ∧ leafV leaf = true ∧ leafLeaf leaf = true ∧
        (t.faults[n]?).map (·.closed) = some true ∧ t.groups = s.groups) ∧
      (frameSpent s f = true → exec (.faultDeliver n true) s = .next { s with
        verdicts := s.verdicts ++ f.joined.map (fun p => ⟨p.1, f.page, f.big, cFRAME, 0⟩)
        faults := s.faults.modify n fun f => { f with closed := true } }) ∧
      (c.fsvc ≠ 1#2 → exec (.faultDeliver n false) s = .next { s with
        verdicts := s.verdicts ++ f.joined.map (fun p => ⟨p.1, f.page, f.big, faultCause p.2, p.2⟩)
        faults := s.faults.modify n fun f => { f with closed := true } }) ∧
      (c.fsvc = 1#2 → ∃ t p, exec (.faultDeliver n false) s = .next t ∧ (t.faults[n]?).map (·.toHost) = some true ∧
        t.fab.notices = s.fab.notices ++ [p] ∧ p.kind = 0x40#8 ∧ p.dst = c.creator ∧ p.asid = c.asid ∧ p.body = .faultRecord n)) ∧
    (f.toHost = true → exec (.faultHostTimeout n) s = .next { s with
      verdicts := s.verdicts ++ f.joined.map (fun p => ⟨p.1, f.page, f.big, cXLAT, 8⟩)
      faults := s.faults.modify n fun f => { f with closed := true } })

/-- R291, R300: firmware moves an unpinned page to a free frame of the same stack, in contexts that allow it, as every context that maps it
has to, or from a frame that wears out. Every context's entry of it names the new frame then (in a memory of canonical form, which every
run keeps). The old frames are free, but for a frame that wears out, which is retired: that two errors corrected there or more count as
wear, and that the frame is retired, is the model's choice (log 55). Of a sparse page its map part alone moves, 128 bytes, or 4 KiB at
2 MiB, into a free frame. -/
def Claim.PagesMigrate : Prop :=
  ∀ (s : State) (i pa level : Nat) (c : Context) (va frame e : W64) (ls : List MovedLeaf), s.contexts[i]? = some c → c.live = true →
    va.toNat < 2 ^ 56 → leafPlace s c va.toNat = some (pa, level, e) → ls = leavesOn s (leafSparse e) (leafAddr e) (if leafSparse e = true then mapBytes level else leafBytes level) →
    (∀ l ∈ ls, leafPin l.leaf = false ∧ ∀ m ∈ ls, l.place = m.place ∨ l.place + 8 ≤ m.place ∨ m.place + 8 ≤ l.place) → paStack frame.toNat = paStack (leafAddr e) →
    paStack (leafAddr e) < 8 → ((∀ l ∈ ls, l.ctx.xlctl.getLsbD 4 = true) ∨ frameWorn s (leafAddr e) = true) →
    (leafSparse e = false → frame.toNat % leafBytes level = 0 →
      (∀ f ∈ pageFrames frame.toNat level, f ∈ framesOf s (paStack (leafAddr e)) ∧ wordExists s f = true) →
      ∃ t, exec (.pageMigrate i va frame) s = .next t ∧ framesOf t (paStack (leafAddr e)) =
          (framesOf s (paStack (leafAddr e))).filter (fun f => !(pageFrames frame.toNat level).contains f) ++
            (if frameWorn s (leafAddr e) = true then [] else pageFrames (leafAddr e) level) ∧
        (s.memOk = true → rawDouble t pa = e - BitVec.ofNat 64 (leafAddr e) + frame ∧
          ∀ l ∈ ls, rawDouble t l.place = l.leaf - BitVec.ofNat 64 (leafAddr e) + frame) ∧ t.groups = s.groups) ∧
    (leafSparse e = true → frame.toNat % (if level = 1 then 4096 else 128) = 0 →
      frame.toNat / 65536 * 65536 ∈ framesOf s (paStack (leafAddr e)) → wordExists s (frame.toNat / 65536 * 65536) = true →
      ∃ t, exec (.pageMigrate i va frame) s = .next t ∧ framesOf t (paStack (leafAddr e)) =
          (framesOf s (paStack (leafAddr e))).filter (fun f => f != frame.toNat / 65536 * 65536) ∧
        (s.memOk = true → rawDouble t pa = e - BitVec.ofNat 64 (leafAddr e) + frame ∧
          ∀ l ∈ ls, rawDouble t l.place = l.leaf - BitVec.ofNat 64 (leafAddr e) + frame) ∧ t.groups = s.groups)

/-- R248: a block leaves both levels: no word of it is cached any more. It leaves one core's cache: the core holds none of its words, and
what it owned is dirty in the shared cache, and its partials are in the base. (In a part whose contexts track no dirty sectors: R292 to
R294 record the sector.) -/
def Claim.BlocksAreEvicted : Prop :=
  ∀ (s : State) (tag : BitVec 16) (b : Nat), b < 2 ^ 49 → (∃ l ∈ s.lines, lineKey tag (32 * b) ≤ l.key ∧ l.key < lineKey tag (32 * b) + 32) →
    (∃ t, exec (.cacheEvict none tag b) s = .next t ∧ t.groups = s.groups ∧ ((∀ c ∈ s.contexts, c.tracking = false) →
      ∀ l ∈ t.lines, ¬ (lineKey tag (32 * b) ≤ l.key ∧ l.key < lineKey tag (32 * b) + 32))) ∧
    (∀ k, (∀ c ∈ s.contexts, c.tracking = false) → ∃ L, exec (.cacheEvict (some k) tag b) s = .next { s with
        lines := L, coreUse := s.coreUse.filter fun p => p ≠ (k, lineKey tag (32 * b) / 32) } ∧ ∀ l ∈ L, lineKey tag (32 * b) ≤ l.key →
      l.key < lineKey tag (32 * b) + 32 → (∀ v, l.st ≠ .owned k v) ∧ (∀ v h, l.st = .clean v h → k ∉ h) ∧
        (∀ v h, l.st = .dirty v h → k ∉ h) ∧ (∀ t x ps, l.st = .escrow t (some x) ps → ∀ p ∈ ps, p.1 ≠ k))

/-- R225, R226, R230, R232 to R235: a burst of one word of each die of its mask, none of which refreshes. A read burst serves every request
that waits for its words: a word in which no check fails enters the shared cache. A write burst makes the scrubs that wait for its words,
once no read of them waits (R226).
A scrub writes the word back as it was corrected, with a fresh check byte (in a memory of canonical form, which every run keeps). -/
def Claim.BurstsCheckAndScrub : Prop :=
  ∀ (s : State) (pch : Nat),
    (∀ pat : BurstPattern, pchOpen s pch = true → diesOf (patMask pat) ≠ [] → patMask pat &&& refreshing s (pch / 32) = 0 →
      (∀ d ∈ diesOf (patMask pat), (burstWord s pch pat d).isSome = true) →
      ((∀ d ∈ diesOf (patMask pat), ∀ pa, burstWord s pch pat d = some pa → ∃ r ∈ s.reqs, r.pa = pa ∧ r.failed = false) →
        ∃ t, exec (.pchBurst pch false pat) s = .next t ∧ SameOutside s t ∧
          (∀ r ∈ t.reqs, r.failed = false → r ∈ s.reqs ∧ ∀ d ∈ diesOf (patMask pat), burstWord s pch pat d ≠ some r.pa) ∧
          (∀ d pa r x, diesOf (patMask pat) = [d] → burstWord s pch pat d = some pa → reqsAt s pa = [r] → findLine s r.key = none →
            wordValue s pa = some x → ∃ l, findLine t r.key = some l ∧ l.st = .clean x [] ∧ l.pa = some pa)) ∧
      ((∀ d ∈ diesOf (patMask pat), ∀ pa, burstWord s pch pat d = some pa → (∃ q ∈ s.scrubs, q.1 = pa) ∧ reqsAt s pa = []) →
        ∃ t, exec (.pchBurst pch true pat) s = .next t ∧ SameOutside s t ∧ t.lines = s.lines ∧
          ∀ q, q ∈ t.scrubs ↔ q ∈ s.scrubs ∧ ∀ d ∈ diesOf (patMask pat), burstWord s pch pat d ≠ some q.1)) ∧
    (∀ q, s.scrubs.find? (fun q => wordPch s q.1 == pch) = some q → dieBusy s q.1 = false → reqsAt s q.1 = [] → ∃ t,
      exec (.scrubWrite pch) s = .next t ∧ t = dramWrite s q.1 q.2 ∧ (∀ x, x ∈ t.scrubs ↔ x ∈ s.scrubs ∧ x.1 ≠ q.1) ∧
      (s.memOk = true → rawWord t q.1 = q.2 ∧ wordSyn t q.1 = 0))

/-- R228, R230: a refresh that falls due is made, or postponed against the reserve where 16 or more requests wait for the die; one is made
ahead of its time under CB with a reserve below 8, where none waits; and it ends. CB follows the hints of the bound teams' launches, and
the beats of the last interval. -/
def Claim.DiesRefresh : Prop :=
  ∀ (s : State) (st die n : Nat) (k : Stk), s.stks.toList[st]? = some k → die < 16 →
    n = (s.reqs.filter fun r => paStack r.pa == st && wordDie r.pa == die && !r.failed).length →
    (k.refreshing.getLsbD die = false → ∃ t j, exec (.refreshDue st die) s = .next t ∧ t.stks.toList[st]? = some j ∧
      t = { s with stks := t.stks } ∧ (0 < k.resvOf die → 16 ≤ n → j.resvOf die = k.resvOf die - 1 ∧ j.refreshing = k.refreshing) ∧
      (k.resvOf die = 0 ∨ n < 16 → j.resvOf die = k.resvOf die ∧ j.refreshing.getLsbD die = true)) ∧
    (k.refreshing.getLsbD die = false → k.cb = true → k.resvOf die < 8 → n = 0 → ∃ t j, exec (.refreshAhead st die) s = .next t ∧
      t.stks.toList[st]? = some j ∧ j.resvOf die = k.resvOf die + 1 ∧ j.refreshing.getLsbD die = true) ∧
    (k.refreshing.getLsbD die = true → ∃ t j, exec (.refreshEnd st die) s = .next t ∧ t.stks.toList[st]? = some j ∧ j.resv = k.resv ∧
      ∀ d, j.refreshing.getLsbD d = (k.refreshing.getLsbD d && !decide (d = die))) ∧
    (∀ below : Bool, ∃ t j, exec (.cbEvaluate st below) s = .next t ∧ t.stks.toList[st]? = some j ∧
      (j.cb = true ↔ (2 ∉ boundHints s ∧ ((∀ h ∈ boundHints s, h = 1) ∨ below = true))) ∧ j.resv = k.resv)

/-- R228, R229, R403, R404: PCCTL of pseudo-channel p of stack s lies at 0x8000_0000 + 0x1_0000 × s + 0x100 + 4 × p; it reads RDSTR, and DIS
in bit 7. A write of RDSTR outside 4 to 12 is ignored; another value takes effect at once, and drains the pseudo-channel, unless
one was changed within the interval: then it waits, and replaces one that waits. A drain ends; so does an interval, which makes the
change that waits. A strand's retraining is counted. -/
def Claim.StrandsSplit : Prop :=
  ∀ (s : State) (n : Nat) (p : Pch) (a v : W32) (x : BitVec 4), s.pchs.toList[n]? = some p → n < 256 → x = v.setWidth 4 →
    a.toNat = 0x80000000 + 0x10000 * (n / 32) + 0x100 + 4 * (n % 32) →
    (ctlRead s a.toNat).setWidth 4 = p.rdstr ∧ (ctlRead s a.toNat).getLsbD 7 = !pchEnabled s n ∧
    (pchEnabled s n = true →
      (¬ (4 ≤ x.toNat ∧ x.toNat ≤ 12) → exec (.pcctlWrite a v) s = .next s) ∧
      (4 ≤ x.toNat → x.toNat ≤ 12 → ∃ t q, exec (.pcctlWrite a v) s = .next t ∧ t.pchs.toList[n]? = some q ∧
        t = { s with pchs := t.pchs } ∧ (∀ m, m ≠ n → t.pchs.toList[m]? = s.pchs.toList[m]?) ∧
        (p.held = true → q = { p with waiting := some x }) ∧ (p.held = false → x = p.rdstr → q = p) ∧
        (p.held = false → x ≠ p.rdstr → q.rdstr = x ∧ q.drain = true ∧ q.held = true ∧ q.waiting = none)) ∧
      exec (.strandRetrain n) s = .next (s.count (.strandRetrain n) 1)) ∧
    (p.drain = true → ∃ t, exec (.strandDrainEnd n) s = .next t ∧ t.pchs.toList[n]? = some { p with drain := false } ∧
      t = { s with pchs := t.pchs }) ∧
    (p.held = true → p.drain = false → ∃ t q, exec (.rdstrDeferred n) s = .next t ∧ t.pchs.toList[n]? = some q ∧
      t = { s with pchs := t.pchs } ∧ (p.waiting = none → q = { p with held := false }) ∧
      (∀ y, p.waiting = some y → q.rdstr = y ∧ q.waiting = none ∧ (y ≠ p.rdstr → q.drain = true ∧ q.held = true)))

/-- R118, R173: a soft error changes bits of a row, a latch or a byte of scratchpad, and nothing else: no trap, no record. A byte that has no
value stays without one. -/
def Claim.SoftErrorsAreSilent : Prop :=
  ∀ (s : State),
    (∀ g G (v : VNum) (lane : Nat) (x : W32), s.group? g = some G → (G.vreg v).st = .mapped → lane < 32 → ∃ t H,
      exec (.softError (.row g v lane x)) s = .next t ∧ t = s.setGroup g H ∧ H.trap = G.trap ∧ H.sc = G.sc ∧ H.lane = G.lane ∧
      (∀ i : Fin 32, (H.vreg v).val[i] = (G.vreg v).val[i] ^^^ (if i.val = lane then x else 0)) ∧ ∀ r, r ≠ v → H.vreg r = G.vreg r) ∧
    (∀ g G n (lane : Nat) (x : W64), s.group? g = some G → lane < 32 → ∃ t H,
      exec (.softError (.latch g n lane x)) s = .next t ∧ t = s.setGroup g H ∧ H = { G with lane := { G.lane with latches := H.lane.latches } }) ∧
    (∀ core bank off (x : Byte), core < 512 → bank < 32 → off < bankBytes → ∃ t, exec (.softError (.scratch core bank off x)) s = .next t ∧
      t = { s with spad := t.spad } ∧ cellGet t.spad (core * coreBytes + bank * bankBytes + off) =
        (cellGet s.spad (core * coreBytes + bank * bankBytes + off)).map (· ^^^ x)) ∧
    (∀ core bank n (x : Byte), core < 512 → bank < 32 → n < 768 → ∃ t, exec (.softError (.scale core bank n x)) s = .next t ∧
      t = { s with scale := t.scale } ∧ cellGet t.scale (core * coreScale + bank * 768 + n) =
        (cellGet s.scale (core * coreScale + bank * 768 + n)).map (· ^^^ x))

/-- The steps that the part makes on its memory side.
The model's choices in it: log 55. -/
def Obligations.MemorySteps : Prop :=
  Claim.MissesAreWalked ∧ Claim.FaultsAreServed ∧ Claim.PagesMigrate ∧ Claim.BlocksAreEvicted ∧ Claim.BurstsCheckAndScrub ∧
    Claim.DiesRefresh ∧ Claim.StrandsSplit ∧ Claim.SoftErrorsAreSilent


/-! ### Firmware's steps on launches, queues and tenants (R94 to R115, R356, R359, R364 to R374, R386, R387) -/

/-- R22, R94, R95, R111: the next team of the launch whose turn it is binds all its groups at once: each stands in its own slot at its role's
entry point, with every scalar register 0, every lane live and its role's budget. -/
def Claim.TeamsBindWhole : Prop :=
  ∀ (s s1 : State) (n : Nat) (l : Launch) (c : Context) (t : Tenant) (p : Placement), s.launches[n]? = some l →
    s.contexts[l.ctx]? = some c → tenantOf s l.ctx = some t → c.live = true → nextReady s l.ctx = some n → t.vacating = false →
    (t.running = none ∨ t.running = some l.ctx) → slotsNamed l.rcd p = true →
    (∀ G ∈ boundGroups s c l n p, entryRefused s G = false) → slotsGood t l.rcd p = true → areasGood s l.ctx c p = true →
    banksGood l.rcd p = true → boundOk s t l.ctx l.rcd = true → (l.rcd.items ≠ 0 → ∀ k ∈ placeCores p, itemRoom s k = true) →
    claimAll s p = some s1 → (∀ k ∈ placeCores p, tenantBanks s1 t k + l.rcd.banks ≤ t.rcd.banks) →
    ∃ u, exec (.teamCommit n l.nextTeam p) s = .next u ∧ u.groups.length = s1.groups.length + p.slots.length ∧
      (u.launches[n]?).map (·.nextTeam) = some (l.nextTeam + 1) ∧
      ∀ k x, p.slots[k]? = some x → ∃ G, u.groups[s1.groups.length + k]? = some G ∧ G.inSlot = true ∧ G.running = true ∧
        G.loc = slotIdOf x.core x.quad x.slot ∧ (∀ i : Fin 64, G.sc.sregs[i] = 0) ∧ G.lane.em = 0xFFFFFFFF#32 ∧ G.lane.run = none ∧
        G.lane.lpc = l.rcd.lbase ∧ G.trap.hmode = false ∧ (∀ r : VNum, (G.vreg r).st = .unmapped) ∧
        (k < l.rcd.cgroups → G.bind.role = false ∧ G.bind.group.toNat = k % 512 ∧ G.bind.budget = l.rcd.cregs ∧
          G.sc.spc = (l.rcd.sbase + zext64 l.rcd.centry) &&& 0x00FFFFFFFFFFFFFF#64) ∧
        (l.rcd.cgroups ≤ k → G.bind.role = true ∧ G.bind.group.toNat = (k - l.rcd.cgroups) % 512 ∧ G.bind.budget = l.rcd.pregs ∧
          G.sc.spc = (l.rcd.sbase + zext64 l.rcd.pentry) &&& 0x00FFFFFFFFFFFFFF#64)

/-- R22, R110, R111: a commit whose slot entry has a reserved bit set, a field out of range (GROUP above 383, BUDGET 0 or above 768), a core or
quadrant that is not enabled, or a slot already VALID, starts nothing: the slot is reported to firmware and all else stands. -/
def Claim.RefusedCommitsStartNothing : Prop :=
  ∀ (s : State) (n : Nat) (l : Launch) (c : Context) (t : Tenant) (p : Placement), s.launches[n]? = some l →
    s.contexts[l.ctx]? = some c → tenantOf s l.ctx = some t → commitDue s c t l n l.nextTeam = true → slotsNamed l.rcd p = true →
    (∃ (k : Nat) (x : SlotPlace), p.slots[k]? = some x ∧ (coreOn s x.core = false ∨ quadOn s (4 * x.core + x.quad.toNat) = false ∨
      (∃ (h : Nat) (H : Group), slotHolder s (4 * x.core + x.quad.toNat) x.slot = some h ∧ s.group? h = some H ∧ H.halt = none) ∨
      (k < l.rcd.cgroups ∧ (384 ≤ k ∧ k < 512 ∨ (768 < l.rcd.cregs ∧ l.rcd.cregs < 1024) ∨ l.rcd.cregs = 0)))) →
    ∃ (y : SlotPlace), y ∈ p.slots ∧ exec (.teamCommit n l.nextTeam p) s =
      .next { s with refused := slotIdOf y.core y.quad y.slot :: s.refused }

/-- R101, R103: a launch all of whose teams have ended, and a graph instance all of whose nodes have completed, complete, and their completion
store follows: it is due from then on until it has been made, or has failed for good, which a NOTICE reports. -/
def Claim.LaunchesComplete : Prop :=
  ∀ (s : State) (n : Nat),
    (∀ l, s.launches[n]? = some l → launchOver s n l = true →
      (l.rcd.donea = 0 → exec (.launchComplete n) s = .next { s with
        launches := s.launches.modify n fun l => { l with st := .completed, due := false } }) ∧
      (∀ c x y, l.rcd.donea ≠ 0 → s.contexts[l.ctx]? = some c →
        engWrite { s with launches := s.launches.modify n fun l => { l with st := .completed, due := true } } (fwService c l.ctx) false
          l.rcd.donea.toNat 0xF#4 l.rcd.donev = (x, y) → ∃ t, exec (.launchComplete n) s = .next t ∧
          (∀ m, t.launches[n]? = some m → m.st = .completed) ∧ (x = .park → t = y) ∧
          (x = .ok true → t = { y with launches := y.launches.modify n fun l => { l with st := .completed, due := false } }) ∧
          (∀ k j, x = .fail k j → (t.fab.notices.getLast?).map (·.body) = some (.doneFailure l.seq l.rcd.donea) ∧
            ∀ m, t.launches[n]? = some m → m.due = false))) ∧
    (∀ i, s.graphs[n]? = some i → i.ended = false → (∀ k ∈ i.nodes, launchDone s k = true) →
      (i.donea = 0 → exec (.graphComplete n) s = .next { s with
        graphs := s.graphs.modify n fun i => { i with ended := true, due := false } }) ∧
      (∀ c x y, i.donea ≠ 0 → s.contexts[i.ctx]? = some c →
        engWrite { s with graphs := s.graphs.modify n fun i => { i with ended := true, due := true } } (fwService c i.ctx) false
          i.donea.toNat 0xF#4 i.donev = (x, y) → ∃ t, exec (.graphComplete n) s = .next t ∧ (x = .park → t = y) ∧
          (∀ m, t.graphs[n]? = some m → m.ended = true) ∧
          (x = .ok true → t = { y with graphs := y.graphs.modify n fun i => { i with ended := true, due := false } })))

/-- R99: a dependence is satisfied for good once (value − requirement) mod 2^32 is below 2^31, whether firmware polls it or hears of a write
to it; a read that fails is told to the host once, and the launch waits on. -/
def Claim.DependencesAreRead : Prop :=
  ∀ (s s1 : State) (n k : Nat) (l : Launch) (c : Context) (a : W64) (req : W32) (e : Instr), s.launches[n]? = some l →
    s.contexts[l.ctx]? = some c → l.rcd.deps[k]? = some (a, req) → l.st = .accepted → l.sat[k]? = some false →
    (e = .dependencePoll n k ∨ e = .dependenceWriteReport n k) →
    (∀ v, engRead s (fwService c l.ctx) a.toNat = (.ok (some v), s1) →
      ((v - req).toNat < 2 ^ 31 → exec e s = .next { s1 with launches := s1.launches.modify n fun l => { l with sat := l.sat.set k true } }) ∧
      (2 ^ 31 ≤ (v - req).toNat → exec e s = .next s1)) ∧
    (engRead s (fwService c l.ctx) a.toNat = (.park, s1) → exec e s = .next s1) ∧
    (∀ x j, engRead s (fwService c l.ctx) a.toNat = (.fail x j, s1) → ∃ t, exec e s = .next t ∧
      (l.told[k]? = some false → (t.fab.notices.getLast?).map (·.body) = some (.depFailure l.seq a)) ∧
      (l.told[k]? = some true → t.fab.notices = s1.fab.notices))

/-- R386, R387: firmware's watch of a queue. TAIL that moved back, more records than slots, a fault or an uncorrectable word freezes it, by
its reason; with nothing new only TAIL is remembered; else the records from HEAD on are read. A frozen queue tells the host, and gives
QUEUE to the bound group with the lowest LOC, or to the first group of the context that starts. -/
def Claim.QueuesAreWatched : Prop :=
  ∀ (s s1 : State) (i q : Nat) (c : Context) (l : LaunchQueue), s.contexts[i]? = some c → c.queues[q]? = some l → c.live = true →
    l.frozen = none →
    (∀ k, queueWords s c i l.base.toNat 1 = (.inr k, s1) → exec (.launchQueueWatch i q) s = .next (freezeQueue s1 i q l.base k)) ∧
    (∀ ws t, queueWords s c i l.base.toNat 1 = (.inl ws, s1) → ws[0]? = some t →
      (2 ^ 31 ≤ (t - l.t0).toNat → exec (.launchQueueWatch i q) s = .next (freezeQueue s1 i q l.base 1)) ∧
      ((t - l.t0).toNat < 2 ^ 31 → l.size < (t - l.head).toNat → exec (.launchQueueWatch i q) s = .next (freezeQueue s1 i q l.base 2)) ∧
      ((t - l.t0).toNat < 2 ^ 31 → (t - l.head).toNat ≤ l.size → exec (.launchQueueWatch i q) s =
        .next (watchFrom (s1.modLq i q fun l => { l with t0 := t }) i q c l l.head (t - l.head).toNat))) ∧
    (∀ k, ∃ x L, (freezeQueue s i q l.base k).contexts[i]? = some x ∧ x.queues[q]? = some L ∧ L.frozen = some k ∧ L.head = l.head ∧
      ((freezeQueue s i q l.base k).fab.notices.getLast?).map (fun p => (p.dst, p.body)) = some (c.creator, .queueFreeze l.base k) ∧
      (∀ g, lowestBound s i = some g → ∀ G, s.group? g = some G → ∃ H, (freezeQueue s i q l.base k).group? g = some H ∧
        H.queueDue = G.queueDue ++ [l.base]) ∧
      (lowestBound s i = none → x.frozen = c.frozen ++ [l.base]))

/-- R359: at the end of a slice, SLICE microseconds after it began, or earlier where its context has no launch left, and at once where a
launch of another context has a higher priority, firmware runs the context that comes
next. (After the first vacate request a tenant's slices stop, R364.) -/
def Claim.SlicesEnd : Prop :=
  ∀ (s : State) (tid : Nat) (t : Tenant) (e : Instr), s.tenant? tid = some t → t.req = none →
    ((e = .sliceEnd tid ∧ sliceOver s t = true) ∨ (e = .preemption tid ∧ preempts s t = true)) →
    ∃ u, exec e s = .next u ∧ (u.tenant? tid).map (·.running) = some (pickContext s t)

/-- R258, R356: a drain of ways ends, the words of the lost ways written back and settled, and the reduction or increase queued behind it
begins. Which blocks leave, those beyond the kept share in order of use, is the model's choice (log 74). -/
def Claim.DrainsEnd : Prop :=
  ∀ (s : State) (tid : Nat) (t : Tenant), s.tenant? tid = some t → t.losing ≠ 0 → ∃ u x, exec (.waysDrainEnd tid) s = .next u ∧
    u.tenant? tid = some x ∧ x.nextWays = none ∧ (t.nextWays = none → x = { t with losing := 0 }) ∧
    (∀ w, t.nextWays = some w → x.rcd.ways = w ∧ x.losing = t.rcd.ways &&& ~~~w) ∧
    ((∀ c ∈ s.contexts, c.tracking = false) → ∀ b ∈ overShare s tid, ∀ ln ∈ u.lines, ln.key / 32 ≠ b)

/-- R364: a request over the management bus. The first one, and one of a higher priority, is the current request; one of no higher priority
for the same neighbour moves an earlier deadline; any other is refused: that is reported on the bus, and nothing else changes. -/
def Claim.VacateRequestsMerge : Prop :=
  ∀ (s : State) (tid : Nat) (t : Tenant) (r : VacateReq) (new : Vacate), s.ready = true → s.tenant? tid = some t →
    new = ⟨s.cycle + BitVec.ofNat 64 (r.remain.toNat * microsecond), r.prio, r.neigh.getD t.rcd.neigh, s.cycle⟩ →
    ∃ u, exec (.vacateRequest tid r) s = .next u ∧
      ((t.req = none ∨ ∃ c, t.req = some c ∧ c.prio.toNat < new.prio.toNat) →
        (u.tenant? tid).map (fun x => (x.req, x.phase)) = some (some new, 1)) ∧
      (∀ c, t.req = some c → new.prio.toNat ≤ c.prio.toNat → new.neigh = c.neigh →
        (u.tenant? tid).map (·.req) = some (some (if new.deadline.toNat < c.deadline.toNat then { c with deadline := new.deadline } else c))) ∧
      (∀ c, t.req = some c → new.prio.toNat ≤ c.prio.toNat → new.neigh ≠ c.neigh → u = { s with key := { s.key with reports := s.key.reports ++ [.refused tid] } })

/-- A section of the image of a queue of tenant t that is sent (R372): the header begins with the section's TYPE and zeros. -/
def IsSection (t : Tenant) (p : QPlan) (x : CkptBody) (b : PktBody) : Prop :=
  ∃ h : BitVec 128, b = .ckptPart t.tid p.ctx p.prio h x ∧ h.extractLsb' 0 8 = x.ty ∧ h.extractLsb' 8 56 = 0

/-- R369, R370, R372: the queues of a plan. A RUN queue that has not finished turns into a checkpoint when the time that remains falls to what
the unsent queues cost, or, where it is discardable, is discarded 10 ms before R runs out. A checkpoint that is saved, once it is in progress,
or no other is and none has been ready for longer or, ready together with it, has a higher PRIO, sends its next section, in ascending type
order, and after the last one COMMIT, at which it is past its commit point. A RUN queue whose last team has exited has the same turn and sends
its context's memory delta: it has outcome 0. An acknowledged checkpoint has outcome 1. That sections are data and that an item in progress
starts again where the neighbour changes are the model's choices (logs 51 and 52). -/
def Claim.PlannedQueuesGo : Prop :=
  ∀ (s : State) (tid q : Nat) (t : Tenant) (p : QPlan), planned s tid q = some (t, p) →
    (p.choice = .run → p.settled = false → p.disc = false → p.outcome = none → remainOf s t * microsecond * t.rcd.vrate ≤ unsentCost s t →
      ∃ u, exec (.vacateConvert tid q) s = .next u ∧ ((u.tenant? tid).bind fun x => x.plan[q]?) =
        some { p with choice := .checkpoint, settled := true, readyAt := s.cycle.toNat, sent := 0 }) ∧
    (p.choice = .run → p.settled = false → p.disc = true → p.outcome = none → remainOf s t ≤ 1010000 →
      ∃ u n, exec (.vacateRunTimeout tid q) s = .next u ∧ ((u.tenant? tid).bind fun x => x.plan[q]?) =
        some { p with choice := .discard, settled := true, readyAt := n, outcome := some 2 }) ∧
    (p.choice ≠ .discard → p.settled = true → p.committed = false → p.outcome = none →
      (∀ r ∈ t.plan, r.choice ≠ .discard → r.settled = true → r.committed = false → r.outcome = none → r = p ∨ p.sent ≠ 0 ∨
        r.sent = 0 ∧ (p.readyAt < r.readyAt ∨ p.readyAt = r.readyAt ∧ r.prio ≤ p.prio)) →
      ∃ u, exec (.checkpointCommit tid q) s = .next u ∧
        (p.choice = .run → ((u.tenant? tid).bind fun x => x.plan[q]?) =
            some { p with committed := true, outcome := some 0, dst := t.neighbour } ∧
          ∃ b, (u.fab.outbox.drop s.fab.outbox.length).map (·.body) = [b] ∧
            IsSection t p (.memory (memPages (drainContext s p.ctx) p.ctx)) b) ∧
        (p.choice = .checkpoint → ∀ xs x, xs = ckptSections s t.tid p.ctx p.prio → xs[p.sent]? = some x →
          (p.sent + 1 < xs.length → ((u.tenant? tid).bind fun x => x.plan[q]?) = some { p with sent := p.sent + 1, dst := t.neighbour } ∧
            ∃ b, (u.fab.outbox.drop s.fab.outbox.length).map (·.body) = [b] ∧ IsSection t p x b) ∧
          (p.sent + 1 = xs.length → ((u.tenant? tid).bind fun x => x.plan[q]?) =
              some { p with sent := p.sent + 1, dst := t.neighbour, committed := true } ∧
            ∃ b d digest signature, (u.fab.outbox.drop s.fab.outbox.length).map (·.body) = [b, d] ∧ IsSection t p x b ∧
              IsSection t p (.commit digest signature) d))) ∧
    ((ckptSections s t.tid p.ctx p.prio).map fun x => x.ty.toNat).Pairwise (· ≤ ·) ∧
    (p.choice = .checkpoint → p.committed = true → p.acked = false → ∃ u, exec (.checkpointAck tid q) s = .next u ∧
      ((u.tenant? tid).bind fun x => x.plan[q]?) = some { p with acked := true, outcome := some 1 })

/-- R373: a tenant is vacant once every queue of its plan has an outcome, at the deadline the lost ones among them, and nothing of its contexts
is left in slots, engines and caches: PHASE is 2, or 3 where a queue was lost, the request is gone, and the outcomes are reported on the
management bus. That vacancy ends the request is the model's choice (log 51). -/
def Claim.TenantsBecomeVacant : Prop :=
  ∀ (s s1 : State) (tid : Nat) (t : Tenant) (plan : List QPlan), s.tenant? tid = some t → t.req.isSome = true →
    closeQueues s (remainOf s t == 0) t.plan = (plan, s1) → (∀ p ∈ plan, p.outcome.isSome = true) → tenantEmpty s1 t = true →
    ∃ u, exec (.tenantVacant tid) s = .next u ∧ (u.tenant? tid).map (fun x => (x.req, x.phase, x.running, x.plan)) =
        some (none, (if ∃ p ∈ plan, p.outcome = some 3 then 3 else 2), none, plan) ∧ u.groups = s1.groups ∧
      u.key.reports = s1.key.reports ++ [.outcomes tid (plan.map fun p => (p.ctx, p.prio, p.outcome.getD 0))]

/-- R294, R370, R372, R374: a pre-copy round of a context sends a MEMORY section, stops no group, and makes the context track its sectors;
and a section of an
image that a neighbour sends is kept: HEAD begins an image and drops one that has no COMMIT, COMMIT closes it, and a type that R372 does
not list is refused. That a HEAD drops an image that has no COMMIT is the model's choice (log 52). -/
def Claim.ImagesAreSentAndKept : Prop :=
  ∀ (s : State),
    (∀ i c t, s.contexts[i]? = some c → tenantOf s i = some t → c.live = true → ∃ u h, exec (.preCopyRound i) s = .next u ∧
      u.groups = s.groups ∧ (u.fab.outbox.getLast?).map (·.body) = some (.ckptPart t.tid i 0 h (.memory (memPages s i))) ∧
      (u.contexts[i]?).map (fun d => d.xlctl.getLsbD 5) = some true) ∧
    (∀ (src : Nat) (x : CkptSection), s.ready = true → ∃ L, exec (.checkpointSection src x) s = .next { s with images := L } ∧
      (sectionType x ∉ ckptTypes → L = s.images) ∧
      (sectionType x = 1#8 → L = s.images.filter (fun i => i.src != src || i.committed) ++ [⟨src, [x], false⟩]) ∧
      (sectionType x ∈ ckptTypes → sectionType x ≠ 1#8 → L = s.images.map fun i => if i.src = src ∧ i.committed = false then
        { i with sections := i.sections ++ [x], committed := sectionType x == 0x0F#8 } else i))

/-- Firmware's steps on launches, launch queues and tenants.
The model's choices in it: log 51, 52 and 74. -/
def Obligations.LaunchAndTenancySteps : Prop :=
  Claim.TeamsBindWhole ∧ Claim.RefusedCommitsStartNothing ∧ Claim.LaunchesComplete ∧ Claim.DependencesAreRead ∧ Claim.QueuesAreWatched ∧ Claim.SlicesEnd ∧ Claim.DrainsEnd ∧
    Claim.VacateRequestsMerge ∧ Claim.PlannedQueuesGo ∧ Claim.TenantsBecomeVacant ∧ Claim.ImagesAreSentAndKept


/-! ### Packets and contexts (R376 to R388, R394, R395) -/

/-- The answer x to a packet h of a kind on state s: exec of e sends the reply, of kind 0x80 + the kind, to the sender with the same TAG, on
top of state x, and the packet is no longer held and counts as performed (R379, R381). It touches n words at a. -/
def Answers (e : Instr) (s : State) (h : Hdr) (kind : BitVec 8) (a : W64) (n : Nat) (status : W32) (mask : W64) (words : List W32) (x : State) :
    Prop :=
  exec e s = .next (seqDone (sendReply (dropHeld x h) h kind status mask words) h.src h.seq (pktSpan x h.asid a n))

/-- A packet that the part takes now: it is for this part, no reserved field is set, it has not been performed and may be performed, and
the part is not draining, or has held it from before the drain. The order of these checks is the model's choice (log 61). -/
def Arrives (s : State) (h : Hdr) (ord : Bool) (a : W64) (n : Nat) : Prop :=
  s.online = true ∧ pktReady s h ord (pktSpan s h.asid a n) = true ∧ h.bad = false ∧ (s.fab.drain = .run ∨ heldPkt s h = true)

/-- The packet names a live context i of its sender, a host node. -/
def FromCreator (s : State) (h : Hdr) (i : Nat) (c : Context) : Prop :=
  ctxByAsid s h.asid = some i ∧ s.contexts[i]? = some c ∧ s.fab.hosts.contains h.src = true ∧ c.creator = h.src

/-- The packet names a live context i of its sender, which created it as a host node or is a member of one of its communicators. -/
def FromParty (s : State) (h : Hdr) (i : Nat) (c : Context) : Prop :=
  ctxByAsid s h.asid = some i ∧ s.contexts[i]? = some c ∧
    ((s.fab.hosts.contains h.src = true ∧ c.creator = h.src) ∨ fromMember c h = true)

/-- R97, R103, R379, R381: LAUNCH and LAUNCHG of the context's creator, which are ordered packets: the reply's code and the
state are those of the submission. -/
def Claim.LaunchPacketsSubmit : Prop :=
  ∀ (s : State) (h : Hdr) (i : Nat) (c : Context), Arrives s h true 0 0 → FromCreator s h i c →
    (∀ w : Vector W32 32, Answers (.launchPacket h w) s h 0x01#8 0 0 (pktStatus 0 (submitLaunch s i w.toList).1 0) 0 []
      (submitLaunch s i w.toList).2.2) ∧
    (∀ a : W64, a.toNat % 128 = 0 → a.toNat < 2 ^ 56 → ∀ s1, (fwWords s (firmware c i) a.toNat 32 = (none, s1) →
        Answers (.launchg h a) s h 0x02#8 0 0 (pktStatus 0 8 0) 0 [] s1) ∧
      (∀ ws, fwWords s (firmware c i) a.toNat 32 = (some ws, s1) → Answers (.launchg h a) s h 0x02#8 0 0
        (pktStatus 0 (submitGraph none s1 i a ws).1 0) 0 [] (submitGraph none s1 i a ws).2.2))

/-- R379, R382: READ, WRITE and ATOMIC of a context's words. Uncorrectable words read as 0 and are named in the mask; a word whose tile
could not be born is not written, nor in the mask, and sets XALLOC; an atomic returns the old value, or 0 with mask bit 0 for an
uncorrectable word; a delivered fault answers with its subcode, an address at or above 2^56 with subcode 4 (R278, R286); a fault that is being
served leaves the packet held, to be performed again. That a WRITE readies all its places first, and that the operation codes of an ATOMIC
end below 10, are the model's choices (log 63). -/
def Claim.MemoryPacketsAccess : Prop :=
  ∀ (s s1 : State) (h : Hdr) (i : Nat) (c : Context) (a : W64) (n : Nat), FromParty s h i c → h.asid ≠ 0xFFFF#16 → a.toNat % 4 = 0 →
    1 ≤ n → n ≤ 64 → Arrives s h h.ord a n →
    (∀ xs b, pktWords s (fwService c i) a.toNat n = (.ok xs, b, s1) → Answers (.read h a n) s h 0x03#8 a n 0
      (xs.zipIdx.foldl (fun (m : W64) p => if p.1.isNone then m ||| (1#64 <<< p.2) else m) 0) (xs.map fun x => x.getD 0)
      (spendRange s1 a.toNat (a.toNat + 4 * n))) ∧
    (∀ k j va, pktWords s (fwService c i) a.toNat n = (.fail k j, va, s1) → j ≠ 0 → Answers (.read h a n) s h 0x03#8 a n (pktStatus 0 0 j) 0 [] (spendVerdict s1 va)) ∧
    (∀ va, pktWords s (fwService c i) a.toNat n = (.park, va, s1) → exec (.read h a n) s = .next (holdPkt s1 h a n)) ∧
    (∀ (en : W64) (data : List W32) l b, pktPlaces s (fwService c i) a.toNat (enabledWords en n data) = (.ok l, b, s1) →
      Answers (.write h a n en data) s h 0x04#8 a n
        (if ∃ p ∈ l, p.2.2 = none then 1#32 <<< 20 else 0) (putPlaces s1 i a.toNat l).1 []
        (spendRange (putPlaces s1 i a.toNat l).2 a.toNat (a.toNat + 4 * n))) ∧
    (2 ^ 56 ≤ a.toNat → Answers (.read h a n) s h 0x03#8 a n (pktStatus 0 0 4) 0 [] (spendVerdict s a.toNat) ∧
      (∀ (en : W64) (data : List W32), en.getLsbD 0 = true → Answers (.write h a n en data) s h 0x04#8 a n
        (pktStatus 0 0 4) 0 [] (spendVerdict s a.toNat)) ∧
      (∀ (op : BitVec 7) (x y : W32), n = 1 → bitsOf op.toNat 6 3 < 10 → Answers (.atomic h a op x y) s h 0x05#8 a 1 (pktStatus 0 0 4) 0 [] (spendVerdict s a.toNat))) ∧
    (∀ (op : BitVec 7) (x y : W32) l, n = 1 → bitsOf op.toNat 6 3 < 10 → a.toNat < 2 ^ 56 → engPlace s (fwService c i) a.toNat = (.ok l, s1) →
      (∀ v s2, devReadLoc (spendRange s1 a.toNat a.toNat) (a.toNat / 4) l = (some v, s2) → ∃ z,
        atomicNew (bitsOf op.toNat 6 3) v x y = some z ∧ Answers (.atomic h a op x y) s h 0x05#8 a 1 0 0 [v]
          (devWriteLoc s2 i (a.toNat / 4) l 0xF#4 z)) ∧
      (∀ s2, devReadLoc (spendRange s1 a.toNat a.toNat) (a.toNat / 4) l = (none, s2) →
        Answers (.atomic h a op x y) s h 0x05#8 a 1 0 1 [0] s2))

/-- R381: a READ or WRITE is not taken a second time, nor, with ORD, before every earlier packet of its sender, nor before an earlier one
that touches one of its words and waits, whatever context names the word, nor after a later one that touched one of them. -/
def Claim.PacketsKeepOrder : Prop :=
  ∀ (s : State) (h : Hdr) (a : W64) (n : Nat),
    ((seqRec s h.src).has h.seq = true ∨ (h.ord = true ∧ h.seq ≠ (seqRec s h.src).low) ∨
      (∃ p ∈ s.fab.inbound, p.src = h.src ∧ seqBefore p.seq h.seq = true ∧
        ∃ k ∈ pktSpan s h.asid a n, k ∈ pktSpan s p.asid p.addr p.count) ∨
      (∃ x ∈ (seqRec s h.src).above, seqBefore h.seq x.1 = true ∧ ∃ k ∈ pktSpan s h.asid a n, k ∈ x.2)) →
    exec (.read h a n) s = .fault .notEnabled ∧ ∀ en data, exec (.write h a n en data) s = .fault .notEnabled

/-- R383: words by physical address, for host nodes alone: a written word reads back, with a fresh check byte, and no
cached word changes (in canonical memory). An address that names no word makes the packet
malformed, and nothing is read or written. -/
def Claim.PhysicalPackets : Prop :=
  ∀ (s : State) (h : Hdr) (a : W64) (n : Nat), h.asid = 0xFFFF#16 → Arrives s h h.ord a n →
    (s.fab.hosts.contains h.src = false → Answers (.read h a n) s h 0x03#8 a n (pktStatus 1 0 0) 0 [] s) ∧
    (s.fab.hosts.contains h.src = true →
      ((a.toNat % 4 ≠ 0 ∨ n = 0 ∨ 64 < n ∨ ∃ k, k < n ∧ wordExists s (a.toNat % 2 ^ 39 + 4 * k) = false) → ∀ en data,
        Answers (.read h a n) s h 0x03#8 a n (pktStatus 5 0 0) 0 [] s ∧
        Answers (.write h a n en data) s h 0x04#8 a n (pktStatus 5 0 0) 0 [] s) ∧
      (a.toNat % 4 = 0 → 1 ≤ n → n ≤ 64 → (∀ k, k < n → wordExists s (a.toNat % 2 ^ 39 + 4 * k) = true) →
        (∀ k, k < n → wordSyn s (a.toNat % 2 ^ 39 + 4 * k) = 0) →
          Answers (.read h a n) s h 0x03#8 a n 0 0
            ((List.range n).map fun k => rawWord s (a.toNat % 2 ^ 39 + 4 * k)) s) ∧
      (a.toNat % 4 = 0 → 1 ≤ n → n ≤ 64 → (∀ k, k < n → wordExists s (a.toNat % 2 ^ 39 + 4 * k) = true) → ∀ (en : W64) (data : List W32),
        ∃ t mask, Answers (.write h a n en data) s h 0x04#8 a n 0 mask [] t ∧ t.lines = s.lines ∧
          (∀ k, k < 64 → mask.getLsbD k = (decide (k < n) && en.getLsbD k)) ∧
          (s.memOk = true → ∀ k, k < n → en.getLsbD k = true → rawWord t (a.toNat % 2 ^ 39 + 4 * k) = data.getD k 0 ∧
            wordSyn t (a.toNat % 2 ^ 39 + 4 * k) = 0)))

/-- R384, R385, R388, R395: QREG, COMM and PEERMAP of the context's creator. A queue that firmware accepts starts at HEAD 0, with STATUS 0,
and unfrozen; a queue, communicator or peer range that is refused is answered with transport code 5 and changes nothing (R395). -/
def Claim.Registrations : Prop :=
  ∀ (s : State) (h : Hdr) (i : Nat) (c : Context), Arrives s h h.ord 0 0 → FromCreator s h i c →
    (∀ b n, (queueOk s c b n = true → ∃ t x, Answers (.qreg h b n) s h 0x06#8 0 0 0 0 [] t ∧ t.contexts[i]? = some x ∧
        x.queues = putQueue ⟨b, n.toNat, 0, 0, none⟩ c.queues ∧ b ∉ x.frozen) ∧
      (queueOk s c b n = false → Answers (.qreg h b n) s h 0x06#8 0 0 (pktStatus 5 0 0) 0 [] s)) ∧
    (∀ r, (commOk s r = true → Answers (.comm h r) s h 0x07#8 0 0 0 0 [] (s.modCtx i fun c => { c with
        comms := c.comms.filter (fun m => m.idx != r.idx) ++ [⟨r.idx, r.members, r.rank, r.area, r.cap, r.grant, 0, none⟩] })) ∧
      (commOk s r = false → Answers (.comm h r) s h 0x07#8 0 0 (pktStatus 5 0 0) 0 [] s)) ∧
    (∀ p, (peerOk s c p = true → Answers (.peermap h p) s h 0x0D#8 0 0 0 0 [] (s.modCtx i fun c => { c with peers := c.peers ++ [p] })) ∧
      (peerOk s c p = false → Answers (.peermap h p) s h 0x0D#8 0 0 (pktStatus 5 0 0) 0 [] s))

/-- R353, R364, R379, R383: tenant records from a host node, vacate requests from a host node or the fabric manager, the host's answers to
its faults and calls. An answer to a fault or a call that is not open, or not that context's, changes nothing. Transport code 5 for the
refusals of TENANT, VACATE and FAULTR is the model's choice (log 62). -/
def Claim.HostRequests : Prop :=
  ∀ (s : State) (h : Hdr), Arrives s h h.ord 0 0 →
    (s.fab.hosts.contains h.src = true → ∀ tid r,
      (recordRefused s tid r = true → Answers (.tenant h tid r) s h 0x08#8 0 0 (pktStatus 5 0 0) 0 [] s) ∧
      (recordRefused s tid r = false → ∃ t x, Answers (.tenant h tid r) s h 0x08#8 0 0 0 0 [] t ∧ t.tenant? tid = some x ∧
        x.rcd.quads = r.quads ∧ x.rcd.banks = r.banks ∧ x.rcd.bws = r.bws ∧ x.rcd.vrate = r.vrate ∧ x.rcd.mindl = r.mindl ∧
        x.rcd.neigh = r.neigh ∧ x.rcd.slice = r.slice ∧ x.rcd.whole = r.whole ∧ (s.tenant? tid = none → x.rcd = r ∧ x.req = none))) ∧
    (s.fab.hosts.contains h.src = true ∨ h.src = s.fab.manager → ∀ tid (r : VacateReq) t,
      (postVacate s tid r.remain.toNat r.prio r.neigh = (true, t) → Answers (.vacatePacket h tid r) s h 0x09#8 0 0 0 0 [] t) ∧
      (postVacate s tid r.remain.toNat r.prio r.neigh = (false, t) →
        Answers (.vacatePacket h tid r) s h 0x09#8 0 0 (pktStatus 5 0 0) 0 [] s)) ∧
    (∀ i c, FromCreator s h i c → ∀ n,
      (∀ f, openFault s n = some f → f.ctx = i → f.toHost = true →
        Answers (.faultr h n .deliver) s h 0x0A#8 0 0 0 0 [] { s with
          verdicts := s.verdicts ++ f.joined.map (fun p => ⟨p.1, f.page, f.big, faultCause p.2, 9⟩)
          faults := s.faults.modify n fun f => { f with closed := true } } ∧
        (∀ leaf t, serveFault s n f leaf = some t → Answers (.faultr h n (.resolve leaf)) s h 0x0A#8 0 0 0 0 [] t)) ∧
      (∀ ans, (∀ f, openFault s n = some f → f.ctx ≠ i ∨ f.toHost = false) →
        Answers (.faultr h n ans) s h 0x0A#8 0 0 (pktStatus 5 0 0) 0 [] s) ∧
      (∀ q reps, (∃ r, openCall c n = some r ∧ r.seq = q) → ∃ t r, openCall c n = some r ∧ Answers (.callr h n q reps) s h 0x0B#8 0 0 0 0 [] t ∧
        CallClosed t i c r reps false) ∧
      (∀ q reps, (∀ r, openCall c n = some r → r.seq ≠ q) → Answers (.callr h n q reps) s h 0x0B#8 0 0 (pktStatus 5 0 0) 0 [] s))

/-- R379, R380, R394: who may not. From a sender that is not listed for the kind the answer has transport code 1, with a reserved field 5,
while the part drains 3, and for a context that no host created 2: nothing else changes. The order of these checks is the model's choice
(log 61), and so is code 5 for a CONTEXT whose OP is unassigned or whose unused argument is not 0 (log 65). -/
def Claim.RequestsRefused : Prop :=
  ∀ (s : State) (h : Hdr) (p : PeerReg), s.online = true → pktReady s h h.ord [] = true →
    (h.bad = true → Answers (.peermap h p) s h 0x0D#8 0 0 (pktStatus 5 0 0) 0 [] s) ∧
    (h.bad = false → s.fab.drain ≠ .run → heldPkt s h = false → Answers (.peermap h p) s h 0x0D#8 0 0 (pktStatus 3 0 0) 0 [] s) ∧
    (h.bad = false → s.fab.drain = .run → ctxByAsid s h.asid = none → Answers (.peermap h p) s h 0x0D#8 0 0
      (pktStatus (if s.fab.hosts.contains h.src then 2 else 1) 0 0) 0 [] s) ∧
    (h.bad = false → s.fab.drain = .run → ∀ i c, ctxByAsid s h.asid = some i → s.contexts[i]? = some c →
      (s.fab.hosts.contains h.src = false ∨ c.creator ≠ h.src) → Answers (.peermap h p) s h 0x0D#8 0 0 (pktStatus 1 0 0) 0 [] s) ∧
    (∀ k : BitVec 8, (k = 0#8 ∨ (0x0F ≤ k.toNat ∧ k.toNat < 0x40) ∨ (0x42 ≤ k.toNat ∧ k.toNat < 0x80)) →
      ∀ op u, Answers (.unassignedRequest h ⟨k, op, u⟩) s h k 0 0 (pktStatus 5 0 0) 0 [] s) ∧
    (h.bad = false → ∀ op u, Answers (.unassignedRequest h ⟨0x40#8, op, u⟩) s h 0x40#8 0 0 (pktStatus 1 0 0) 0 [] s) ∧
    (h.bad = false → ∀ (op : BitVec 8) (u : Bool), (u = true ∨ op = 0#8 ∨ 6 ≤ op.toNat) → Answers (.unassignedRequest h ⟨0x0E#8, op, u⟩) s h 0x0E#8 0 0
      (if s.fab.hosts.contains h.src then pktStatus 0 5 0 else pktStatus 1 0 0) 0 [] s)

/-- R383: CONTEXT commands of a host node. Create: the ASID names a new context whose call area and spill range are as the checks ask; the
codes are 1 for an ASID in use, 5 for an argument, 3 for an address, 4 for too few frames or no number left for it (log 108), in this order,
which is the model's choice (log 65). Destroy: the
context is not live then, and no cached word or translation has its ASID.
Flags: PRIV. Entry: written, in canonical memory, once allowed. Region: 5 for an argument out of range. No context: 2. -/
def Claim.ContextCommands : Prop :=
  ∀ (s : State) (h : Hdr), Arrives s h h.ord 0 0 → s.fab.hosts.contains h.src = true →
    (∀ a, ((ctxByAsid s h.asid).isSome = true → Answers (.contextCreate h a) s h 0x0E#8 0 0 (pktStatus 0 1 0) 0 [] s) ∧
      (ctxByAsid s h.asid = none → createArgBad s h a = true → Answers (.contextCreate h a) s h 0x0E#8 0 0 (pktStatus 0 5 0) 0 [] s) ∧
      (ctxByAsid s h.asid = none → createArgBad s h a = false → createAddrBad s (makeContext h a s) = true →
        Answers (.contextCreate h a) s h 0x0E#8 0 0 (pktStatus 0 3 0) 0 [] s) ∧
      (ctxByAsid s h.asid = none → createArgBad s h a = false → createAddrBad s (makeContext h a s) = false →
        (4096 ≤ freeNo s ∨ ∃ st, st < 8 ∧ (framesOf s st).length < 17) → Answers (.contextCreate h a) s h 0x0E#8 0 0 (pktStatus 0 4 0) 0 [] s) ∧
      (ctxByAsid s h.asid = none → createArgBad s h a = false → createAddrBad s (makeContext h a s) = false →
        (∀ st, st < 8 → 17 ≤ (framesOf s st).length) → freeNo s < 4096 → ∃ t c, Answers (.contextCreate h a) s h 0x0E#8 0 0 0 0 [] t ∧
          t.contexts = s.contexts ++ [c] ∧ c.live = true ∧ c.asid = h.asid ∧ c.priv = a.priv ∧ c.tenant = a.tenant ∧ c.creator = h.src ∧
          c.xlctl = 0x10#7 ∧ c.no = freeNo s ∧ c.calla = a.calla ∧ c.spillBase = a.spillBase ∧ (∀ st, st < 8 → framesOf t st = (framesOf s st).drop 17 ∧
            (reserveOf c st).free = (framesOf s st).take 17) ∧ t.dram = s.dram)) ∧
    (ctxByAsid s h.asid = none → Answers (.contextDestroy h) s h 0x0E#8 0 0 (pktStatus 0 2 0) 0 [] s) ∧
    (∀ i c, ctxByAsid s h.asid = some i → s.contexts[i]? = some c → c.creator = h.src →
      (∃ t x, Answers (.contextDestroy h) s h 0x0E#8 0 0 0 0 [] t ∧ t.contexts[i]? = some x ∧ x.live = false ∧
        (∀ l ∈ t.lines, l.key / 2 ^ 54 ≠ h.asid.toNat) ∧ (∀ e ∈ t.tlb, e.tag ≠ h.asid)) ∧
      (∀ priv, Answers (.contextSetFlags h priv) s h 0x0E#8 0 0 0 0 [] (s.modCtx i fun c => { c with priv := priv })) ∧
      (∀ (level : Byte) (va e : W64) pa, level.toNat ≤ 1 → va.toNat % leafBytes level.toNat = 0 → va.toNat < 2 ^ 56 →
        (entryPlace s va.toNat level.toNat c.root 3 = none →
          Answers (.contextChangePte h level va e) s h 0x0E#8 0 0 (pktStatus 0 3 0) 0 [] s) ∧
        (entryPlace s va.toNat level.toNat c.root 3 = some pa → fixedRange c va.toNat (leafBytes level.toNat) = true →
          Answers (.contextChangePte h level va e) s h 0x0E#8 0 0 (pktStatus 0 3 0) 0 [] s) ∧
        (entryPlace s va.toNat level.toNat c.root 3 = some pa → fixedRange c va.toNat (leafBytes level.toNat) = false →
          entryClash s i va.toNat level.toNat e = true → Answers (.contextChangePte h level va e) s h 0x0E#8 0 0 (pktStatus 0 6 0) 0 [] s) ∧
        (entryPlace s va.toNat level.toNat c.root 3 = some pa → fixedRange c va.toNat (leafBytes level.toNat) = false →
          entryClash s i va.toNat level.toNat e = false → ∃ t, Answers (.contextChangePte h level va e) s h 0x0E#8 0 0 0 0 [] t ∧
            (s.memOk = true → rawDouble t pa = e) ∧ t.groups = s.groups)) ∧
      (∀ r d, (regionArgBad d = true → Answers (.contextSetRegion h r d) s h 0x0E#8 0 0 (pktStatus 0 5 0) 0 [] s) ∧
        (regionArgBad d = false → d.flags.getLsbD 0 = true → ∀ x st ws, setValid s c r d = .reply st 0 ws x →
          Answers (.contextSetRegion h r d) s h 0x0E#8 0 0 st 0 ws x) ∧
        (regionArgBad d = false → d.flags.getLsbD 0 = false → ∀ x st ws, setInvalid s i c r d = .reply st 0 ws x →
          Answers (.contextSetRegion h r d) s h 0x0E#8 0 0 st 0 ws x)))

/-- R353, R379 to R388: requests of the fabric.
The model's choices in it: log 61, 62, 63, 65 and 108. -/
def Obligations.RequestPackets : Prop :=
  Claim.LaunchPacketsSubmit ∧ Claim.MemoryPacketsAccess ∧ Claim.PacketsKeepOrder ∧ Claim.PhysicalPackets ∧ Claim.Registrations ∧ Claim.HostRequests ∧
    Claim.RequestsRefused ∧ Claim.ContextCommands


/-! ### Replies, losses, drains, boots and resets (R377 to R381, R390, R394, R396 to R404) -/

/-- A packet that asks nothing of the part arrives: it is this part's and may be performed, and no reserved field is set. -/
def ArrivesReply (s : State) (h : Hdr) : Prop := s.online = true ∧ pktReady s h h.ord [] = true ∧ h.bad = false

/-- A reply that answers nothing is dropped, without an answer, and counted; which port carried it is a value that the model leaves open. -/
def Dropped (e : Instr) (s : State) : Prop :=
  ∃ t, exec e s = .next t ∧ t.fab.outbox = s.fab.outbox ∧ t.fab.peers = s.fab.peers ∧ t.fab.notices = s.fab.notices ∧
    t.fab.colldOut = s.fab.colldOut ∧ t.groups = s.groups ∧ t.lines = s.lines ∧
    ((t.life = s.life ∧ planesOn s = []) ∨ ∃ p ∈ planesOn s, t.life = bumpCount (.crcDrop p) 1 s.life)

/-- R380, R384: a reply of kind 0x83 to 0x85 answers the outstanding request to its sender with its TAG; NOTICEs and collective data are
answered by 0xC0 and 0xC1; every other reply is dropped and counted. -/
def Claim.RepliesAreMatched : Prop :=
  ∀ (s : State) (h : Hdr) (kind : BitVec 8) (p : ReplyData), ArrivesReply s h →
    (0x80 ≤ kind.toNat → kind ≠ 0xC0#8 → kind ≠ 0xC1#8 →
      (∀ n q, peerOf s h (kind &&& 0x7F#8) = some n → s.fab.peers[n]? = some q → ∃ t r, exec (.reply h kind p) s = .next t ∧
        t.fab.peers[n]? = some r ∧ r = { q with answer := some (replyAnswer q.kind p) } ∧ (∀ m, m ≠ n → t.fab.peers[m]? = s.fab.peers[m]?)) ∧
      (peerOf s h (kind &&& 0x7F#8) = none → Dropped (.reply h kind p) s)) ∧
    (∀ e, e = .noticeAck h ∨ e = .reply h 0xC0#8 p →
      ((∃ x ∈ s.fab.notices, x.dst = h.src ∧ x.tag = h.tag) → ∃ t, exec e s = .next t ∧
        t.fab.notices = s.fab.notices.filter (fun x => !(x.dst == h.src && x.tag == h.tag)) ∧ t.life = s.life) ∧
      ((∀ x ∈ s.fab.notices, ¬ (x.dst = h.src ∧ x.tag = h.tag)) → Dropped e s)) ∧
    (∀ e, e = .colldAck h ∨ e = .reply h 0xC1#8 p →
      ((∃ x ∈ s.fab.colldOut, x.dst = h.src ∧ x.tag = h.tag) → ∃ t, exec e s = .next t ∧
        t.fab.colldOut = s.fab.colldOut.filter (fun x => !(x.dst == h.src && x.tag == h.tag)) ∧ t.life = s.life) ∧
      ((∀ x ∈ s.fab.colldOut, ¬ (x.dst = h.src ∧ x.tag = h.tag)) → Dropped e s))

/-- R377, R380, R384, R388, R404: a NOTICE or collective data that is not answered goes out again as it was; collective data from a member of
the communicator is held and answered, and one that has been performed is only answered again; a peer that does not answer within its
time is late; a packet that fails its CRC is counted, and answered with transport code 4 where it is a request. A flit that is retried
changes nothing, and a lane's retraining is counted. Which packets count as performed is the model's choice (log 61). -/
def Claim.PacketsAreResentHeldAndLost : Prop :=
  ∀ (s : State),
    (∀ n p, s.online = true → s.fab.notices[n]? = some p → exec (.noticeResend n) s =
      .next (s.modFab fun f => { f with outbox := f.outbox ++ [p] })) ∧
    (∀ n p, s.online = true → s.fab.colldOut[n]? = some p → exec (.colldResend n) s =
      .next (s.modFab fun f => { f with outbox := f.outbox ++ [p] })) ∧
    (∀ h d, s.online = true → h.dst = s.fab.pid → (seqRec s h.src).has h.seq = true → exec (.colld h d) s = .next (sendReply s h 0x41#8 0 0 [])) ∧
    (∀ h d i c m, Arrives s h h.ord 0 0 → ctxByAsid s h.asid = some i → s.contexts[i]? = some c →
      c.comms.find? (fun m => m.idx == d.comm) = some m → h.src ∈ m.members → Answers (.colld h d) s h 0x41#8 0 0 0 0 []
        (s.modFab fun f => { f with collIn := f.collIn ++ [⟨i, h.src, d⟩] })) ∧
    (∀ n q, s.fab.peers[n]? = some q → q.answer = none → q.late = false → exec (.peerTimeout n) s =
      .next (s.modFab fun f => { f with peers := f.peers.modify n fun p => { p with late := true } })) ∧
    (∀ port h kind, s.online = true → portOn s port = true →
      (kind.toNat < 0x80 → exec (.packetCrcFail port h kind) s =
        .next (sendReply (s.count (.crcDrop port) 1) h kind (pktStatus 4 0 0) 0 [])) ∧
      (0x80 ≤ kind.toNat → exec (.packetCrcFail port h kind) s = .next (s.count (.crcDrop port) 1))) ∧
    (∀ port lane, s.ready = true → port < 36 → lane < 4 → vlaneOn s (4 * port + lane) = true → exec (.flitRetry port lane) s = .next s) ∧
    (∀ lane, vlaneOn s lane = true → exec (.viaductLaneRetrain lane) s = .next (s.count (.laneRetrain lane) 1))

/-- The part has entered a drain state and has told every host node and the fabric manager, of DRAINED on every port (R394). -/
def DrainEntered (s t : State) (d : DrainSt) : Prop :=
  t.fab.drain = d ∧ ∀ x ∈ s.fab.watchers, if d = .drained
    then ∀ q ∈ planesOn s, ∃ p ∈ t.fab.outbox, p.dst = x ∧ p.body = .drainState d.code (some q)
    else ∃ p ∈ t.fab.outbox, p.dst = x ∧ p.body = .drainState d.code none

/-- R394: DRAIN = 1 of the fabric manager is refused while a tenant is not vacant, and else begins QUIESCE; with nothing inbound or outbound left the
planes are asked to withdraw the routes, and asked again where they have not confirmed; a request that is not answered in time is left.
When every plane has confirmed the part is DRAINED. DRAIN = 0 goes back to RUN, once the routes or the links are back. What QUIESCE waits
for and that planes are asked by a packet to the manager (log 66), the transport code of a refusal (log 62) and the order of the checks
(log 61) are the model's choices. -/
def Claim.RoutesDrain : Prop :=
  ∀ (s : State),
    (∀ h, Arrives s h h.ord 0 0 → h.src = s.fab.manager →
      ((∃ t ∈ s.tenants, t.phase.toNat < 2) → Answers (.drainStart h) s h 0x0C#8 0 0 (pktStatus 5 0 0) 0 [] s) ∧
      ((∀ t ∈ s.tenants, 2 ≤ t.phase.toNat) → ∃ x, Answers (.drainStart h) s h 0x0C#8 0 0 0 0 [] x ∧ DrainEntered s x .quiesce)) ∧
    (∀ h, s.ready = true → pktReady s h h.ord [] = true → h.bad = false → h.src = s.fab.manager →
      ∃ x, Answers (.drainCancel h) s h 0x0C#8 0 0 0 0 [] x ∧ (s.fab.drain = .run → x = s) ∧
        (s.fab.drain = .quiesce → DrainEntered s x .run) ∧
        (s.fab.drain = .withdraw ∨ s.fab.drain = .drained → x = s.modFab fun f => { f with returning := true })) ∧
    (s.ready = true → s.fab.drain = .quiesce → s.fab.inbound = [] → outbound s = false → ∃ t, exec .quiesceComplete s = .next t ∧ DrainEntered s t .withdraw ∧
      t.fab.confirmed = [] ∧ ∀ p ∈ planesOn s, ∃ x ∈ t.fab.outbox, x.dst = s.fab.manager ∧ x.body = .withdraw p) ∧
    (∀ n q, s.fab.drain = .quiesce → s.fab.peers[n]? = some q → q.answer = none → q.late = false → exec (.quiesceTimeout n) s =
      .next (s.modFab fun f => { f with peers := f.peers.modify n fun p => { p with late := true } })) ∧
    (∀ k, s.fab.drain = .quiesce → k < s.fab.colldOut.length → exec (.quiesceTimeout (s.fab.peers.length + k)) s =
      .next (s.modFab fun f => { f with colldOut := f.colldOut.eraseIdx k })) ∧
    (s.fab.drain = .withdraw → s.fab.returning = false → ∃ t, exec .withdrawRetry s = .next t ∧ t.fab.drain = .withdraw ∧
      ∀ p ∈ planesOn s, p ∉ s.fab.confirmed → ∃ x ∈ t.fab.outbox, x.dst = s.fab.manager ∧ x.body = .withdraw p) ∧
    (∀ p ∈ planesOn s, s.fab.drain = .withdraw → p ∉ s.fab.confirmed → ∃ t, exec (.withdrawConfirm p) s = .next t ∧ p ∈ t.fab.confirmed ∧
      ((s.fab.returning = true ∨ ∃ q ∈ planesOn s, q ≠ p ∧ q ∉ s.fab.confirmed) → t.fab.drain = .withdraw) ∧
      (s.fab.returning = false → (∀ q ∈ planesOn s, q = p ∨ q ∈ s.fab.confirmed) → DrainEntered s t .drained ∧ t.fab.notices = [])) ∧
    (s.fab.returning = true →
      (s.fab.drain = .withdraw → ∃ t, exec .routesRestored s = .next t ∧ DrainEntered s t .run ∧ t.fab.returning = false) ∧
      (s.fab.drain = .drained → ∃ t, exec .linksRetrained s = .next t ∧ DrainEntered s t .run ∧ t.fab.returning = false))

/-- What a reset leaves (R400): no register, cache, translation, tenant, context, queue or collective; CYCLE 0; DRAM with its check bytes
where it is kept, else every word 0 with a valid check byte. -/
def Cleared (s t : State) (keep : Bool) : Prop :=
  t.groups = [] ∧ t.teams = [] ∧ t.lines = [] ∧ t.tlb = [] ∧ t.sq = [] ∧ t.tenants = [] ∧ t.contexts = [] ∧ t.launches = [] ∧
    t.graphs = [] ∧ t.cmds = [] ∧ t.deeds = [] ∧ t.cycle = 0 ∧ t.fab.drain = .run ∧
    (if keep then t.dram = s.dram ∧ t.synd = s.synd else t.dram = [] ∧ t.synd = []) ∧ t.key.serial = s.key.serial ∧ t.key.idkey = s.key.idkey

/-- R399, R400, R404: power begins a cold boot. PCMD 1 requests a cold reset, PCMD 2 and the watchdog a warm one, which writes a snapshot
first and holds the dies in self-refresh; during a boot the request waits for the running step and is cold if either is. Resets are
counted. Power lost leaves nothing but the keystone. That PCMD does nothing without power, and which counts a loss of power leaves, is
the model's choice (log 67). -/
def Claim.ResetsKeepAndLose : Prop :=
  ∀ (s : State),
    (s.power.st = .unpowered → ∃ t, exec .powerOn s = .next t ∧ Cleared s t false ∧ t.power.st = .booting ∧ t.power.cold = true ∧
      t.life = s.life) ∧
    (s.power.st ≠ .unpowered → ∃ t, exec .powerFail s = .next t ∧ Cleared s t false ∧ t.power.st = .unpowered ∧ t.life = lastCounts s.key ∧
      t.key = s.key) ∧
    (s.power.st = .unpowered → exec .pcmdColdReset s = .next s ∧ exec .pcmdWarmReset s = .next s) ∧
    (s.power.st = .ready ∨ s.power.st = .booterr →
      (∃ t, exec .pcmdColdReset s = .next t ∧ Cleared s t false ∧ t.power.st = .booting ∧ t.power.cold = true ∧ t.power.selfRefresh = false ∧ t.key = s.key ∧
        t.life = bumpCount .resets 1 s.life) ∧
      (∀ e, e = .pcmdWarmReset ∨ e = .watchdogExpire → ∃ t, exec e s = .next t ∧ Cleared s t true ∧ t.power.st = .booting ∧
        t.power.cold = false ∧ t.power.selfRefresh = true ∧ t.power.err = 0 ∧ ∃ L, t.life = bumpCount .resets 1 L ∧
        (bankSeq s.key.lifeB < bankSeq s.key.lifeA → t.key.lifeB = some (bankSeq s.key.lifeA + 1, L)) ∧
        (¬ bankSeq s.key.lifeB < bankSeq s.key.lifeA → t.key.lifeA = some (bankSeq s.key.lifeB + 1, L)))) ∧
    (s.power.st = .booting →
      exec .pcmdColdReset s = .next ({ s with power := { s.power with again := some true } }.count .resets 1) ∧
      (∀ e, e = .pcmdWarmReset ∨ e = .watchdogExpire → exec e s =
        .next ({ snapshot s with power := { s.power with again := some (s.power.again == some true) } }.count .resets 1)))

/-- R18, R398 to R401: a boot. A staged record that passes becomes CONFIG, and one that fails is counted; STAGE is empty then. The code is
that of the first check that fails, that of a cold boot's image being the first. CONFIG that fails leaves BOOTERR with the code and no
packet sent; else the part is READY, with UNITS from CONFIG's counts, every RDSTR 12, empty refresh reserves and its fabric numbers, and a
NOTICE goes on every port to every host node and the fabric manager. DRAM of a cold boot is 0; CYCLE starts again where a reset was
requested meanwhile. Whether a record's and an image's signature verifies is a value that the model leaves open, and that a boot is one
step is its choice (log 67). -/
def Claim.BootsCompleteOrFail : Prop :=
  ∀ (s s1 : State) (f : FabricIds) (cold : Bool), s.power.st = .booting → cold = (s.power.cold || s.power.again == some true) →
    s1 = takeStage (if s.power.again.isSome = true then { s with cycle := 0 } else s) cold →
    s1.key.config = (if recFormat s.key.stage ≠ 0 ∧ recordCode cold s.key.serial s.key.stage = 0 then s.key.stage
      else s.key.config) ∧ recFormat s1.key.stage = 0 ∧ (s.power.again.isSome = true → s1.cycle = 0) ∧
    (cold = true → Config.imageOk = false → bootCode s1 cold = 1) ∧
    (bootCode s1 cold ≠ 0 → ∃ t, exec (.bootComplete f) s = .next t ∧ t.power.st = .booterr ∧ t.power.err = BitVec.ofNat 8 (bootCode s1 cold) ∧
      t.fab = s.fab ∧ t.key = s1.key) ∧
    (bootCode s1 cold = 0 → ∃ t, exec (.bootComplete f) s = .next t ∧ t.power.st = .ready ∧ t.power.err = 0 ∧
      t.units = unitsOf s1.key.config ∧ (∀ n (_ : n < 256), t.pchs[n].rdstr = 12) ∧
      (∀ n (h : n < 8), t.stks[n].resv = Vector.replicate 16 0) ∧ t.fab.pid = f.pid ∧ t.fab.manager = f.manager ∧ t.fab.hosts = f.hosts ∧
      t.fab.drain = .run ∧ (∀ x ∈ t.fab.watchers, ∀ q ∈ planesOn t, ∃ p ∈ t.fab.outbox, p.dst = x ∧ p.body = .ready q) ∧
      t.cycle = s1.cycle ∧
      (if cold then t.dram = [] ∧ t.synd = [] else t.dram = s.dram ∧ t.synd = s.synd))

/-- R402, R404: a power block steps down over its limit and rises again, halves its clock when hot, and at the trip power is cut, which is a
cold reset with the trip counted. None of it changes a result. A snapshot goes to the bank that does not hold the last one. -/
def Claim.BlocksAndSnapshots : Prop :=
  ∀ (s : State), s.power.st ≠ .unpowered →
    (∀ (b : Nat) (x : Block), s.power.blocks.toList[b]? = some x → ∀ p ∈ [(Instr.currentLimitExceeded b, ({ x with stepped := true } : Block)),
        (.currentRecovery b, { x with stepped := false }), (.thermalThrottle b, { x with halved := true })],
      ∃ t, exec p.1 s = .next t ∧ t.power.blocks.toList[b]? = some p.2 ∧ t = { s with power := { s.power with blocks := t.power.blocks } }) ∧
    (∀ b, b < 28 → ∃ t, exec (.thermalTrip b) s = .next t ∧ Cleared s t false ∧ t.power.st = .booting ∧ t.power.cold = true ∧
      t.life = bumpCount .thermalTrips 1 (bumpCount .resets 1 (lastCounts s.key))) ∧
    (∃ t, exec .lifetimeSnapshot s = .next t ∧ t.groups = s.groups ∧ t.dram = s.dram ∧
      (bankSeq s.key.lifeB < bankSeq s.key.lifeA → t.key.lifeA = s.key.lifeA ∧ t.key.lifeB = some (bankSeq s.key.lifeA + 1, t.life)) ∧
      (¬ bankSeq s.key.lifeB < bankSeq s.key.lifeA → t.key.lifeB = s.key.lifeB ∧ t.key.lifeA = some (bankSeq s.key.lifeB + 1, t.life)))

/-- R396, R400, R401: the keystone by I3C, powered or not. Reads serve the part number, the serial, CONFIG, STAGE and PSTAT, and 0 where no
region is; a write of a byte of STAGE is taken unless the part boots; a write of PCMD resets; every other write is answered with a NACK, and
nothing but the offset changes; taking the bytes of a write one by one is the model's choice (log 67). -/
def Claim.KeystoneAccess : Prop :=
  ∀ (s : State),
    (∀ n, ∃ t, exec (.i3cRead n) s = .next t ∧ t.key.rd.length = n ∧ t.groups = s.groups ∧ t.power = s.power ∧ ∀ k, k < n →
      (∀ a, a = s.key.off.toNat + k →
        (a < 7 → t.key.rd[k]? = [0x48#8, 0x5A#8, 0x2D#8, 0x35#8, 0x31#8, 0x32#8, 0x30#8][a]?) ∧
        (16 ≤ a → a < 32 → t.key.rd[k]? = some (s.key.serial.getD (a - 16) 0)) ∧
        (0x100 ≤ a → a < 0x4100 → t.key.rd[k]? = some (s.key.config.getD (a - 0x100) 0)) ∧
        (0x4100 ≤ a → a < 0x8100 → t.key.rd[k]? = some (s.key.stage.getD (a - 0x4100) 0)) ∧
        (a = 0x1F000 → t.key.rd[k]? = some (BitVec.ofNat 8 s.power.st.code)) ∧ (a = 0x1F001 → t.key.rd[k]? = some s.power.err) ∧
        (a = 0x1F002 → t.key.rd[k]? = some s.fab.drain.code) ∧
        (((0x60 ≤ a ∧ a < 0x100) ∨ (0x18100 ≤ a ∧ a < 0x1F000) ∨ 0x1F003 ≤ a) → t.key.rd[k]? = some 0))) ∧
    (∀ (a : BitVec 24) (b : Byte),
      (0x4100 ≤ a.toNat → a.toNat < 0x8100 → s.power.st ≠ .booting → ∃ S, exec (.i3cWrite a [b]) s =
        .next { s with key := { s.key with off := a, stage := S, nack := false } } ∧ S.getD (a.toNat - 0x4100) 0 = b ∧
        ∀ i, i ≠ a.toNat - 0x4100 → S.getD i 0 = s.key.stage.getD i 0) ∧
      (¬ (0x4100 ≤ a.toNat ∧ a.toNat < 0x8100 ∧ s.power.st ≠ .booting) → exec (.i3cWrite a [b]) s =
        .next { s with key := { s.key with off := a, nack := true } })) ∧
    (∀ x, x = { s with key := { s.key with off := 0x01F008#24, nack := false } } →
      exec (.i3cWrite 0x01F008#24 [1, 0, 0, 0]) s = exec .pcmdColdReset x ∧ exec (.i3cWrite 0x01F008#24 [2, 0, 0, 0]) s = exec .pcmdWarmReset x ∧
      exec (.i3cWrite 0x01F008#24 [3, 0, 0, 0]) s = .next x)

/-- R376 to R381, R390, R394, R396 to R404: replies and losses, route draining, boots, resets, power and the keystone.
The model's choices in it: log 61, 62, 66 and 67. -/
def Obligations.FabricAndPowerSteps : Prop :=
  Claim.RepliesAreMatched ∧ Claim.PacketsAreResentHeldAndLost ∧ Claim.RoutesDrain ∧ Claim.ResetsKeepAndLose ∧ Claim.BootsCompleteOrFail ∧
    Claim.BlocksAndSnapshots ∧ Claim.KeystoneAccess


/-! ### Encodings (R23, R33 to R47, R58 to R70) -/

/-- A source field that names a vector register or a scalar register, without mark and modifier. -/
def vsrc (r : VNum) : Opnd := ⟨.v r, false, .none, .none⟩
def ssrc (r : SReg) : Opnd := ⟨.s r, false, .none, .none⟩
def isrc (x : W32) : Opnd := ⟨.imm x, false, .none, .none⟩

/-- The words that the spec assembles, and two that are no instruction, decode to the instructions that it spells (R33, R60, R61, R69,
R107, R128, R146, R147, R165, R175, R182, R197, R210, R309, R326 to R328, R337, R342). A check of a few words. -/
def Obligations.DecodedWords : Prop :=
  decodeTableWord 32 0x0238A300 = some (.add 7 5 6) ∧ decodeTableWord 32 0x20285FF4 = some (.addi 5 2 (-12)) ∧
  decodeTableWord 32 0x30492345 = some (.sethi 9 0x12345) ∧ decodeTableWord 32 0x264921BC = some (.ori 9 9 0x1BC) ∧
  decodeTableWord 32 0x50000006 = some (.b 6) ∧ decodeTableWord 32 0xC0290000 = some (.launch 5 8) ∧ decodeTableWord 32 0x02188285 = some (.div 3 4 5) ∧
  decodeTableWord 32 0x2E30E003 = some (.srai 6 7 3) ∧ decodeTableWord 32 0x40210010 = some (.lds 4 8 16) ∧
  decodeTableWord 32 0x44210010 = some (.sts 4 8 16) ∧ decodeTableWord 32 0x54189FFB = some (.bne 3 4 (-5)) ∧
  decodeTableWord 32 0x5FF00014 = some (.call 62 20) ∧ decodeTableWord 32 0x6007C001 = some (.ret 62) ∧ decodeTableWord 32 0xB2004180 = some (.bar 2 3) ∧
  decodeTableWord 32 0xA4A2AB00 = some (.give 20 21 22) ∧ decodeTableWord 32 0x86006000 = some (.rcfence 3) ∧
  decodeTableWord 32 0x92EBC000 = some (.mwait 29 30) ∧ decodeTableWord 32 0xA0314000 = some (.erase 6 10) ∧
  decodeTableWord 32 0xD0200030 = some (.getc 4 0x030) ∧ decodeTableWord 32 0xD200E031 = some (.setcXlctl 7) ∧ decodeTableWord 32 0xD6000000 = some .sret ∧
  decodeTableWord 32 0x88516600 = some (.gath 10 11 12) ∧
  decodeTableWord 96 0xAA7411C00080000000180000 = some (.ldpImm ⟨.x32, .v 4, .always, 0, vsrc 2, isrc 384, .unused⟩) ∧
  decodeTableWord 96 0x2AB401C00080A00000000000 = some (.stp ⟨.x32, .none, .always, 0, vsrc 2, vsrc 5, .unused⟩) ∧
  decodeTableWord 96 0x301029C00080600000000000 = some (.isect ⟨.n32, .v 10, .always, 0, vsrc 2, vsrc 3, .unused⟩) ∧
  decodeTableWord 96 0x30A015C00100004000000000 = some (.segredAdd ⟨.f32, .v 5, .always, 0, vsrc 4, .unused, ⟨.raw 4, false, .none, .none⟩⟩) ∧
  decodeTableWord 96 0x387401C02000E00000000000 = some (.replaceSupply ⟨.x32, .none, .always, 0, ssrc 0, vsrc 7, .unused⟩) ∧
  decodeTableWord 96 0x387401C02A00E00000000000 = some (.replaceStore ⟨.x32, .none, .always, 0, ssrc 40, vsrc 7, .unused⟩) ∧
  decodeTableWord 32 0 = some .unassignedInstruction ∧ decodeTableWord 96 0 = some .unassignedInstruction

/-- R33, R59 to R70: every well-formed scalar instruction has one word, and its word decodes to it, with every operand at every value.
A word that decodes to an instruction is that instruction's word, so that no two words mean the same and no bit of one is ignored. -/
def Obligations.ScalarWordsRoundTrip : Prop :=
  (∀ (i : Instr) (w : W32), i.wf = true → encodeScalar i = some w → decodeScalar w = .ok i) ∧
  (∀ (w : W32) (i : Instr), decodeScalar w = .ok i → i ≠ .unassignedInstruction → encodeScalar i = some w ∧ i.wf = true)

/-- R36 to R47, R64 to R68: every well-formed lane instruction has one word, which decodes to it, with every operand, modifier, mark,
predicate, destination and immediate at every value that the instruction accepts. A word that decodes to an instruction is that
instruction's word, so that no two words mean the same and no bit of one is ignored, and the instruction is well-formed. -/
def Obligations.LaneWordsRoundTrip : Prop :=
  (∀ (i : Instr) (w : BitVec 96), i.wf = true → encodeLane i = some w → decodeLane w = .ok i) ∧
  (∀ (i : Instr), (laneParts i).isSome = true → i.wf = true → (encodeLane i).isSome = true) ∧
  (∀ (w : BitVec 96) (i : Instr), decodeLane w = .ok i → i.wf = true ∧ (i ≠ .unassignedInstruction → encodeLane i = some w))

/-! ### Steps (R23 to R26, R58, R288, R387) -/

/-- The state in which the next turn begins, when the schedule's head has been taken. -/
def turnState (s : State) (t : List Action) : State := advance { s with agenda := t }

/-- R23, R24, R58: a step runs the instruction that its stream fetches at its PC: the scalar word, or the three words of the lane stream,
low word first. A word that is no instruction runs the step that raises ILL. Before a turn CYCLE counts, and the turn's group becomes the
current one; nothing else is added. A step of the part runs as it is named. Where the schedule names both streams of a group (R330), and both
raise a cause, both are raised in the one step, the scalar stream's beside the lane stream's, and the lowest is the one that a halted group
reports; where only one does, or neither, one stream acts and then the other. A lane stream whose last instruction ended a step of MODE 2,
as the word after it, which could not be fetched then, turns out to be no follower, raises that STEP first (R348). -/
def Obligations.StepRunsTheFetchedInstruction : Prop :=
  ∀ (s s1 : State) (a : Action) (t : List Action), s.agenda = a :: t →
    (∀ i, a = .event i → step s = exec i (turnState s t)) ∧
    (∀ g G w x, a = .scalar g → (turnState s t).group? g = some G → G.running = true → G.wait.paused = false → G.queueDue = [] →
      whoScalar (turnState s t) g G = some w → fetchWords (turnState s t) w G.sc.spc.toNat 1 = (.ok [x], s1) →
      (∀ i, decodeScalar x = .ok i → step s = exec i { s1 with cur := g, curLane := false }) ∧
      (∀ e, decodeScalar x = .error e → step s = exec .unassignedInstruction { s1 with cur := g, curLane := false })) ∧
    (∀ g G w x y z n, a = .lane g → (turnState s t).group? g = some G → G.running = true → G.wait.paused = false →
      G.lane.run.isSome = true → (G.lane.stall = .none ∨ G.lane.stall = .port ∨ G.lane.stall = .rows) →
      G.lane.lpc.toNat = G.bind.lbase.toNat + 12 * n →
      whoLane (turnState s t) g G = some w → fetchWords (turnState s t) w G.lane.lpc.toNat 3 = (.ok [x, y, z], s1) →
      (stepOwed s1 g G = true → s1.group? g = some G → ∃ u K, step s = .next u ∧ u.group? g = some K ∧ K.trap.cause.getLsbD cSTEP = true ∧
        K.lane.chain = none ∧ K.sc.sregs = G.sc.sregs ∧ (K.trap.hmode = true → K.trap.epcl = epclOf false G.lane.lpc)) ∧
      (stepOwed s1 g G = false → ∀ i, decodeLane (z ++ y ++ x) = .ok i → step s = exec i { s1 with cur := g, curLane := true }) ∧
      (stepOwed s1 g G = false → ∀ e, decodeLane (z ++ y ++ x) = .error e → step s = exec .unassignedInstruction { s1 with cur := g, curLane := true })) ∧
    (∀ g u, a = .both g → runTurn (laneTurn (turnState s t) g) = .next u →
      (causeTaken (turnState s t) u g = true → ∀ v, runTurn (scalarTurn (besideLane (turnState s t) u g) g) = .next v →
        causeTaken (turnState s t) v g = true → step s = .next (reportLowest v g)) ∧
      (causeTaken (turnState s t) u g = false ∨ (∃ v, runTurn (scalarTurn (besideLane (turnState s t) u g) g) = .next v ∧
        causeTaken (turnState s t) v g = false) → ∀ v x, runTurn (scalarTurn (turnState s t) g) = .next v →
        runTurn (laneTurn v g) = .next x → step s = .next x))

/-- R126, R193, R267, R269, R270: what the schedule may have the part do beside whole instructions. A command at work makes some of its accesses,
in order or ahead of it. A stream reads a word ahead: nothing but what an access to memory changes does, and the value is kept for the load
that comes. Past a fault that is being served the lane stream issues an instruction, which takes rows and an entry of the store queue: no
register changes, and nothing of it commits. -/
def Claim.StepsBesideInstructions : Prop :=
  ∀ (s u : State) (a : Action) (t : List Action), s.agenda = a :: t →
    (∀ n k j c G, a = .advance n k j → AtWork (turnState s t) n c G → ∃ v d, step s = .next v ∧ v.cmds[n]? = some d ∧
      d = { c with next := d.next, early := d.early, rowsDone := d.rowsDone, uses := d.uses, part := d.part, ended := d.ended, fail := d.fail } ∧
      (∀ f, c.fail = some f → d.fail = some f) ∧ ∀ m, m ≠ n → v.cmds[m]? = s.cmds[m]?) ∧
    (∀ g lane va, a = .readAhead g lane va → step s = .next u →
      SameOutside (turnState s t) u ∧ ∃ e, u.early.getLast? = some e ∧ e.group = g ∧ e.lane = lane) ∧
    (∀ g rows b, a = .issueAhead g rows b → step s = .next u → ∃ G H, s.group? g = some G ∧ u.group? g = some H ∧
      SameOutside { turnState s t with groups := u.groups } u ∧ H.sc = G.sc ∧ H.trap = G.trap ∧ H.eng = G.eng ∧
      H.lane = { G.lane with ahead := G.lane.ahead + 1, aheadRows := G.lane.aheadRows + rows, aheadStores := G.lane.aheadStores + b.toNat } ∧
      ∀ n (_ : n < 128), G.vec.vregs[n].st ≠ .unmapped → H.vec.vregs[n].st ≠ .unmapped ∧ H.vec.vregs[n].val = G.vec.vregs[n].val)

/-- R288, R338, R387: where a step does not come to its instruction. A fetch that meets a cause raises it at the PC; a fetch that must wait
changes no PC; a lane PC that is not LBASE + 12n raises ILL; and a QUEUE that the group has been given is raised before the fetch. -/
def Claim.StepFetchTraps : Prop :=
  ∀ (s s1 : State) (t : List Action) (g : Nat) (G : Group) (w : Who), (turnState s t).group? g = some G → G.running = true →
    G.wait.paused = false →
    (s.agenda = .scalar g :: t →
      (G.queueDue = [] → whoScalar (turnState s t) g G = some w →
        (∀ r, fetchWords (turnState s t) w G.sc.spc.toNat 1 = (.raise r, s1) → ∀ H, s1.group? g = some H →
          step s = .next (scalarTrap (clearParty s1 (.scalar g) G.sc.spc) g H r)) ∧
        (fetchWords (turnState s t) w G.sc.spc.toNat 1 = (.wait, s1) → step s = .next s1)) ∧
      (G.queueDue ≠ [] → ∃ u, step s = .next u ∧ ∃ K, u.group? g = some K ∧ K.queueDue = [] ∧
        K.trap.cause.getLsbD cQUEUE = true)) ∧
    (s.agenda = .lane g :: t → G.lane.run.isSome = true →
      (G.lane.stall = .none ∨ G.lane.stall = .port ∨ G.lane.stall = .rows) → (∀ n, G.lane.lpc.toNat ≠ G.bind.lbase.toNat + 12 * n) →
      step s = .next (laneTrap (clearParty (turnState s t) (.lane g) G.lane.lpc) g G (.plain cILL)))

/-! ### Reset and the memory invariant (R223, R231, R399 to R401, R403) -/

/-- R126, R193, R267, R269, R270, R288, R338, R387: where a turn does not come to its instruction, and what the schedule may have the part do
beside whole instructions. -/
def Obligations.StepFetchTraps : Prop := Claim.StepsBesideInstructions ∧ Claim.StepFetchTraps

/-- R399, R400, R401, R403: after reset PSTAT is unpowered with no error, CYCLE is 0, DRAM reads 0 with valid check bytes everywhere, no
word is cached, no team or group is bound, the drain state is RUN, and every RDSTR is 12 with empty refresh reserves. -/
def Obligations.ResetState : Prop :=
  State.reset.power.st = .unpowered ∧ State.reset.power.err = 0 ∧ State.reset.cycle = 0 ∧
  (∀ a, memGet State.reset.dram a = 0 ∧ memGet State.reset.synd a = 0) ∧ State.reset.lines = [] ∧ State.reset.tlb = [] ∧
  State.reset.groups = [] ∧ State.reset.teams = [] ∧ State.reset.contexts = [] ∧ State.reset.launches = [] ∧ State.reset.sq = [] ∧
  State.reset.fab.drain = .run ∧ (∀ n (h : n < 256), State.reset.pchs[n].rdstr = 12) ∧
  (∀ n (h : n < 8), State.reset.stks[n].resv = Vector.replicate 16 0) ∧ State.reset.memOk = true

/-- Every step keeps DRAM, data and check bytes, in its canonical form: whatever the state, the schedule and the instruction are. (The form
is the model's own: addresses rising, and no entry for what an unlisted address reads as.) -/
def Obligations.StepKeepsMemoryCanonical : Prop :=
  ∀ (s t : State), s.memOk = true → step s = .next t → t.memOk = true
end

