-- ==== Sys2Proof/Laws/State.lean ====
section
/-! SUPPORT. What each named update of the state leaves alone: one lemma per field and update, true by definition. -/

namespace Sys2Proof.Machine

/-! ### State.setGroup -/

@[simp] theorem State.setGroup_teams (s : State) (g : Nat) (G : Group) : (s.setGroup g G).teams = s.teams := rfl
@[simp] theorem State.setGroup_deeds (s : State) (g : Nat) (G : Group) : (s.setGroup g G).deeds = s.deeds := rfl
@[simp] theorem State.setGroup_contexts (s : State) (g : Nat) (G : Group) : (s.setGroup g G).contexts = s.contexts := rfl
@[simp] theorem State.setGroup_dram (s : State) (g : Nat) (G : Group) : (s.setGroup g G).dram = s.dram := rfl
@[simp] theorem State.setGroup_synd (s : State) (g : Nat) (G : Group) : (s.setGroup g G).synd = s.synd := rfl
@[simp] theorem State.setGroup_scrubs (s : State) (g : Nat) (G : Group) : (s.setGroup g G).scrubs = s.scrubs := rfl
@[simp] theorem State.setGroup_reqs (s : State) (g : Nat) (G : Group) : (s.setGroup g G).reqs = s.reqs := rfl
@[simp] theorem State.setGroup_lines (s : State) (g : Nat) (G : Group) : (s.setGroup g G).lines = s.lines := rfl
@[simp] theorem State.setGroup_coreUse (s : State) (g : Nat) (G : Group) : (s.setGroup g G).coreUse = s.coreUse := rfl
@[simp] theorem State.setGroup_shUse (s : State) (g : Nat) (G : Group) : (s.setGroup g G).shUse = s.shUse := rfl
@[simp] theorem State.setGroup_tlb (s : State) (g : Nat) (G : Group) : (s.setGroup g G).tlb = s.tlb := rfl
@[simp] theorem State.setGroup_faults (s : State) (g : Nat) (G : Group) : (s.setGroup g G).faults = s.faults := rfl
@[simp] theorem State.setGroup_verdicts (s : State) (g : Nat) (G : Group) : (s.setGroup g G).verdicts = s.verdicts := rfl
@[simp] theorem State.setGroup_sq (s : State) (g : Nat) (G : Group) : (s.setGroup g G).sq = s.sq := rfl
@[simp] theorem State.setGroup_early (s : State) (g : Nat) (G : Group) : (s.setGroup g G).early = s.early := rfl
@[simp] theorem State.setGroup_oplog (s : State) (g : Nat) (G : Group) : (s.setGroup g G).oplog = s.oplog := rfl
@[simp] theorem State.setGroup_psets (s : State) (g : Nat) (G : Group) : (s.setGroup g G).psets = s.psets := rfl
@[simp] theorem State.setGroup_spad (s : State) (g : Nat) (G : Group) : (s.setGroup g G).spad = s.spad := rfl
@[simp] theorem State.setGroup_padw (s : State) (g : Nat) (G : Group) : (s.setGroup g G).padw = s.padw := rfl
@[simp] theorem State.setGroup_scale (s : State) (g : Nat) (G : Group) : (s.setGroup g G).scale = s.scale := rfl
@[simp] theorem State.setGroup_pchOff (s : State) (g : Nat) (G : Group) : (s.setGroup g G).pchOff = s.pchOff := rfl
@[simp] theorem State.setGroup_life (s : State) (g : Nat) (G : Group) : (s.setGroup g G).life = s.life := rfl
@[simp] theorem State.setGroup_launches (s : State) (g : Nat) (G : Group) : (s.setGroup g G).launches = s.launches := rfl
@[simp] theorem State.setGroup_graphs (s : State) (g : Nat) (G : Group) : (s.setGroup g G).graphs = s.graphs := rfl
@[simp] theorem State.setGroup_cmds (s : State) (g : Nat) (G : Group) : (s.setGroup g G).cmds = s.cmds := rfl
@[simp] theorem State.setGroup_rcache (s : State) (g : Nat) (G : Group) : (s.setGroup g G).rcache = s.rcache := rfl
@[simp] theorem State.setGroup_meets (s : State) (g : Nat) (G : Group) : (s.setGroup g G).meets = s.meets := rfl
@[simp] theorem State.setGroup_qmeets (s : State) (g : Nat) (G : Group) : (s.setGroup g G).qmeets = s.qmeets := rfl
@[simp] theorem State.setGroup_refused (s : State) (g : Nat) (G : Group) : (s.setGroup g G).refused = s.refused := rfl
@[simp] theorem State.setGroup_serials (s : State) (g : Nat) (G : Group) : (s.setGroup g G).serials = s.serials := rfl
@[simp] theorem State.setGroup_pchs (s : State) (g : Nat) (G : Group) : (s.setGroup g G).pchs = s.pchs := rfl
@[simp] theorem State.setGroup_stks (s : State) (g : Nat) (G : Group) : (s.setGroup g G).stks = s.stks := rfl
@[simp] theorem State.setGroup_frames (s : State) (g : Nat) (G : Group) : (s.setGroup g G).frames = s.frames := rfl
@[simp] theorem State.setGroup_tiles (s : State) (g : Nat) (G : Group) : (s.setGroup g G).tiles = s.tiles := rfl
@[simp] theorem State.setGroup_tenants (s : State) (g : Nat) (G : Group) : (s.setGroup g G).tenants = s.tenants := rfl
@[simp] theorem State.setGroup_fab (s : State) (g : Nat) (G : Group) : (s.setGroup g G).fab = s.fab := rfl
@[simp] theorem State.setGroup_key (s : State) (g : Nat) (G : Group) : (s.setGroup g G).key = s.key := rfl
@[simp] theorem State.setGroup_power (s : State) (g : Nat) (G : Group) : (s.setGroup g G).power = s.power := rfl
@[simp] theorem State.setGroup_units (s : State) (g : Nat) (G : Group) : (s.setGroup g G).units = s.units := rfl
@[simp] theorem State.setGroup_images (s : State) (g : Nat) (G : Group) : (s.setGroup g G).images = s.images := rfl
@[simp] theorem State.setGroup_cycle (s : State) (g : Nat) (G : Group) : (s.setGroup g G).cycle = s.cycle := rfl
@[simp] theorem State.setGroup_freeCtr (s : State) (g : Nat) (G : Group) : (s.setGroup g G).freeCtr = s.freeCtr := rfl
@[simp] theorem State.setGroup_tick (s : State) (g : Nat) (G : Group) : (s.setGroup g G).tick = s.tick := rfl
@[simp] theorem State.setGroup_agenda (s : State) (g : Nat) (G : Group) : (s.setGroup g G).agenda = s.agenda := rfl
@[simp] theorem State.setGroup_cur (s : State) (g : Nat) (G : Group) : (s.setGroup g G).cur = s.cur := rfl
@[simp] theorem State.setGroup_curLane (s : State) (g : Nat) (G : Group) : (s.setGroup g G).curLane = s.curLane := rfl

/-! ### State.modGroup -/

@[simp] theorem State.modGroup_teams (s : State) (g : Nat) (f : Group → Group) : (s.modGroup g f).teams = s.teams := rfl
@[simp] theorem State.modGroup_deeds (s : State) (g : Nat) (f : Group → Group) : (s.modGroup g f).deeds = s.deeds := rfl
@[simp] theorem State.modGroup_contexts (s : State) (g : Nat) (f : Group → Group) : (s.modGroup g f).contexts = s.contexts := rfl
@[simp] theorem State.modGroup_dram (s : State) (g : Nat) (f : Group → Group) : (s.modGroup g f).dram = s.dram := rfl
@[simp] theorem State.modGroup_synd (s : State) (g : Nat) (f : Group → Group) : (s.modGroup g f).synd = s.synd := rfl
@[simp] theorem State.modGroup_scrubs (s : State) (g : Nat) (f : Group → Group) : (s.modGroup g f).scrubs = s.scrubs := rfl
@[simp] theorem State.modGroup_reqs (s : State) (g : Nat) (f : Group → Group) : (s.modGroup g f).reqs = s.reqs := rfl
@[simp] theorem State.modGroup_lines (s : State) (g : Nat) (f : Group → Group) : (s.modGroup g f).lines = s.lines := rfl
@[simp] theorem State.modGroup_coreUse (s : State) (g : Nat) (f : Group → Group) : (s.modGroup g f).coreUse = s.coreUse := rfl
@[simp] theorem State.modGroup_shUse (s : State) (g : Nat) (f : Group → Group) : (s.modGroup g f).shUse = s.shUse := rfl
@[simp] theorem State.modGroup_tlb (s : State) (g : Nat) (f : Group → Group) : (s.modGroup g f).tlb = s.tlb := rfl
@[simp] theorem State.modGroup_faults (s : State) (g : Nat) (f : Group → Group) : (s.modGroup g f).faults = s.faults := rfl
@[simp] theorem State.modGroup_verdicts (s : State) (g : Nat) (f : Group → Group) : (s.modGroup g f).verdicts = s.verdicts := rfl
@[simp] theorem State.modGroup_sq (s : State) (g : Nat) (f : Group → Group) : (s.modGroup g f).sq = s.sq := rfl
@[simp] theorem State.modGroup_early (s : State) (g : Nat) (f : Group → Group) : (s.modGroup g f).early = s.early := rfl
@[simp] theorem State.modGroup_oplog (s : State) (g : Nat) (f : Group → Group) : (s.modGroup g f).oplog = s.oplog := rfl
@[simp] theorem State.modGroup_psets (s : State) (g : Nat) (f : Group → Group) : (s.modGroup g f).psets = s.psets := rfl
@[simp] theorem State.modGroup_spad (s : State) (g : Nat) (f : Group → Group) : (s.modGroup g f).spad = s.spad := rfl
@[simp] theorem State.modGroup_padw (s : State) (g : Nat) (f : Group → Group) : (s.modGroup g f).padw = s.padw := rfl
@[simp] theorem State.modGroup_scale (s : State) (g : Nat) (f : Group → Group) : (s.modGroup g f).scale = s.scale := rfl
@[simp] theorem State.modGroup_pchOff (s : State) (g : Nat) (f : Group → Group) : (s.modGroup g f).pchOff = s.pchOff := rfl
@[simp] theorem State.modGroup_life (s : State) (g : Nat) (f : Group → Group) : (s.modGroup g f).life = s.life := rfl
@[simp] theorem State.modGroup_launches (s : State) (g : Nat) (f : Group → Group) : (s.modGroup g f).launches = s.launches := rfl
@[simp] theorem State.modGroup_graphs (s : State) (g : Nat) (f : Group → Group) : (s.modGroup g f).graphs = s.graphs := rfl
@[simp] theorem State.modGroup_cmds (s : State) (g : Nat) (f : Group → Group) : (s.modGroup g f).cmds = s.cmds := rfl
@[simp] theorem State.modGroup_rcache (s : State) (g : Nat) (f : Group → Group) : (s.modGroup g f).rcache = s.rcache := rfl
@[simp] theorem State.modGroup_meets (s : State) (g : Nat) (f : Group → Group) : (s.modGroup g f).meets = s.meets := rfl
@[simp] theorem State.modGroup_qmeets (s : State) (g : Nat) (f : Group → Group) : (s.modGroup g f).qmeets = s.qmeets := rfl
@[simp] theorem State.modGroup_refused (s : State) (g : Nat) (f : Group → Group) : (s.modGroup g f).refused = s.refused := rfl
@[simp] theorem State.modGroup_serials (s : State) (g : Nat) (f : Group → Group) : (s.modGroup g f).serials = s.serials := rfl
@[simp] theorem State.modGroup_pchs (s : State) (g : Nat) (f : Group → Group) : (s.modGroup g f).pchs = s.pchs := rfl
@[simp] theorem State.modGroup_stks (s : State) (g : Nat) (f : Group → Group) : (s.modGroup g f).stks = s.stks := rfl
@[simp] theorem State.modGroup_frames (s : State) (g : Nat) (f : Group → Group) : (s.modGroup g f).frames = s.frames := rfl
@[simp] theorem State.modGroup_tiles (s : State) (g : Nat) (f : Group → Group) : (s.modGroup g f).tiles = s.tiles := rfl
@[simp] theorem State.modGroup_tenants (s : State) (g : Nat) (f : Group → Group) : (s.modGroup g f).tenants = s.tenants := rfl
@[simp] theorem State.modGroup_fab (s : State) (g : Nat) (f : Group → Group) : (s.modGroup g f).fab = s.fab := rfl
@[simp] theorem State.modGroup_key (s : State) (g : Nat) (f : Group → Group) : (s.modGroup g f).key = s.key := rfl
@[simp] theorem State.modGroup_power (s : State) (g : Nat) (f : Group → Group) : (s.modGroup g f).power = s.power := rfl
@[simp] theorem State.modGroup_units (s : State) (g : Nat) (f : Group → Group) : (s.modGroup g f).units = s.units := rfl
@[simp] theorem State.modGroup_images (s : State) (g : Nat) (f : Group → Group) : (s.modGroup g f).images = s.images := rfl
@[simp] theorem State.modGroup_cycle (s : State) (g : Nat) (f : Group → Group) : (s.modGroup g f).cycle = s.cycle := rfl
@[simp] theorem State.modGroup_freeCtr (s : State) (g : Nat) (f : Group → Group) : (s.modGroup g f).freeCtr = s.freeCtr := rfl
@[simp] theorem State.modGroup_tick (s : State) (g : Nat) (f : Group → Group) : (s.modGroup g f).tick = s.tick := rfl
@[simp] theorem State.modGroup_agenda (s : State) (g : Nat) (f : Group → Group) : (s.modGroup g f).agenda = s.agenda := rfl
@[simp] theorem State.modGroup_cur (s : State) (g : Nat) (f : Group → Group) : (s.modGroup g f).cur = s.cur := rfl
@[simp] theorem State.modGroup_curLane (s : State) (g : Nat) (f : Group → Group) : (s.modGroup g f).curLane = s.curLane := rfl

/-! ### State.modTeam -/

@[simp] theorem State.modTeam_groups (s : State) (n : Nat) (f : Team → Team) : (s.modTeam n f).groups = s.groups := rfl
@[simp] theorem State.modTeam_deeds (s : State) (n : Nat) (f : Team → Team) : (s.modTeam n f).deeds = s.deeds := rfl
@[simp] theorem State.modTeam_contexts (s : State) (n : Nat) (f : Team → Team) : (s.modTeam n f).contexts = s.contexts := rfl
@[simp] theorem State.modTeam_dram (s : State) (n : Nat) (f : Team → Team) : (s.modTeam n f).dram = s.dram := rfl
@[simp] theorem State.modTeam_synd (s : State) (n : Nat) (f : Team → Team) : (s.modTeam n f).synd = s.synd := rfl
@[simp] theorem State.modTeam_scrubs (s : State) (n : Nat) (f : Team → Team) : (s.modTeam n f).scrubs = s.scrubs := rfl
@[simp] theorem State.modTeam_reqs (s : State) (n : Nat) (f : Team → Team) : (s.modTeam n f).reqs = s.reqs := rfl
@[simp] theorem State.modTeam_lines (s : State) (n : Nat) (f : Team → Team) : (s.modTeam n f).lines = s.lines := rfl
@[simp] theorem State.modTeam_coreUse (s : State) (n : Nat) (f : Team → Team) : (s.modTeam n f).coreUse = s.coreUse := rfl
@[simp] theorem State.modTeam_shUse (s : State) (n : Nat) (f : Team → Team) : (s.modTeam n f).shUse = s.shUse := rfl
@[simp] theorem State.modTeam_tlb (s : State) (n : Nat) (f : Team → Team) : (s.modTeam n f).tlb = s.tlb := rfl
@[simp] theorem State.modTeam_faults (s : State) (n : Nat) (f : Team → Team) : (s.modTeam n f).faults = s.faults := rfl
@[simp] theorem State.modTeam_verdicts (s : State) (n : Nat) (f : Team → Team) : (s.modTeam n f).verdicts = s.verdicts := rfl
@[simp] theorem State.modTeam_sq (s : State) (n : Nat) (f : Team → Team) : (s.modTeam n f).sq = s.sq := rfl
@[simp] theorem State.modTeam_early (s : State) (n : Nat) (f : Team → Team) : (s.modTeam n f).early = s.early := rfl
@[simp] theorem State.modTeam_oplog (s : State) (n : Nat) (f : Team → Team) : (s.modTeam n f).oplog = s.oplog := rfl
@[simp] theorem State.modTeam_psets (s : State) (n : Nat) (f : Team → Team) : (s.modTeam n f).psets = s.psets := rfl
@[simp] theorem State.modTeam_spad (s : State) (n : Nat) (f : Team → Team) : (s.modTeam n f).spad = s.spad := rfl
@[simp] theorem State.modTeam_padw (s : State) (n : Nat) (f : Team → Team) : (s.modTeam n f).padw = s.padw := rfl
@[simp] theorem State.modTeam_scale (s : State) (n : Nat) (f : Team → Team) : (s.modTeam n f).scale = s.scale := rfl
@[simp] theorem State.modTeam_pchOff (s : State) (n : Nat) (f : Team → Team) : (s.modTeam n f).pchOff = s.pchOff := rfl
@[simp] theorem State.modTeam_life (s : State) (n : Nat) (f : Team → Team) : (s.modTeam n f).life = s.life := rfl
@[simp] theorem State.modTeam_launches (s : State) (n : Nat) (f : Team → Team) : (s.modTeam n f).launches = s.launches := rfl
@[simp] theorem State.modTeam_graphs (s : State) (n : Nat) (f : Team → Team) : (s.modTeam n f).graphs = s.graphs := rfl
@[simp] theorem State.modTeam_cmds (s : State) (n : Nat) (f : Team → Team) : (s.modTeam n f).cmds = s.cmds := rfl
@[simp] theorem State.modTeam_rcache (s : State) (n : Nat) (f : Team → Team) : (s.modTeam n f).rcache = s.rcache := rfl
@[simp] theorem State.modTeam_meets (s : State) (n : Nat) (f : Team → Team) : (s.modTeam n f).meets = s.meets := rfl
@[simp] theorem State.modTeam_qmeets (s : State) (n : Nat) (f : Team → Team) : (s.modTeam n f).qmeets = s.qmeets := rfl
@[simp] theorem State.modTeam_refused (s : State) (n : Nat) (f : Team → Team) : (s.modTeam n f).refused = s.refused := rfl
@[simp] theorem State.modTeam_serials (s : State) (n : Nat) (f : Team → Team) : (s.modTeam n f).serials = s.serials := rfl
@[simp] theorem State.modTeam_pchs (s : State) (n : Nat) (f : Team → Team) : (s.modTeam n f).pchs = s.pchs := rfl
@[simp] theorem State.modTeam_stks (s : State) (n : Nat) (f : Team → Team) : (s.modTeam n f).stks = s.stks := rfl
@[simp] theorem State.modTeam_frames (s : State) (n : Nat) (f : Team → Team) : (s.modTeam n f).frames = s.frames := rfl
@[simp] theorem State.modTeam_tiles (s : State) (n : Nat) (f : Team → Team) : (s.modTeam n f).tiles = s.tiles := rfl
@[simp] theorem State.modTeam_tenants (s : State) (n : Nat) (f : Team → Team) : (s.modTeam n f).tenants = s.tenants := rfl
@[simp] theorem State.modTeam_fab (s : State) (n : Nat) (f : Team → Team) : (s.modTeam n f).fab = s.fab := rfl
@[simp] theorem State.modTeam_key (s : State) (n : Nat) (f : Team → Team) : (s.modTeam n f).key = s.key := rfl
@[simp] theorem State.modTeam_power (s : State) (n : Nat) (f : Team → Team) : (s.modTeam n f).power = s.power := rfl
@[simp] theorem State.modTeam_units (s : State) (n : Nat) (f : Team → Team) : (s.modTeam n f).units = s.units := rfl
@[simp] theorem State.modTeam_images (s : State) (n : Nat) (f : Team → Team) : (s.modTeam n f).images = s.images := rfl
@[simp] theorem State.modTeam_cycle (s : State) (n : Nat) (f : Team → Team) : (s.modTeam n f).cycle = s.cycle := rfl
@[simp] theorem State.modTeam_freeCtr (s : State) (n : Nat) (f : Team → Team) : (s.modTeam n f).freeCtr = s.freeCtr := rfl
@[simp] theorem State.modTeam_tick (s : State) (n : Nat) (f : Team → Team) : (s.modTeam n f).tick = s.tick := rfl
@[simp] theorem State.modTeam_agenda (s : State) (n : Nat) (f : Team → Team) : (s.modTeam n f).agenda = s.agenda := rfl
@[simp] theorem State.modTeam_cur (s : State) (n : Nat) (f : Team → Team) : (s.modTeam n f).cur = s.cur := rfl
@[simp] theorem State.modTeam_curLane (s : State) (n : Nat) (f : Team → Team) : (s.modTeam n f).curLane = s.curLane := rfl

/-! ### State.modCtx -/

@[simp] theorem State.modCtx_groups (s : State) (n : Nat) (f : Context → Context) : (s.modCtx n f).groups = s.groups := rfl
@[simp] theorem State.modCtx_teams (s : State) (n : Nat) (f : Context → Context) : (s.modCtx n f).teams = s.teams := rfl
@[simp] theorem State.modCtx_deeds (s : State) (n : Nat) (f : Context → Context) : (s.modCtx n f).deeds = s.deeds := rfl
@[simp] theorem State.modCtx_dram (s : State) (n : Nat) (f : Context → Context) : (s.modCtx n f).dram = s.dram := rfl
@[simp] theorem State.modCtx_synd (s : State) (n : Nat) (f : Context → Context) : (s.modCtx n f).synd = s.synd := rfl
@[simp] theorem State.modCtx_scrubs (s : State) (n : Nat) (f : Context → Context) : (s.modCtx n f).scrubs = s.scrubs := rfl
@[simp] theorem State.modCtx_reqs (s : State) (n : Nat) (f : Context → Context) : (s.modCtx n f).reqs = s.reqs := rfl
@[simp] theorem State.modCtx_lines (s : State) (n : Nat) (f : Context → Context) : (s.modCtx n f).lines = s.lines := rfl
@[simp] theorem State.modCtx_coreUse (s : State) (n : Nat) (f : Context → Context) : (s.modCtx n f).coreUse = s.coreUse := rfl
@[simp] theorem State.modCtx_shUse (s : State) (n : Nat) (f : Context → Context) : (s.modCtx n f).shUse = s.shUse := rfl
@[simp] theorem State.modCtx_tlb (s : State) (n : Nat) (f : Context → Context) : (s.modCtx n f).tlb = s.tlb := rfl
@[simp] theorem State.modCtx_faults (s : State) (n : Nat) (f : Context → Context) : (s.modCtx n f).faults = s.faults := rfl
@[simp] theorem State.modCtx_verdicts (s : State) (n : Nat) (f : Context → Context) : (s.modCtx n f).verdicts = s.verdicts := rfl
@[simp] theorem State.modCtx_sq (s : State) (n : Nat) (f : Context → Context) : (s.modCtx n f).sq = s.sq := rfl
@[simp] theorem State.modCtx_early (s : State) (n : Nat) (f : Context → Context) : (s.modCtx n f).early = s.early := rfl
@[simp] theorem State.modCtx_oplog (s : State) (n : Nat) (f : Context → Context) : (s.modCtx n f).oplog = s.oplog := rfl
@[simp] theorem State.modCtx_psets (s : State) (n : Nat) (f : Context → Context) : (s.modCtx n f).psets = s.psets := rfl
@[simp] theorem State.modCtx_spad (s : State) (n : Nat) (f : Context → Context) : (s.modCtx n f).spad = s.spad := rfl
@[simp] theorem State.modCtx_padw (s : State) (n : Nat) (f : Context → Context) : (s.modCtx n f).padw = s.padw := rfl
@[simp] theorem State.modCtx_scale (s : State) (n : Nat) (f : Context → Context) : (s.modCtx n f).scale = s.scale := rfl
@[simp] theorem State.modCtx_pchOff (s : State) (n : Nat) (f : Context → Context) : (s.modCtx n f).pchOff = s.pchOff := rfl
@[simp] theorem State.modCtx_life (s : State) (n : Nat) (f : Context → Context) : (s.modCtx n f).life = s.life := rfl
@[simp] theorem State.modCtx_launches (s : State) (n : Nat) (f : Context → Context) : (s.modCtx n f).launches = s.launches := rfl
@[simp] theorem State.modCtx_graphs (s : State) (n : Nat) (f : Context → Context) : (s.modCtx n f).graphs = s.graphs := rfl
@[simp] theorem State.modCtx_cmds (s : State) (n : Nat) (f : Context → Context) : (s.modCtx n f).cmds = s.cmds := rfl
@[simp] theorem State.modCtx_rcache (s : State) (n : Nat) (f : Context → Context) : (s.modCtx n f).rcache = s.rcache := rfl
@[simp] theorem State.modCtx_meets (s : State) (n : Nat) (f : Context → Context) : (s.modCtx n f).meets = s.meets := rfl
@[simp] theorem State.modCtx_qmeets (s : State) (n : Nat) (f : Context → Context) : (s.modCtx n f).qmeets = s.qmeets := rfl
@[simp] theorem State.modCtx_refused (s : State) (n : Nat) (f : Context → Context) : (s.modCtx n f).refused = s.refused := rfl
@[simp] theorem State.modCtx_serials (s : State) (n : Nat) (f : Context → Context) : (s.modCtx n f).serials = s.serials := rfl
@[simp] theorem State.modCtx_pchs (s : State) (n : Nat) (f : Context → Context) : (s.modCtx n f).pchs = s.pchs := rfl
@[simp] theorem State.modCtx_stks (s : State) (n : Nat) (f : Context → Context) : (s.modCtx n f).stks = s.stks := rfl
@[simp] theorem State.modCtx_frames (s : State) (n : Nat) (f : Context → Context) : (s.modCtx n f).frames = s.frames := rfl
@[simp] theorem State.modCtx_tiles (s : State) (n : Nat) (f : Context → Context) : (s.modCtx n f).tiles = s.tiles := rfl
@[simp] theorem State.modCtx_tenants (s : State) (n : Nat) (f : Context → Context) : (s.modCtx n f).tenants = s.tenants := rfl
@[simp] theorem State.modCtx_fab (s : State) (n : Nat) (f : Context → Context) : (s.modCtx n f).fab = s.fab := rfl
@[simp] theorem State.modCtx_key (s : State) (n : Nat) (f : Context → Context) : (s.modCtx n f).key = s.key := rfl
@[simp] theorem State.modCtx_power (s : State) (n : Nat) (f : Context → Context) : (s.modCtx n f).power = s.power := rfl
@[simp] theorem State.modCtx_units (s : State) (n : Nat) (f : Context → Context) : (s.modCtx n f).units = s.units := rfl
@[simp] theorem State.modCtx_images (s : State) (n : Nat) (f : Context → Context) : (s.modCtx n f).images = s.images := rfl
@[simp] theorem State.modCtx_cycle (s : State) (n : Nat) (f : Context → Context) : (s.modCtx n f).cycle = s.cycle := rfl
@[simp] theorem State.modCtx_freeCtr (s : State) (n : Nat) (f : Context → Context) : (s.modCtx n f).freeCtr = s.freeCtr := rfl
@[simp] theorem State.modCtx_tick (s : State) (n : Nat) (f : Context → Context) : (s.modCtx n f).tick = s.tick := rfl
@[simp] theorem State.modCtx_agenda (s : State) (n : Nat) (f : Context → Context) : (s.modCtx n f).agenda = s.agenda := rfl
@[simp] theorem State.modCtx_cur (s : State) (n : Nat) (f : Context → Context) : (s.modCtx n f).cur = s.cur := rfl
@[simp] theorem State.modCtx_curLane (s : State) (n : Nat) (f : Context → Context) : (s.modCtx n f).curLane = s.curLane := rfl

/-! ### State.modFab -/

@[simp] theorem State.modFab_groups (s : State) (f : Fabric → Fabric) : (s.modFab f).groups = s.groups := rfl
@[simp] theorem State.modFab_teams (s : State) (f : Fabric → Fabric) : (s.modFab f).teams = s.teams := rfl
@[simp] theorem State.modFab_deeds (s : State) (f : Fabric → Fabric) : (s.modFab f).deeds = s.deeds := rfl
@[simp] theorem State.modFab_contexts (s : State) (f : Fabric → Fabric) : (s.modFab f).contexts = s.contexts := rfl
@[simp] theorem State.modFab_dram (s : State) (f : Fabric → Fabric) : (s.modFab f).dram = s.dram := rfl
@[simp] theorem State.modFab_synd (s : State) (f : Fabric → Fabric) : (s.modFab f).synd = s.synd := rfl
@[simp] theorem State.modFab_scrubs (s : State) (f : Fabric → Fabric) : (s.modFab f).scrubs = s.scrubs := rfl
@[simp] theorem State.modFab_reqs (s : State) (f : Fabric → Fabric) : (s.modFab f).reqs = s.reqs := rfl
@[simp] theorem State.modFab_lines (s : State) (f : Fabric → Fabric) : (s.modFab f).lines = s.lines := rfl
@[simp] theorem State.modFab_coreUse (s : State) (f : Fabric → Fabric) : (s.modFab f).coreUse = s.coreUse := rfl
@[simp] theorem State.modFab_shUse (s : State) (f : Fabric → Fabric) : (s.modFab f).shUse = s.shUse := rfl
@[simp] theorem State.modFab_tlb (s : State) (f : Fabric → Fabric) : (s.modFab f).tlb = s.tlb := rfl
@[simp] theorem State.modFab_faults (s : State) (f : Fabric → Fabric) : (s.modFab f).faults = s.faults := rfl
@[simp] theorem State.modFab_verdicts (s : State) (f : Fabric → Fabric) : (s.modFab f).verdicts = s.verdicts := rfl
@[simp] theorem State.modFab_sq (s : State) (f : Fabric → Fabric) : (s.modFab f).sq = s.sq := rfl
@[simp] theorem State.modFab_early (s : State) (f : Fabric → Fabric) : (s.modFab f).early = s.early := rfl
@[simp] theorem State.modFab_oplog (s : State) (f : Fabric → Fabric) : (s.modFab f).oplog = s.oplog := rfl
@[simp] theorem State.modFab_psets (s : State) (f : Fabric → Fabric) : (s.modFab f).psets = s.psets := rfl
@[simp] theorem State.modFab_spad (s : State) (f : Fabric → Fabric) : (s.modFab f).spad = s.spad := rfl
@[simp] theorem State.modFab_padw (s : State) (f : Fabric → Fabric) : (s.modFab f).padw = s.padw := rfl
@[simp] theorem State.modFab_scale (s : State) (f : Fabric → Fabric) : (s.modFab f).scale = s.scale := rfl
@[simp] theorem State.modFab_pchOff (s : State) (f : Fabric → Fabric) : (s.modFab f).pchOff = s.pchOff := rfl
@[simp] theorem State.modFab_life (s : State) (f : Fabric → Fabric) : (s.modFab f).life = s.life := rfl
@[simp] theorem State.modFab_launches (s : State) (f : Fabric → Fabric) : (s.modFab f).launches = s.launches := rfl
@[simp] theorem State.modFab_graphs (s : State) (f : Fabric → Fabric) : (s.modFab f).graphs = s.graphs := rfl
@[simp] theorem State.modFab_cmds (s : State) (f : Fabric → Fabric) : (s.modFab f).cmds = s.cmds := rfl
@[simp] theorem State.modFab_rcache (s : State) (f : Fabric → Fabric) : (s.modFab f).rcache = s.rcache := rfl
@[simp] theorem State.modFab_meets (s : State) (f : Fabric → Fabric) : (s.modFab f).meets = s.meets := rfl
@[simp] theorem State.modFab_qmeets (s : State) (f : Fabric → Fabric) : (s.modFab f).qmeets = s.qmeets := rfl
@[simp] theorem State.modFab_refused (s : State) (f : Fabric → Fabric) : (s.modFab f).refused = s.refused := rfl
@[simp] theorem State.modFab_serials (s : State) (f : Fabric → Fabric) : (s.modFab f).serials = s.serials := rfl
@[simp] theorem State.modFab_pchs (s : State) (f : Fabric → Fabric) : (s.modFab f).pchs = s.pchs := rfl
@[simp] theorem State.modFab_stks (s : State) (f : Fabric → Fabric) : (s.modFab f).stks = s.stks := rfl
@[simp] theorem State.modFab_frames (s : State) (f : Fabric → Fabric) : (s.modFab f).frames = s.frames := rfl
@[simp] theorem State.modFab_tiles (s : State) (f : Fabric → Fabric) : (s.modFab f).tiles = s.tiles := rfl
@[simp] theorem State.modFab_tenants (s : State) (f : Fabric → Fabric) : (s.modFab f).tenants = s.tenants := rfl
@[simp] theorem State.modFab_key (s : State) (f : Fabric → Fabric) : (s.modFab f).key = s.key := rfl
@[simp] theorem State.modFab_power (s : State) (f : Fabric → Fabric) : (s.modFab f).power = s.power := rfl
@[simp] theorem State.modFab_units (s : State) (f : Fabric → Fabric) : (s.modFab f).units = s.units := rfl
@[simp] theorem State.modFab_images (s : State) (f : Fabric → Fabric) : (s.modFab f).images = s.images := rfl
@[simp] theorem State.modFab_cycle (s : State) (f : Fabric → Fabric) : (s.modFab f).cycle = s.cycle := rfl
@[simp] theorem State.modFab_freeCtr (s : State) (f : Fabric → Fabric) : (s.modFab f).freeCtr = s.freeCtr := rfl
@[simp] theorem State.modFab_tick (s : State) (f : Fabric → Fabric) : (s.modFab f).tick = s.tick := rfl
@[simp] theorem State.modFab_agenda (s : State) (f : Fabric → Fabric) : (s.modFab f).agenda = s.agenda := rfl
@[simp] theorem State.modFab_cur (s : State) (f : Fabric → Fabric) : (s.modFab f).cur = s.cur := rfl
@[simp] theorem State.modFab_curLane (s : State) (f : Fabric → Fabric) : (s.modFab f).curLane = s.curLane := rfl

/-! ### State.modMeet -/

@[simp] theorem State.modMeet_groups (s : State) (n : Nat) (f : Meet → Meet) : (s.modMeet n f).groups = s.groups := rfl
@[simp] theorem State.modMeet_teams (s : State) (n : Nat) (f : Meet → Meet) : (s.modMeet n f).teams = s.teams := rfl
@[simp] theorem State.modMeet_deeds (s : State) (n : Nat) (f : Meet → Meet) : (s.modMeet n f).deeds = s.deeds := rfl
@[simp] theorem State.modMeet_contexts (s : State) (n : Nat) (f : Meet → Meet) : (s.modMeet n f).contexts = s.contexts := rfl
@[simp] theorem State.modMeet_dram (s : State) (n : Nat) (f : Meet → Meet) : (s.modMeet n f).dram = s.dram := rfl
@[simp] theorem State.modMeet_synd (s : State) (n : Nat) (f : Meet → Meet) : (s.modMeet n f).synd = s.synd := rfl
@[simp] theorem State.modMeet_scrubs (s : State) (n : Nat) (f : Meet → Meet) : (s.modMeet n f).scrubs = s.scrubs := rfl
@[simp] theorem State.modMeet_reqs (s : State) (n : Nat) (f : Meet → Meet) : (s.modMeet n f).reqs = s.reqs := rfl
@[simp] theorem State.modMeet_lines (s : State) (n : Nat) (f : Meet → Meet) : (s.modMeet n f).lines = s.lines := rfl
@[simp] theorem State.modMeet_coreUse (s : State) (n : Nat) (f : Meet → Meet) : (s.modMeet n f).coreUse = s.coreUse := rfl
@[simp] theorem State.modMeet_shUse (s : State) (n : Nat) (f : Meet → Meet) : (s.modMeet n f).shUse = s.shUse := rfl
@[simp] theorem State.modMeet_tlb (s : State) (n : Nat) (f : Meet → Meet) : (s.modMeet n f).tlb = s.tlb := rfl
@[simp] theorem State.modMeet_faults (s : State) (n : Nat) (f : Meet → Meet) : (s.modMeet n f).faults = s.faults := rfl
@[simp] theorem State.modMeet_verdicts (s : State) (n : Nat) (f : Meet → Meet) : (s.modMeet n f).verdicts = s.verdicts := rfl
@[simp] theorem State.modMeet_sq (s : State) (n : Nat) (f : Meet → Meet) : (s.modMeet n f).sq = s.sq := rfl
@[simp] theorem State.modMeet_early (s : State) (n : Nat) (f : Meet → Meet) : (s.modMeet n f).early = s.early := rfl
@[simp] theorem State.modMeet_oplog (s : State) (n : Nat) (f : Meet → Meet) : (s.modMeet n f).oplog = s.oplog := rfl
@[simp] theorem State.modMeet_psets (s : State) (n : Nat) (f : Meet → Meet) : (s.modMeet n f).psets = s.psets := rfl
@[simp] theorem State.modMeet_spad (s : State) (n : Nat) (f : Meet → Meet) : (s.modMeet n f).spad = s.spad := rfl
@[simp] theorem State.modMeet_padw (s : State) (n : Nat) (f : Meet → Meet) : (s.modMeet n f).padw = s.padw := rfl
@[simp] theorem State.modMeet_scale (s : State) (n : Nat) (f : Meet → Meet) : (s.modMeet n f).scale = s.scale := rfl
@[simp] theorem State.modMeet_pchOff (s : State) (n : Nat) (f : Meet → Meet) : (s.modMeet n f).pchOff = s.pchOff := rfl
@[simp] theorem State.modMeet_life (s : State) (n : Nat) (f : Meet → Meet) : (s.modMeet n f).life = s.life := rfl
@[simp] theorem State.modMeet_launches (s : State) (n : Nat) (f : Meet → Meet) : (s.modMeet n f).launches = s.launches := rfl
@[simp] theorem State.modMeet_graphs (s : State) (n : Nat) (f : Meet → Meet) : (s.modMeet n f).graphs = s.graphs := rfl
@[simp] theorem State.modMeet_cmds (s : State) (n : Nat) (f : Meet → Meet) : (s.modMeet n f).cmds = s.cmds := rfl
@[simp] theorem State.modMeet_rcache (s : State) (n : Nat) (f : Meet → Meet) : (s.modMeet n f).rcache = s.rcache := rfl
@[simp] theorem State.modMeet_qmeets (s : State) (n : Nat) (f : Meet → Meet) : (s.modMeet n f).qmeets = s.qmeets := rfl
@[simp] theorem State.modMeet_refused (s : State) (n : Nat) (f : Meet → Meet) : (s.modMeet n f).refused = s.refused := rfl
@[simp] theorem State.modMeet_serials (s : State) (n : Nat) (f : Meet → Meet) : (s.modMeet n f).serials = s.serials := rfl
@[simp] theorem State.modMeet_pchs (s : State) (n : Nat) (f : Meet → Meet) : (s.modMeet n f).pchs = s.pchs := rfl
@[simp] theorem State.modMeet_stks (s : State) (n : Nat) (f : Meet → Meet) : (s.modMeet n f).stks = s.stks := rfl
@[simp] theorem State.modMeet_frames (s : State) (n : Nat) (f : Meet → Meet) : (s.modMeet n f).frames = s.frames := rfl
@[simp] theorem State.modMeet_tiles (s : State) (n : Nat) (f : Meet → Meet) : (s.modMeet n f).tiles = s.tiles := rfl
@[simp] theorem State.modMeet_tenants (s : State) (n : Nat) (f : Meet → Meet) : (s.modMeet n f).tenants = s.tenants := rfl
@[simp] theorem State.modMeet_fab (s : State) (n : Nat) (f : Meet → Meet) : (s.modMeet n f).fab = s.fab := rfl
@[simp] theorem State.modMeet_key (s : State) (n : Nat) (f : Meet → Meet) : (s.modMeet n f).key = s.key := rfl
@[simp] theorem State.modMeet_power (s : State) (n : Nat) (f : Meet → Meet) : (s.modMeet n f).power = s.power := rfl
@[simp] theorem State.modMeet_units (s : State) (n : Nat) (f : Meet → Meet) : (s.modMeet n f).units = s.units := rfl
@[simp] theorem State.modMeet_images (s : State) (n : Nat) (f : Meet → Meet) : (s.modMeet n f).images = s.images := rfl
@[simp] theorem State.modMeet_cycle (s : State) (n : Nat) (f : Meet → Meet) : (s.modMeet n f).cycle = s.cycle := rfl
@[simp] theorem State.modMeet_freeCtr (s : State) (n : Nat) (f : Meet → Meet) : (s.modMeet n f).freeCtr = s.freeCtr := rfl
@[simp] theorem State.modMeet_tick (s : State) (n : Nat) (f : Meet → Meet) : (s.modMeet n f).tick = s.tick := rfl
@[simp] theorem State.modMeet_agenda (s : State) (n : Nat) (f : Meet → Meet) : (s.modMeet n f).agenda = s.agenda := rfl
@[simp] theorem State.modMeet_cur (s : State) (n : Nat) (f : Meet → Meet) : (s.modMeet n f).cur = s.cur := rfl
@[simp] theorem State.modMeet_curLane (s : State) (n : Nat) (f : Meet → Meet) : (s.modMeet n f).curLane = s.curLane := rfl

/-! ### State.modCmd -/

@[simp] theorem State.modCmd_groups (s : State) (n : Nat) (f : Cmd → Cmd) : (s.modCmd n f).groups = s.groups := rfl
@[simp] theorem State.modCmd_teams (s : State) (n : Nat) (f : Cmd → Cmd) : (s.modCmd n f).teams = s.teams := rfl
@[simp] theorem State.modCmd_deeds (s : State) (n : Nat) (f : Cmd → Cmd) : (s.modCmd n f).deeds = s.deeds := rfl
@[simp] theorem State.modCmd_contexts (s : State) (n : Nat) (f : Cmd → Cmd) : (s.modCmd n f).contexts = s.contexts := rfl
@[simp] theorem State.modCmd_dram (s : State) (n : Nat) (f : Cmd → Cmd) : (s.modCmd n f).dram = s.dram := rfl
@[simp] theorem State.modCmd_synd (s : State) (n : Nat) (f : Cmd → Cmd) : (s.modCmd n f).synd = s.synd := rfl
@[simp] theorem State.modCmd_scrubs (s : State) (n : Nat) (f : Cmd → Cmd) : (s.modCmd n f).scrubs = s.scrubs := rfl
@[simp] theorem State.modCmd_reqs (s : State) (n : Nat) (f : Cmd → Cmd) : (s.modCmd n f).reqs = s.reqs := rfl
@[simp] theorem State.modCmd_lines (s : State) (n : Nat) (f : Cmd → Cmd) : (s.modCmd n f).lines = s.lines := rfl
@[simp] theorem State.modCmd_coreUse (s : State) (n : Nat) (f : Cmd → Cmd) : (s.modCmd n f).coreUse = s.coreUse := rfl
@[simp] theorem State.modCmd_shUse (s : State) (n : Nat) (f : Cmd → Cmd) : (s.modCmd n f).shUse = s.shUse := rfl
@[simp] theorem State.modCmd_tlb (s : State) (n : Nat) (f : Cmd → Cmd) : (s.modCmd n f).tlb = s.tlb := rfl
@[simp] theorem State.modCmd_faults (s : State) (n : Nat) (f : Cmd → Cmd) : (s.modCmd n f).faults = s.faults := rfl
@[simp] theorem State.modCmd_verdicts (s : State) (n : Nat) (f : Cmd → Cmd) : (s.modCmd n f).verdicts = s.verdicts := rfl
@[simp] theorem State.modCmd_sq (s : State) (n : Nat) (f : Cmd → Cmd) : (s.modCmd n f).sq = s.sq := rfl
@[simp] theorem State.modCmd_early (s : State) (n : Nat) (f : Cmd → Cmd) : (s.modCmd n f).early = s.early := rfl
@[simp] theorem State.modCmd_oplog (s : State) (n : Nat) (f : Cmd → Cmd) : (s.modCmd n f).oplog = s.oplog := rfl
@[simp] theorem State.modCmd_psets (s : State) (n : Nat) (f : Cmd → Cmd) : (s.modCmd n f).psets = s.psets := rfl
@[simp] theorem State.modCmd_spad (s : State) (n : Nat) (f : Cmd → Cmd) : (s.modCmd n f).spad = s.spad := rfl
@[simp] theorem State.modCmd_padw (s : State) (n : Nat) (f : Cmd → Cmd) : (s.modCmd n f).padw = s.padw := rfl
@[simp] theorem State.modCmd_scale (s : State) (n : Nat) (f : Cmd → Cmd) : (s.modCmd n f).scale = s.scale := rfl
@[simp] theorem State.modCmd_pchOff (s : State) (n : Nat) (f : Cmd → Cmd) : (s.modCmd n f).pchOff = s.pchOff := rfl
@[simp] theorem State.modCmd_life (s : State) (n : Nat) (f : Cmd → Cmd) : (s.modCmd n f).life = s.life := rfl
@[simp] theorem State.modCmd_launches (s : State) (n : Nat) (f : Cmd → Cmd) : (s.modCmd n f).launches = s.launches := rfl
@[simp] theorem State.modCmd_graphs (s : State) (n : Nat) (f : Cmd → Cmd) : (s.modCmd n f).graphs = s.graphs := rfl
@[simp] theorem State.modCmd_rcache (s : State) (n : Nat) (f : Cmd → Cmd) : (s.modCmd n f).rcache = s.rcache := rfl
@[simp] theorem State.modCmd_meets (s : State) (n : Nat) (f : Cmd → Cmd) : (s.modCmd n f).meets = s.meets := rfl
@[simp] theorem State.modCmd_qmeets (s : State) (n : Nat) (f : Cmd → Cmd) : (s.modCmd n f).qmeets = s.qmeets := rfl
@[simp] theorem State.modCmd_refused (s : State) (n : Nat) (f : Cmd → Cmd) : (s.modCmd n f).refused = s.refused := rfl
@[simp] theorem State.modCmd_serials (s : State) (n : Nat) (f : Cmd → Cmd) : (s.modCmd n f).serials = s.serials := rfl
@[simp] theorem State.modCmd_pchs (s : State) (n : Nat) (f : Cmd → Cmd) : (s.modCmd n f).pchs = s.pchs := rfl
@[simp] theorem State.modCmd_stks (s : State) (n : Nat) (f : Cmd → Cmd) : (s.modCmd n f).stks = s.stks := rfl
@[simp] theorem State.modCmd_frames (s : State) (n : Nat) (f : Cmd → Cmd) : (s.modCmd n f).frames = s.frames := rfl
@[simp] theorem State.modCmd_tiles (s : State) (n : Nat) (f : Cmd → Cmd) : (s.modCmd n f).tiles = s.tiles := rfl
@[simp] theorem State.modCmd_tenants (s : State) (n : Nat) (f : Cmd → Cmd) : (s.modCmd n f).tenants = s.tenants := rfl
@[simp] theorem State.modCmd_fab (s : State) (n : Nat) (f : Cmd → Cmd) : (s.modCmd n f).fab = s.fab := rfl
@[simp] theorem State.modCmd_key (s : State) (n : Nat) (f : Cmd → Cmd) : (s.modCmd n f).key = s.key := rfl
@[simp] theorem State.modCmd_power (s : State) (n : Nat) (f : Cmd → Cmd) : (s.modCmd n f).power = s.power := rfl
@[simp] theorem State.modCmd_units (s : State) (n : Nat) (f : Cmd → Cmd) : (s.modCmd n f).units = s.units := rfl
@[simp] theorem State.modCmd_images (s : State) (n : Nat) (f : Cmd → Cmd) : (s.modCmd n f).images = s.images := rfl
@[simp] theorem State.modCmd_cycle (s : State) (n : Nat) (f : Cmd → Cmd) : (s.modCmd n f).cycle = s.cycle := rfl
@[simp] theorem State.modCmd_freeCtr (s : State) (n : Nat) (f : Cmd → Cmd) : (s.modCmd n f).freeCtr = s.freeCtr := rfl
@[simp] theorem State.modCmd_tick (s : State) (n : Nat) (f : Cmd → Cmd) : (s.modCmd n f).tick = s.tick := rfl
@[simp] theorem State.modCmd_agenda (s : State) (n : Nat) (f : Cmd → Cmd) : (s.modCmd n f).agenda = s.agenda := rfl
@[simp] theorem State.modCmd_cur (s : State) (n : Nat) (f : Cmd → Cmd) : (s.modCmd n f).cur = s.cur := rfl
@[simp] theorem State.modCmd_curLane (s : State) (n : Nat) (f : Cmd → Cmd) : (s.modCmd n f).curLane = s.curLane := rfl

/-! ### State.useFree -/

@[simp] theorem State.useFree_groups (s : State) (n : Nat) : (s.useFree n).groups = s.groups := rfl
@[simp] theorem State.useFree_teams (s : State) (n : Nat) : (s.useFree n).teams = s.teams := rfl
@[simp] theorem State.useFree_deeds (s : State) (n : Nat) : (s.useFree n).deeds = s.deeds := rfl
@[simp] theorem State.useFree_contexts (s : State) (n : Nat) : (s.useFree n).contexts = s.contexts := rfl
@[simp] theorem State.useFree_dram (s : State) (n : Nat) : (s.useFree n).dram = s.dram := rfl
@[simp] theorem State.useFree_synd (s : State) (n : Nat) : (s.useFree n).synd = s.synd := rfl
@[simp] theorem State.useFree_scrubs (s : State) (n : Nat) : (s.useFree n).scrubs = s.scrubs := rfl
@[simp] theorem State.useFree_reqs (s : State) (n : Nat) : (s.useFree n).reqs = s.reqs := rfl
@[simp] theorem State.useFree_lines (s : State) (n : Nat) : (s.useFree n).lines = s.lines := rfl
@[simp] theorem State.useFree_coreUse (s : State) (n : Nat) : (s.useFree n).coreUse = s.coreUse := rfl
@[simp] theorem State.useFree_shUse (s : State) (n : Nat) : (s.useFree n).shUse = s.shUse := rfl
@[simp] theorem State.useFree_tlb (s : State) (n : Nat) : (s.useFree n).tlb = s.tlb := rfl
@[simp] theorem State.useFree_faults (s : State) (n : Nat) : (s.useFree n).faults = s.faults := rfl
@[simp] theorem State.useFree_verdicts (s : State) (n : Nat) : (s.useFree n).verdicts = s.verdicts := rfl
@[simp] theorem State.useFree_sq (s : State) (n : Nat) : (s.useFree n).sq = s.sq := rfl
@[simp] theorem State.useFree_early (s : State) (n : Nat) : (s.useFree n).early = s.early := rfl
@[simp] theorem State.useFree_oplog (s : State) (n : Nat) : (s.useFree n).oplog = s.oplog := rfl
@[simp] theorem State.useFree_psets (s : State) (n : Nat) : (s.useFree n).psets = s.psets := rfl
@[simp] theorem State.useFree_spad (s : State) (n : Nat) : (s.useFree n).spad = s.spad := rfl
@[simp] theorem State.useFree_padw (s : State) (n : Nat) : (s.useFree n).padw = s.padw := rfl
@[simp] theorem State.useFree_scale (s : State) (n : Nat) : (s.useFree n).scale = s.scale := rfl
@[simp] theorem State.useFree_pchOff (s : State) (n : Nat) : (s.useFree n).pchOff = s.pchOff := rfl
@[simp] theorem State.useFree_life (s : State) (n : Nat) : (s.useFree n).life = s.life := rfl
@[simp] theorem State.useFree_launches (s : State) (n : Nat) : (s.useFree n).launches = s.launches := rfl
@[simp] theorem State.useFree_graphs (s : State) (n : Nat) : (s.useFree n).graphs = s.graphs := rfl
@[simp] theorem State.useFree_cmds (s : State) (n : Nat) : (s.useFree n).cmds = s.cmds := rfl
@[simp] theorem State.useFree_rcache (s : State) (n : Nat) : (s.useFree n).rcache = s.rcache := rfl
@[simp] theorem State.useFree_meets (s : State) (n : Nat) : (s.useFree n).meets = s.meets := rfl
@[simp] theorem State.useFree_qmeets (s : State) (n : Nat) : (s.useFree n).qmeets = s.qmeets := rfl
@[simp] theorem State.useFree_refused (s : State) (n : Nat) : (s.useFree n).refused = s.refused := rfl
@[simp] theorem State.useFree_serials (s : State) (n : Nat) : (s.useFree n).serials = s.serials := rfl
@[simp] theorem State.useFree_pchs (s : State) (n : Nat) : (s.useFree n).pchs = s.pchs := rfl
@[simp] theorem State.useFree_stks (s : State) (n : Nat) : (s.useFree n).stks = s.stks := rfl
@[simp] theorem State.useFree_frames (s : State) (n : Nat) : (s.useFree n).frames = s.frames := rfl
@[simp] theorem State.useFree_tiles (s : State) (n : Nat) : (s.useFree n).tiles = s.tiles := rfl
@[simp] theorem State.useFree_tenants (s : State) (n : Nat) : (s.useFree n).tenants = s.tenants := rfl
@[simp] theorem State.useFree_fab (s : State) (n : Nat) : (s.useFree n).fab = s.fab := rfl
@[simp] theorem State.useFree_key (s : State) (n : Nat) : (s.useFree n).key = s.key := rfl
@[simp] theorem State.useFree_power (s : State) (n : Nat) : (s.useFree n).power = s.power := rfl
@[simp] theorem State.useFree_units (s : State) (n : Nat) : (s.useFree n).units = s.units := rfl
@[simp] theorem State.useFree_images (s : State) (n : Nat) : (s.useFree n).images = s.images := rfl
@[simp] theorem State.useFree_cycle (s : State) (n : Nat) : (s.useFree n).cycle = s.cycle := rfl
@[simp] theorem State.useFree_tick (s : State) (n : Nat) : (s.useFree n).tick = s.tick := rfl
@[simp] theorem State.useFree_agenda (s : State) (n : Nat) : (s.useFree n).agenda = s.agenda := rfl
@[simp] theorem State.useFree_cur (s : State) (n : Nat) : (s.useFree n).cur = s.cur := rfl
@[simp] theorem State.useFree_curLane (s : State) (n : Nat) : (s.useFree n).curLane = s.curLane := rfl

/-! ### State.count -/

@[simp] theorem State.count_groups (s : State) (k : LifeKey) (n : Nat) : (s.count k n).groups = s.groups := rfl
@[simp] theorem State.count_teams (s : State) (k : LifeKey) (n : Nat) : (s.count k n).teams = s.teams := rfl
@[simp] theorem State.count_deeds (s : State) (k : LifeKey) (n : Nat) : (s.count k n).deeds = s.deeds := rfl
@[simp] theorem State.count_contexts (s : State) (k : LifeKey) (n : Nat) : (s.count k n).contexts = s.contexts := rfl
@[simp] theorem State.count_dram (s : State) (k : LifeKey) (n : Nat) : (s.count k n).dram = s.dram := rfl
@[simp] theorem State.count_synd (s : State) (k : LifeKey) (n : Nat) : (s.count k n).synd = s.synd := rfl
@[simp] theorem State.count_scrubs (s : State) (k : LifeKey) (n : Nat) : (s.count k n).scrubs = s.scrubs := rfl
@[simp] theorem State.count_reqs (s : State) (k : LifeKey) (n : Nat) : (s.count k n).reqs = s.reqs := rfl
@[simp] theorem State.count_lines (s : State) (k : LifeKey) (n : Nat) : (s.count k n).lines = s.lines := rfl
@[simp] theorem State.count_coreUse (s : State) (k : LifeKey) (n : Nat) : (s.count k n).coreUse = s.coreUse := rfl
@[simp] theorem State.count_shUse (s : State) (k : LifeKey) (n : Nat) : (s.count k n).shUse = s.shUse := rfl
@[simp] theorem State.count_tlb (s : State) (k : LifeKey) (n : Nat) : (s.count k n).tlb = s.tlb := rfl
@[simp] theorem State.count_faults (s : State) (k : LifeKey) (n : Nat) : (s.count k n).faults = s.faults := rfl
@[simp] theorem State.count_verdicts (s : State) (k : LifeKey) (n : Nat) : (s.count k n).verdicts = s.verdicts := rfl
@[simp] theorem State.count_sq (s : State) (k : LifeKey) (n : Nat) : (s.count k n).sq = s.sq := rfl
@[simp] theorem State.count_early (s : State) (k : LifeKey) (n : Nat) : (s.count k n).early = s.early := rfl
@[simp] theorem State.count_oplog (s : State) (k : LifeKey) (n : Nat) : (s.count k n).oplog = s.oplog := rfl
@[simp] theorem State.count_psets (s : State) (k : LifeKey) (n : Nat) : (s.count k n).psets = s.psets := rfl
@[simp] theorem State.count_spad (s : State) (k : LifeKey) (n : Nat) : (s.count k n).spad = s.spad := rfl
@[simp] theorem State.count_padw (s : State) (k : LifeKey) (n : Nat) : (s.count k n).padw = s.padw := rfl
@[simp] theorem State.count_scale (s : State) (k : LifeKey) (n : Nat) : (s.count k n).scale = s.scale := rfl
@[simp] theorem State.count_pchOff (s : State) (k : LifeKey) (n : Nat) : (s.count k n).pchOff = s.pchOff := rfl
@[simp] theorem State.count_launches (s : State) (k : LifeKey) (n : Nat) : (s.count k n).launches = s.launches := rfl
@[simp] theorem State.count_graphs (s : State) (k : LifeKey) (n : Nat) : (s.count k n).graphs = s.graphs := rfl
@[simp] theorem State.count_cmds (s : State) (k : LifeKey) (n : Nat) : (s.count k n).cmds = s.cmds := rfl
@[simp] theorem State.count_rcache (s : State) (k : LifeKey) (n : Nat) : (s.count k n).rcache = s.rcache := rfl
@[simp] theorem State.count_meets (s : State) (k : LifeKey) (n : Nat) : (s.count k n).meets = s.meets := rfl
@[simp] theorem State.count_qmeets (s : State) (k : LifeKey) (n : Nat) : (s.count k n).qmeets = s.qmeets := rfl
@[simp] theorem State.count_refused (s : State) (k : LifeKey) (n : Nat) : (s.count k n).refused = s.refused := rfl
@[simp] theorem State.count_serials (s : State) (k : LifeKey) (n : Nat) : (s.count k n).serials = s.serials := rfl
@[simp] theorem State.count_pchs (s : State) (k : LifeKey) (n : Nat) : (s.count k n).pchs = s.pchs := rfl
@[simp] theorem State.count_stks (s : State) (k : LifeKey) (n : Nat) : (s.count k n).stks = s.stks := rfl
@[simp] theorem State.count_frames (s : State) (k : LifeKey) (n : Nat) : (s.count k n).frames = s.frames := rfl
@[simp] theorem State.count_tiles (s : State) (k : LifeKey) (n : Nat) : (s.count k n).tiles = s.tiles := rfl
@[simp] theorem State.count_tenants (s : State) (k : LifeKey) (n : Nat) : (s.count k n).tenants = s.tenants := rfl
@[simp] theorem State.count_fab (s : State) (k : LifeKey) (n : Nat) : (s.count k n).fab = s.fab := rfl
@[simp] theorem State.count_key (s : State) (k : LifeKey) (n : Nat) : (s.count k n).key = s.key := rfl
@[simp] theorem State.count_power (s : State) (k : LifeKey) (n : Nat) : (s.count k n).power = s.power := rfl
@[simp] theorem State.count_units (s : State) (k : LifeKey) (n : Nat) : (s.count k n).units = s.units := rfl
@[simp] theorem State.count_images (s : State) (k : LifeKey) (n : Nat) : (s.count k n).images = s.images := rfl
@[simp] theorem State.count_cycle (s : State) (k : LifeKey) (n : Nat) : (s.count k n).cycle = s.cycle := rfl
@[simp] theorem State.count_freeCtr (s : State) (k : LifeKey) (n : Nat) : (s.count k n).freeCtr = s.freeCtr := rfl
@[simp] theorem State.count_tick (s : State) (k : LifeKey) (n : Nat) : (s.count k n).tick = s.tick := rfl
@[simp] theorem State.count_agenda (s : State) (k : LifeKey) (n : Nat) : (s.count k n).agenda = s.agenda := rfl
@[simp] theorem State.count_cur (s : State) (k : LifeKey) (n : Nat) : (s.count k n).cur = s.cur := rfl
@[simp] theorem State.count_curLane (s : State) (k : LifeKey) (n : Nat) : (s.count k n).curLane = s.curLane := rfl

/-! ### clearParty -/

@[simp] theorem clearParty_groups (s : State) (p : Party) (pc : W64) : (clearParty s p pc).groups = s.groups := rfl
@[simp] theorem clearParty_teams (s : State) (p : Party) (pc : W64) : (clearParty s p pc).teams = s.teams := rfl
@[simp] theorem clearParty_deeds (s : State) (p : Party) (pc : W64) : (clearParty s p pc).deeds = s.deeds := rfl
@[simp] theorem clearParty_contexts (s : State) (p : Party) (pc : W64) : (clearParty s p pc).contexts = s.contexts := rfl
@[simp] theorem clearParty_dram (s : State) (p : Party) (pc : W64) : (clearParty s p pc).dram = s.dram := rfl
@[simp] theorem clearParty_synd (s : State) (p : Party) (pc : W64) : (clearParty s p pc).synd = s.synd := rfl
@[simp] theorem clearParty_scrubs (s : State) (p : Party) (pc : W64) : (clearParty s p pc).scrubs = s.scrubs := rfl
@[simp] theorem clearParty_reqs (s : State) (p : Party) (pc : W64) : (clearParty s p pc).reqs = s.reqs := rfl
@[simp] theorem clearParty_lines (s : State) (p : Party) (pc : W64) : (clearParty s p pc).lines = s.lines := rfl
@[simp] theorem clearParty_coreUse (s : State) (p : Party) (pc : W64) : (clearParty s p pc).coreUse = s.coreUse := rfl
@[simp] theorem clearParty_shUse (s : State) (p : Party) (pc : W64) : (clearParty s p pc).shUse = s.shUse := rfl
@[simp] theorem clearParty_tlb (s : State) (p : Party) (pc : W64) : (clearParty s p pc).tlb = s.tlb := rfl
@[simp] theorem clearParty_faults (s : State) (p : Party) (pc : W64) : (clearParty s p pc).faults = s.faults := rfl
@[simp] theorem clearParty_sq (s : State) (p : Party) (pc : W64) : (clearParty s p pc).sq = s.sq := rfl
@[simp] theorem clearParty_early (s : State) (p : Party) (pc : W64) : (clearParty s p pc).early = s.early := rfl
@[simp] theorem clearParty_spad (s : State) (p : Party) (pc : W64) : (clearParty s p pc).spad = s.spad := rfl
@[simp] theorem clearParty_padw (s : State) (p : Party) (pc : W64) : (clearParty s p pc).padw = s.padw := rfl
@[simp] theorem clearParty_scale (s : State) (p : Party) (pc : W64) : (clearParty s p pc).scale = s.scale := rfl
@[simp] theorem clearParty_pchOff (s : State) (p : Party) (pc : W64) : (clearParty s p pc).pchOff = s.pchOff := rfl
@[simp] theorem clearParty_life (s : State) (p : Party) (pc : W64) : (clearParty s p pc).life = s.life := rfl
@[simp] theorem clearParty_launches (s : State) (p : Party) (pc : W64) : (clearParty s p pc).launches = s.launches := rfl
@[simp] theorem clearParty_graphs (s : State) (p : Party) (pc : W64) : (clearParty s p pc).graphs = s.graphs := rfl
@[simp] theorem clearParty_cmds (s : State) (p : Party) (pc : W64) : (clearParty s p pc).cmds = s.cmds := rfl
@[simp] theorem clearParty_rcache (s : State) (p : Party) (pc : W64) : (clearParty s p pc).rcache = s.rcache := rfl
@[simp] theorem clearParty_meets (s : State) (p : Party) (pc : W64) : (clearParty s p pc).meets = s.meets := rfl
@[simp] theorem clearParty_qmeets (s : State) (p : Party) (pc : W64) : (clearParty s p pc).qmeets = s.qmeets := rfl
@[simp] theorem clearParty_refused (s : State) (p : Party) (pc : W64) : (clearParty s p pc).refused = s.refused := rfl
@[simp] theorem clearParty_serials (s : State) (p : Party) (pc : W64) : (clearParty s p pc).serials = s.serials := rfl
@[simp] theorem clearParty_pchs (s : State) (p : Party) (pc : W64) : (clearParty s p pc).pchs = s.pchs := rfl
@[simp] theorem clearParty_stks (s : State) (p : Party) (pc : W64) : (clearParty s p pc).stks = s.stks := rfl
@[simp] theorem clearParty_frames (s : State) (p : Party) (pc : W64) : (clearParty s p pc).frames = s.frames := rfl
@[simp] theorem clearParty_tiles (s : State) (p : Party) (pc : W64) : (clearParty s p pc).tiles = s.tiles := rfl
@[simp] theorem clearParty_tenants (s : State) (p : Party) (pc : W64) : (clearParty s p pc).tenants = s.tenants := rfl
@[simp] theorem clearParty_key (s : State) (p : Party) (pc : W64) : (clearParty s p pc).key = s.key := rfl
@[simp] theorem clearParty_power (s : State) (p : Party) (pc : W64) : (clearParty s p pc).power = s.power := rfl
@[simp] theorem clearParty_units (s : State) (p : Party) (pc : W64) : (clearParty s p pc).units = s.units := rfl
@[simp] theorem clearParty_images (s : State) (p : Party) (pc : W64) : (clearParty s p pc).images = s.images := rfl
@[simp] theorem clearParty_cycle (s : State) (p : Party) (pc : W64) : (clearParty s p pc).cycle = s.cycle := rfl
@[simp] theorem clearParty_freeCtr (s : State) (p : Party) (pc : W64) : (clearParty s p pc).freeCtr = s.freeCtr := rfl
@[simp] theorem clearParty_tick (s : State) (p : Party) (pc : W64) : (clearParty s p pc).tick = s.tick := rfl
@[simp] theorem clearParty_agenda (s : State) (p : Party) (pc : W64) : (clearParty s p pc).agenda = s.agenda := rfl
@[simp] theorem clearParty_cur (s : State) (p : Party) (pc : W64) : (clearParty s p pc).cur = s.cur := rfl
@[simp] theorem clearParty_curLane (s : State) (p : Party) (pc : W64) : (clearParty s p pc).curLane = s.curLane := rfl

/-! ### dramWrite -/

@[simp] theorem dramWrite_groups (s : State) (pa : Nat) (x : W32) : (dramWrite s pa x).groups = s.groups := rfl
@[simp] theorem dramWrite_teams (s : State) (pa : Nat) (x : W32) : (dramWrite s pa x).teams = s.teams := rfl
@[simp] theorem dramWrite_deeds (s : State) (pa : Nat) (x : W32) : (dramWrite s pa x).deeds = s.deeds := rfl
@[simp] theorem dramWrite_contexts (s : State) (pa : Nat) (x : W32) : (dramWrite s pa x).contexts = s.contexts := rfl
@[simp] theorem dramWrite_reqs (s : State) (pa : Nat) (x : W32) : (dramWrite s pa x).reqs = s.reqs := rfl
@[simp] theorem dramWrite_lines (s : State) (pa : Nat) (x : W32) : (dramWrite s pa x).lines = s.lines := rfl
@[simp] theorem dramWrite_coreUse (s : State) (pa : Nat) (x : W32) : (dramWrite s pa x).coreUse = s.coreUse := rfl
@[simp] theorem dramWrite_shUse (s : State) (pa : Nat) (x : W32) : (dramWrite s pa x).shUse = s.shUse := rfl
@[simp] theorem dramWrite_tlb (s : State) (pa : Nat) (x : W32) : (dramWrite s pa x).tlb = s.tlb := rfl
@[simp] theorem dramWrite_faults (s : State) (pa : Nat) (x : W32) : (dramWrite s pa x).faults = s.faults := rfl
@[simp] theorem dramWrite_verdicts (s : State) (pa : Nat) (x : W32) : (dramWrite s pa x).verdicts = s.verdicts := rfl
@[simp] theorem dramWrite_sq (s : State) (pa : Nat) (x : W32) : (dramWrite s pa x).sq = s.sq := rfl
@[simp] theorem dramWrite_early (s : State) (pa : Nat) (x : W32) : (dramWrite s pa x).early = s.early := rfl
@[simp] theorem dramWrite_oplog (s : State) (pa : Nat) (x : W32) : (dramWrite s pa x).oplog = s.oplog := rfl
@[simp] theorem dramWrite_psets (s : State) (pa : Nat) (x : W32) : (dramWrite s pa x).psets = s.psets := rfl
@[simp] theorem dramWrite_spad (s : State) (pa : Nat) (x : W32) : (dramWrite s pa x).spad = s.spad := rfl
@[simp] theorem dramWrite_padw (s : State) (pa : Nat) (x : W32) : (dramWrite s pa x).padw = s.padw := rfl
@[simp] theorem dramWrite_scale (s : State) (pa : Nat) (x : W32) : (dramWrite s pa x).scale = s.scale := rfl
@[simp] theorem dramWrite_pchOff (s : State) (pa : Nat) (x : W32) : (dramWrite s pa x).pchOff = s.pchOff := rfl
@[simp] theorem dramWrite_life (s : State) (pa : Nat) (x : W32) : (dramWrite s pa x).life = s.life := rfl
@[simp] theorem dramWrite_launches (s : State) (pa : Nat) (x : W32) : (dramWrite s pa x).launches = s.launches := rfl
@[simp] theorem dramWrite_graphs (s : State) (pa : Nat) (x : W32) : (dramWrite s pa x).graphs = s.graphs := rfl
@[simp] theorem dramWrite_cmds (s : State) (pa : Nat) (x : W32) : (dramWrite s pa x).cmds = s.cmds := rfl
@[simp] theorem dramWrite_rcache (s : State) (pa : Nat) (x : W32) : (dramWrite s pa x).rcache = s.rcache := rfl
@[simp] theorem dramWrite_meets (s : State) (pa : Nat) (x : W32) : (dramWrite s pa x).meets = s.meets := rfl
@[simp] theorem dramWrite_qmeets (s : State) (pa : Nat) (x : W32) : (dramWrite s pa x).qmeets = s.qmeets := rfl
@[simp] theorem dramWrite_refused (s : State) (pa : Nat) (x : W32) : (dramWrite s pa x).refused = s.refused := rfl
@[simp] theorem dramWrite_serials (s : State) (pa : Nat) (x : W32) : (dramWrite s pa x).serials = s.serials := rfl
@[simp] theorem dramWrite_pchs (s : State) (pa : Nat) (x : W32) : (dramWrite s pa x).pchs = s.pchs := rfl
@[simp] theorem dramWrite_stks (s : State) (pa : Nat) (x : W32) : (dramWrite s pa x).stks = s.stks := rfl
@[simp] theorem dramWrite_frames (s : State) (pa : Nat) (x : W32) : (dramWrite s pa x).frames = s.frames := rfl
@[simp] theorem dramWrite_tiles (s : State) (pa : Nat) (x : W32) : (dramWrite s pa x).tiles = s.tiles := rfl
@[simp] theorem dramWrite_tenants (s : State) (pa : Nat) (x : W32) : (dramWrite s pa x).tenants = s.tenants := rfl
@[simp] theorem dramWrite_fab (s : State) (pa : Nat) (x : W32) : (dramWrite s pa x).fab = s.fab := rfl
@[simp] theorem dramWrite_key (s : State) (pa : Nat) (x : W32) : (dramWrite s pa x).key = s.key := rfl
@[simp] theorem dramWrite_power (s : State) (pa : Nat) (x : W32) : (dramWrite s pa x).power = s.power := rfl
@[simp] theorem dramWrite_units (s : State) (pa : Nat) (x : W32) : (dramWrite s pa x).units = s.units := rfl
@[simp] theorem dramWrite_images (s : State) (pa : Nat) (x : W32) : (dramWrite s pa x).images = s.images := rfl
@[simp] theorem dramWrite_cycle (s : State) (pa : Nat) (x : W32) : (dramWrite s pa x).cycle = s.cycle := rfl
@[simp] theorem dramWrite_freeCtr (s : State) (pa : Nat) (x : W32) : (dramWrite s pa x).freeCtr = s.freeCtr := rfl
@[simp] theorem dramWrite_tick (s : State) (pa : Nat) (x : W32) : (dramWrite s pa x).tick = s.tick := rfl
@[simp] theorem dramWrite_agenda (s : State) (pa : Nat) (x : W32) : (dramWrite s pa x).agenda = s.agenda := rfl
@[simp] theorem dramWrite_cur (s : State) (pa : Nat) (x : W32) : (dramWrite s pa x).cur = s.cur := rfl
@[simp] theorem dramWrite_curLane (s : State) (pa : Nat) (x : W32) : (dramWrite s pa x).curLane = s.curLane := rfl

/-! ### dramPoison -/

@[simp] theorem dramPoison_groups (s : State) (pa : Nat) : (dramPoison s pa).groups = s.groups := rfl
@[simp] theorem dramPoison_teams (s : State) (pa : Nat) : (dramPoison s pa).teams = s.teams := rfl
@[simp] theorem dramPoison_deeds (s : State) (pa : Nat) : (dramPoison s pa).deeds = s.deeds := rfl
@[simp] theorem dramPoison_contexts (s : State) (pa : Nat) : (dramPoison s pa).contexts = s.contexts := rfl
@[simp] theorem dramPoison_reqs (s : State) (pa : Nat) : (dramPoison s pa).reqs = s.reqs := rfl
@[simp] theorem dramPoison_lines (s : State) (pa : Nat) : (dramPoison s pa).lines = s.lines := rfl
@[simp] theorem dramPoison_coreUse (s : State) (pa : Nat) : (dramPoison s pa).coreUse = s.coreUse := rfl
@[simp] theorem dramPoison_shUse (s : State) (pa : Nat) : (dramPoison s pa).shUse = s.shUse := rfl
@[simp] theorem dramPoison_tlb (s : State) (pa : Nat) : (dramPoison s pa).tlb = s.tlb := rfl
@[simp] theorem dramPoison_faults (s : State) (pa : Nat) : (dramPoison s pa).faults = s.faults := rfl
@[simp] theorem dramPoison_verdicts (s : State) (pa : Nat) : (dramPoison s pa).verdicts = s.verdicts := rfl
@[simp] theorem dramPoison_sq (s : State) (pa : Nat) : (dramPoison s pa).sq = s.sq := rfl
@[simp] theorem dramPoison_early (s : State) (pa : Nat) : (dramPoison s pa).early = s.early := rfl
@[simp] theorem dramPoison_oplog (s : State) (pa : Nat) : (dramPoison s pa).oplog = s.oplog := rfl
@[simp] theorem dramPoison_psets (s : State) (pa : Nat) : (dramPoison s pa).psets = s.psets := rfl
@[simp] theorem dramPoison_spad (s : State) (pa : Nat) : (dramPoison s pa).spad = s.spad := rfl
@[simp] theorem dramPoison_padw (s : State) (pa : Nat) : (dramPoison s pa).padw = s.padw := rfl
@[simp] theorem dramPoison_scale (s : State) (pa : Nat) : (dramPoison s pa).scale = s.scale := rfl
@[simp] theorem dramPoison_pchOff (s : State) (pa : Nat) : (dramPoison s pa).pchOff = s.pchOff := rfl
@[simp] theorem dramPoison_life (s : State) (pa : Nat) : (dramPoison s pa).life = s.life := rfl
@[simp] theorem dramPoison_launches (s : State) (pa : Nat) : (dramPoison s pa).launches = s.launches := rfl
@[simp] theorem dramPoison_graphs (s : State) (pa : Nat) : (dramPoison s pa).graphs = s.graphs := rfl
@[simp] theorem dramPoison_cmds (s : State) (pa : Nat) : (dramPoison s pa).cmds = s.cmds := rfl
@[simp] theorem dramPoison_rcache (s : State) (pa : Nat) : (dramPoison s pa).rcache = s.rcache := rfl
@[simp] theorem dramPoison_meets (s : State) (pa : Nat) : (dramPoison s pa).meets = s.meets := rfl
@[simp] theorem dramPoison_qmeets (s : State) (pa : Nat) : (dramPoison s pa).qmeets = s.qmeets := rfl
@[simp] theorem dramPoison_refused (s : State) (pa : Nat) : (dramPoison s pa).refused = s.refused := rfl
@[simp] theorem dramPoison_serials (s : State) (pa : Nat) : (dramPoison s pa).serials = s.serials := rfl
@[simp] theorem dramPoison_pchs (s : State) (pa : Nat) : (dramPoison s pa).pchs = s.pchs := rfl
@[simp] theorem dramPoison_stks (s : State) (pa : Nat) : (dramPoison s pa).stks = s.stks := rfl
@[simp] theorem dramPoison_frames (s : State) (pa : Nat) : (dramPoison s pa).frames = s.frames := rfl
@[simp] theorem dramPoison_tiles (s : State) (pa : Nat) : (dramPoison s pa).tiles = s.tiles := rfl
@[simp] theorem dramPoison_tenants (s : State) (pa : Nat) : (dramPoison s pa).tenants = s.tenants := rfl
@[simp] theorem dramPoison_fab (s : State) (pa : Nat) : (dramPoison s pa).fab = s.fab := rfl
@[simp] theorem dramPoison_key (s : State) (pa : Nat) : (dramPoison s pa).key = s.key := rfl
@[simp] theorem dramPoison_power (s : State) (pa : Nat) : (dramPoison s pa).power = s.power := rfl
@[simp] theorem dramPoison_units (s : State) (pa : Nat) : (dramPoison s pa).units = s.units := rfl
@[simp] theorem dramPoison_images (s : State) (pa : Nat) : (dramPoison s pa).images = s.images := rfl
@[simp] theorem dramPoison_cycle (s : State) (pa : Nat) : (dramPoison s pa).cycle = s.cycle := rfl
@[simp] theorem dramPoison_freeCtr (s : State) (pa : Nat) : (dramPoison s pa).freeCtr = s.freeCtr := rfl
@[simp] theorem dramPoison_tick (s : State) (pa : Nat) : (dramPoison s pa).tick = s.tick := rfl
@[simp] theorem dramPoison_agenda (s : State) (pa : Nat) : (dramPoison s pa).agenda = s.agenda := rfl
@[simp] theorem dramPoison_cur (s : State) (pa : Nat) : (dramPoison s pa).cur = s.cur := rfl
@[simp] theorem dramPoison_curLane (s : State) (pa : Nat) : (dramPoison s pa).curLane = s.curLane := rfl

/-! ### dramFlip -/

@[simp] theorem dramFlip_groups (s : State) (pa : Nat) (x : W32) (c : Byte) : (dramFlip s pa x c).groups = s.groups := rfl
@[simp] theorem dramFlip_teams (s : State) (pa : Nat) (x : W32) (c : Byte) : (dramFlip s pa x c).teams = s.teams := rfl
@[simp] theorem dramFlip_deeds (s : State) (pa : Nat) (x : W32) (c : Byte) : (dramFlip s pa x c).deeds = s.deeds := rfl
@[simp] theorem dramFlip_contexts (s : State) (pa : Nat) (x : W32) (c : Byte) : (dramFlip s pa x c).contexts = s.contexts := rfl
@[simp] theorem dramFlip_scrubs (s : State) (pa : Nat) (x : W32) (c : Byte) : (dramFlip s pa x c).scrubs = s.scrubs := rfl
@[simp] theorem dramFlip_reqs (s : State) (pa : Nat) (x : W32) (c : Byte) : (dramFlip s pa x c).reqs = s.reqs := rfl
@[simp] theorem dramFlip_lines (s : State) (pa : Nat) (x : W32) (c : Byte) : (dramFlip s pa x c).lines = s.lines := rfl
@[simp] theorem dramFlip_coreUse (s : State) (pa : Nat) (x : W32) (c : Byte) : (dramFlip s pa x c).coreUse = s.coreUse := rfl
@[simp] theorem dramFlip_shUse (s : State) (pa : Nat) (x : W32) (c : Byte) : (dramFlip s pa x c).shUse = s.shUse := rfl
@[simp] theorem dramFlip_tlb (s : State) (pa : Nat) (x : W32) (c : Byte) : (dramFlip s pa x c).tlb = s.tlb := rfl
@[simp] theorem dramFlip_faults (s : State) (pa : Nat) (x : W32) (c : Byte) : (dramFlip s pa x c).faults = s.faults := rfl
@[simp] theorem dramFlip_verdicts (s : State) (pa : Nat) (x : W32) (c : Byte) : (dramFlip s pa x c).verdicts = s.verdicts := rfl
@[simp] theorem dramFlip_sq (s : State) (pa : Nat) (x : W32) (c : Byte) : (dramFlip s pa x c).sq = s.sq := rfl
@[simp] theorem dramFlip_early (s : State) (pa : Nat) (x : W32) (c : Byte) : (dramFlip s pa x c).early = s.early := rfl
@[simp] theorem dramFlip_oplog (s : State) (pa : Nat) (x : W32) (c : Byte) : (dramFlip s pa x c).oplog = s.oplog := rfl
@[simp] theorem dramFlip_psets (s : State) (pa : Nat) (x : W32) (c : Byte) : (dramFlip s pa x c).psets = s.psets := rfl
@[simp] theorem dramFlip_spad (s : State) (pa : Nat) (x : W32) (c : Byte) : (dramFlip s pa x c).spad = s.spad := rfl
@[simp] theorem dramFlip_padw (s : State) (pa : Nat) (x : W32) (c : Byte) : (dramFlip s pa x c).padw = s.padw := rfl
@[simp] theorem dramFlip_scale (s : State) (pa : Nat) (x : W32) (c : Byte) : (dramFlip s pa x c).scale = s.scale := rfl
@[simp] theorem dramFlip_pchOff (s : State) (pa : Nat) (x : W32) (c : Byte) : (dramFlip s pa x c).pchOff = s.pchOff := rfl
@[simp] theorem dramFlip_life (s : State) (pa : Nat) (x : W32) (c : Byte) : (dramFlip s pa x c).life = s.life := rfl
@[simp] theorem dramFlip_launches (s : State) (pa : Nat) (x : W32) (c : Byte) : (dramFlip s pa x c).launches = s.launches := rfl
@[simp] theorem dramFlip_graphs (s : State) (pa : Nat) (x : W32) (c : Byte) : (dramFlip s pa x c).graphs = s.graphs := rfl
@[simp] theorem dramFlip_cmds (s : State) (pa : Nat) (x : W32) (c : Byte) : (dramFlip s pa x c).cmds = s.cmds := rfl
@[simp] theorem dramFlip_rcache (s : State) (pa : Nat) (x : W32) (c : Byte) : (dramFlip s pa x c).rcache = s.rcache := rfl
@[simp] theorem dramFlip_meets (s : State) (pa : Nat) (x : W32) (c : Byte) : (dramFlip s pa x c).meets = s.meets := rfl
@[simp] theorem dramFlip_qmeets (s : State) (pa : Nat) (x : W32) (c : Byte) : (dramFlip s pa x c).qmeets = s.qmeets := rfl
@[simp] theorem dramFlip_refused (s : State) (pa : Nat) (x : W32) (c : Byte) : (dramFlip s pa x c).refused = s.refused := rfl
@[simp] theorem dramFlip_serials (s : State) (pa : Nat) (x : W32) (c : Byte) : (dramFlip s pa x c).serials = s.serials := rfl
@[simp] theorem dramFlip_pchs (s : State) (pa : Nat) (x : W32) (c : Byte) : (dramFlip s pa x c).pchs = s.pchs := rfl
@[simp] theorem dramFlip_stks (s : State) (pa : Nat) (x : W32) (c : Byte) : (dramFlip s pa x c).stks = s.stks := rfl
@[simp] theorem dramFlip_frames (s : State) (pa : Nat) (x : W32) (c : Byte) : (dramFlip s pa x c).frames = s.frames := rfl
@[simp] theorem dramFlip_tiles (s : State) (pa : Nat) (x : W32) (c : Byte) : (dramFlip s pa x c).tiles = s.tiles := rfl
@[simp] theorem dramFlip_tenants (s : State) (pa : Nat) (x : W32) (c : Byte) : (dramFlip s pa x c).tenants = s.tenants := rfl
@[simp] theorem dramFlip_fab (s : State) (pa : Nat) (x : W32) (c : Byte) : (dramFlip s pa x c).fab = s.fab := rfl
@[simp] theorem dramFlip_key (s : State) (pa : Nat) (x : W32) (c : Byte) : (dramFlip s pa x c).key = s.key := rfl
@[simp] theorem dramFlip_power (s : State) (pa : Nat) (x : W32) (c : Byte) : (dramFlip s pa x c).power = s.power := rfl
@[simp] theorem dramFlip_units (s : State) (pa : Nat) (x : W32) (c : Byte) : (dramFlip s pa x c).units = s.units := rfl
@[simp] theorem dramFlip_images (s : State) (pa : Nat) (x : W32) (c : Byte) : (dramFlip s pa x c).images = s.images := rfl
@[simp] theorem dramFlip_cycle (s : State) (pa : Nat) (x : W32) (c : Byte) : (dramFlip s pa x c).cycle = s.cycle := rfl
@[simp] theorem dramFlip_freeCtr (s : State) (pa : Nat) (x : W32) (c : Byte) : (dramFlip s pa x c).freeCtr = s.freeCtr := rfl
@[simp] theorem dramFlip_tick (s : State) (pa : Nat) (x : W32) (c : Byte) : (dramFlip s pa x c).tick = s.tick := rfl
@[simp] theorem dramFlip_agenda (s : State) (pa : Nat) (x : W32) (c : Byte) : (dramFlip s pa x c).agenda = s.agenda := rfl
@[simp] theorem dramFlip_cur (s : State) (pa : Nat) (x : W32) (c : Byte) : (dramFlip s pa x c).cur = s.cur := rfl
@[simp] theorem dramFlip_curLane (s : State) (pa : Nat) (x : W32) (c : Byte) : (dramFlip s pa x c).curLane = s.curLane := rfl

/-! ### putLine -/

@[simp] theorem putLine_groups (s : State) (l : Line) : (putLine s l).groups = s.groups := rfl
@[simp] theorem putLine_teams (s : State) (l : Line) : (putLine s l).teams = s.teams := rfl
@[simp] theorem putLine_deeds (s : State) (l : Line) : (putLine s l).deeds = s.deeds := rfl
@[simp] theorem putLine_contexts (s : State) (l : Line) : (putLine s l).contexts = s.contexts := rfl
@[simp] theorem putLine_dram (s : State) (l : Line) : (putLine s l).dram = s.dram := rfl
@[simp] theorem putLine_synd (s : State) (l : Line) : (putLine s l).synd = s.synd := rfl
@[simp] theorem putLine_scrubs (s : State) (l : Line) : (putLine s l).scrubs = s.scrubs := rfl
@[simp] theorem putLine_reqs (s : State) (l : Line) : (putLine s l).reqs = s.reqs := rfl
@[simp] theorem putLine_coreUse (s : State) (l : Line) : (putLine s l).coreUse = s.coreUse := rfl
@[simp] theorem putLine_shUse (s : State) (l : Line) : (putLine s l).shUse = s.shUse := rfl
@[simp] theorem putLine_tlb (s : State) (l : Line) : (putLine s l).tlb = s.tlb := rfl
@[simp] theorem putLine_faults (s : State) (l : Line) : (putLine s l).faults = s.faults := rfl
@[simp] theorem putLine_verdicts (s : State) (l : Line) : (putLine s l).verdicts = s.verdicts := rfl
@[simp] theorem putLine_sq (s : State) (l : Line) : (putLine s l).sq = s.sq := rfl
@[simp] theorem putLine_early (s : State) (l : Line) : (putLine s l).early = s.early := rfl
@[simp] theorem putLine_oplog (s : State) (l : Line) : (putLine s l).oplog = s.oplog := rfl
@[simp] theorem putLine_psets (s : State) (l : Line) : (putLine s l).psets = s.psets := rfl
@[simp] theorem putLine_spad (s : State) (l : Line) : (putLine s l).spad = s.spad := rfl
@[simp] theorem putLine_padw (s : State) (l : Line) : (putLine s l).padw = s.padw := rfl
@[simp] theorem putLine_scale (s : State) (l : Line) : (putLine s l).scale = s.scale := rfl
@[simp] theorem putLine_pchOff (s : State) (l : Line) : (putLine s l).pchOff = s.pchOff := rfl
@[simp] theorem putLine_life (s : State) (l : Line) : (putLine s l).life = s.life := rfl
@[simp] theorem putLine_launches (s : State) (l : Line) : (putLine s l).launches = s.launches := rfl
@[simp] theorem putLine_graphs (s : State) (l : Line) : (putLine s l).graphs = s.graphs := rfl
@[simp] theorem putLine_cmds (s : State) (l : Line) : (putLine s l).cmds = s.cmds := rfl
@[simp] theorem putLine_rcache (s : State) (l : Line) : (putLine s l).rcache = s.rcache := rfl
@[simp] theorem putLine_meets (s : State) (l : Line) : (putLine s l).meets = s.meets := rfl
@[simp] theorem putLine_qmeets (s : State) (l : Line) : (putLine s l).qmeets = s.qmeets := rfl
@[simp] theorem putLine_refused (s : State) (l : Line) : (putLine s l).refused = s.refused := rfl
@[simp] theorem putLine_serials (s : State) (l : Line) : (putLine s l).serials = s.serials := rfl
@[simp] theorem putLine_pchs (s : State) (l : Line) : (putLine s l).pchs = s.pchs := rfl
@[simp] theorem putLine_stks (s : State) (l : Line) : (putLine s l).stks = s.stks := rfl
@[simp] theorem putLine_frames (s : State) (l : Line) : (putLine s l).frames = s.frames := rfl
@[simp] theorem putLine_tiles (s : State) (l : Line) : (putLine s l).tiles = s.tiles := rfl
@[simp] theorem putLine_tenants (s : State) (l : Line) : (putLine s l).tenants = s.tenants := rfl
@[simp] theorem putLine_fab (s : State) (l : Line) : (putLine s l).fab = s.fab := rfl
@[simp] theorem putLine_key (s : State) (l : Line) : (putLine s l).key = s.key := rfl
@[simp] theorem putLine_power (s : State) (l : Line) : (putLine s l).power = s.power := rfl
@[simp] theorem putLine_units (s : State) (l : Line) : (putLine s l).units = s.units := rfl
@[simp] theorem putLine_images (s : State) (l : Line) : (putLine s l).images = s.images := rfl
@[simp] theorem putLine_cycle (s : State) (l : Line) : (putLine s l).cycle = s.cycle := rfl
@[simp] theorem putLine_freeCtr (s : State) (l : Line) : (putLine s l).freeCtr = s.freeCtr := rfl
@[simp] theorem putLine_tick (s : State) (l : Line) : (putLine s l).tick = s.tick := rfl
@[simp] theorem putLine_agenda (s : State) (l : Line) : (putLine s l).agenda = s.agenda := rfl
@[simp] theorem putLine_cur (s : State) (l : Line) : (putLine s l).cur = s.cur := rfl
@[simp] theorem putLine_curLane (s : State) (l : Line) : (putLine s l).curLane = s.curLane := rfl

/-! ### dropLine -/

@[simp] theorem dropLine_groups (s : State) (k : Nat) : (dropLine s k).groups = s.groups := rfl
@[simp] theorem dropLine_teams (s : State) (k : Nat) : (dropLine s k).teams = s.teams := rfl
@[simp] theorem dropLine_deeds (s : State) (k : Nat) : (dropLine s k).deeds = s.deeds := rfl
@[simp] theorem dropLine_contexts (s : State) (k : Nat) : (dropLine s k).contexts = s.contexts := rfl
@[simp] theorem dropLine_dram (s : State) (k : Nat) : (dropLine s k).dram = s.dram := rfl
@[simp] theorem dropLine_synd (s : State) (k : Nat) : (dropLine s k).synd = s.synd := rfl
@[simp] theorem dropLine_scrubs (s : State) (k : Nat) : (dropLine s k).scrubs = s.scrubs := rfl
@[simp] theorem dropLine_reqs (s : State) (k : Nat) : (dropLine s k).reqs = s.reqs := rfl
@[simp] theorem dropLine_coreUse (s : State) (k : Nat) : (dropLine s k).coreUse = s.coreUse := rfl
@[simp] theorem dropLine_shUse (s : State) (k : Nat) : (dropLine s k).shUse = s.shUse := rfl
@[simp] theorem dropLine_tlb (s : State) (k : Nat) : (dropLine s k).tlb = s.tlb := rfl
@[simp] theorem dropLine_faults (s : State) (k : Nat) : (dropLine s k).faults = s.faults := rfl
@[simp] theorem dropLine_verdicts (s : State) (k : Nat) : (dropLine s k).verdicts = s.verdicts := rfl
@[simp] theorem dropLine_sq (s : State) (k : Nat) : (dropLine s k).sq = s.sq := rfl
@[simp] theorem dropLine_early (s : State) (k : Nat) : (dropLine s k).early = s.early := rfl
@[simp] theorem dropLine_oplog (s : State) (k : Nat) : (dropLine s k).oplog = s.oplog := rfl
@[simp] theorem dropLine_psets (s : State) (k : Nat) : (dropLine s k).psets = s.psets := rfl
@[simp] theorem dropLine_spad (s : State) (k : Nat) : (dropLine s k).spad = s.spad := rfl
@[simp] theorem dropLine_padw (s : State) (k : Nat) : (dropLine s k).padw = s.padw := rfl
@[simp] theorem dropLine_scale (s : State) (k : Nat) : (dropLine s k).scale = s.scale := rfl
@[simp] theorem dropLine_pchOff (s : State) (k : Nat) : (dropLine s k).pchOff = s.pchOff := rfl
@[simp] theorem dropLine_life (s : State) (k : Nat) : (dropLine s k).life = s.life := rfl
@[simp] theorem dropLine_launches (s : State) (k : Nat) : (dropLine s k).launches = s.launches := rfl
@[simp] theorem dropLine_graphs (s : State) (k : Nat) : (dropLine s k).graphs = s.graphs := rfl
@[simp] theorem dropLine_cmds (s : State) (k : Nat) : (dropLine s k).cmds = s.cmds := rfl
@[simp] theorem dropLine_rcache (s : State) (k : Nat) : (dropLine s k).rcache = s.rcache := rfl
@[simp] theorem dropLine_meets (s : State) (k : Nat) : (dropLine s k).meets = s.meets := rfl
@[simp] theorem dropLine_qmeets (s : State) (k : Nat) : (dropLine s k).qmeets = s.qmeets := rfl
@[simp] theorem dropLine_refused (s : State) (k : Nat) : (dropLine s k).refused = s.refused := rfl
@[simp] theorem dropLine_serials (s : State) (k : Nat) : (dropLine s k).serials = s.serials := rfl
@[simp] theorem dropLine_pchs (s : State) (k : Nat) : (dropLine s k).pchs = s.pchs := rfl
@[simp] theorem dropLine_stks (s : State) (k : Nat) : (dropLine s k).stks = s.stks := rfl
@[simp] theorem dropLine_frames (s : State) (k : Nat) : (dropLine s k).frames = s.frames := rfl
@[simp] theorem dropLine_tiles (s : State) (k : Nat) : (dropLine s k).tiles = s.tiles := rfl
@[simp] theorem dropLine_tenants (s : State) (k : Nat) : (dropLine s k).tenants = s.tenants := rfl
@[simp] theorem dropLine_fab (s : State) (k : Nat) : (dropLine s k).fab = s.fab := rfl
@[simp] theorem dropLine_key (s : State) (k : Nat) : (dropLine s k).key = s.key := rfl
@[simp] theorem dropLine_power (s : State) (k : Nat) : (dropLine s k).power = s.power := rfl
@[simp] theorem dropLine_units (s : State) (k : Nat) : (dropLine s k).units = s.units := rfl
@[simp] theorem dropLine_images (s : State) (k : Nat) : (dropLine s k).images = s.images := rfl
@[simp] theorem dropLine_cycle (s : State) (k : Nat) : (dropLine s k).cycle = s.cycle := rfl
@[simp] theorem dropLine_freeCtr (s : State) (k : Nat) : (dropLine s k).freeCtr = s.freeCtr := rfl
@[simp] theorem dropLine_tick (s : State) (k : Nat) : (dropLine s k).tick = s.tick := rfl
@[simp] theorem dropLine_agenda (s : State) (k : Nat) : (dropLine s k).agenda = s.agenda := rfl
@[simp] theorem dropLine_cur (s : State) (k : Nat) : (dropLine s k).cur = s.cur := rfl
@[simp] theorem dropLine_curLane (s : State) (k : Nat) : (dropLine s k).curLane = s.curLane := rfl

/-! ### advance -/

@[simp] theorem advance_groups (s : State) : (advance s).groups = s.groups := rfl
@[simp] theorem advance_teams (s : State) : (advance s).teams = s.teams := rfl
@[simp] theorem advance_deeds (s : State) : (advance s).deeds = s.deeds := rfl
@[simp] theorem advance_contexts (s : State) : (advance s).contexts = s.contexts := rfl
@[simp] theorem advance_dram (s : State) : (advance s).dram = s.dram := rfl
@[simp] theorem advance_synd (s : State) : (advance s).synd = s.synd := rfl
@[simp] theorem advance_scrubs (s : State) : (advance s).scrubs = s.scrubs := rfl
@[simp] theorem advance_reqs (s : State) : (advance s).reqs = s.reqs := rfl
@[simp] theorem advance_lines (s : State) : (advance s).lines = s.lines := rfl
@[simp] theorem advance_coreUse (s : State) : (advance s).coreUse = s.coreUse := rfl
@[simp] theorem advance_shUse (s : State) : (advance s).shUse = s.shUse := rfl
@[simp] theorem advance_tlb (s : State) : (advance s).tlb = s.tlb := rfl
@[simp] theorem advance_faults (s : State) : (advance s).faults = s.faults := rfl
@[simp] theorem advance_verdicts (s : State) : (advance s).verdicts = s.verdicts := rfl
@[simp] theorem advance_sq (s : State) : (advance s).sq = s.sq := rfl
@[simp] theorem advance_early (s : State) : (advance s).early = s.early := rfl
@[simp] theorem advance_oplog (s : State) : (advance s).oplog = s.oplog := rfl
@[simp] theorem advance_psets (s : State) : (advance s).psets = s.psets := rfl
@[simp] theorem advance_spad (s : State) : (advance s).spad = s.spad := rfl
@[simp] theorem advance_padw (s : State) : (advance s).padw = s.padw := rfl
@[simp] theorem advance_scale (s : State) : (advance s).scale = s.scale := rfl
@[simp] theorem advance_pchOff (s : State) : (advance s).pchOff = s.pchOff := rfl
@[simp] theorem advance_life (s : State) : (advance s).life = s.life := rfl
@[simp] theorem advance_launches (s : State) : (advance s).launches = s.launches := rfl
@[simp] theorem advance_graphs (s : State) : (advance s).graphs = s.graphs := rfl
@[simp] theorem advance_cmds (s : State) : (advance s).cmds = s.cmds := rfl
@[simp] theorem advance_rcache (s : State) : (advance s).rcache = s.rcache := rfl
@[simp] theorem advance_meets (s : State) : (advance s).meets = s.meets := rfl
@[simp] theorem advance_qmeets (s : State) : (advance s).qmeets = s.qmeets := rfl
@[simp] theorem advance_refused (s : State) : (advance s).refused = s.refused := rfl
@[simp] theorem advance_serials (s : State) : (advance s).serials = s.serials := rfl
@[simp] theorem advance_pchs (s : State) : (advance s).pchs = s.pchs := rfl
@[simp] theorem advance_stks (s : State) : (advance s).stks = s.stks := rfl
@[simp] theorem advance_frames (s : State) : (advance s).frames = s.frames := rfl
@[simp] theorem advance_tiles (s : State) : (advance s).tiles = s.tiles := rfl
@[simp] theorem advance_tenants (s : State) : (advance s).tenants = s.tenants := rfl
@[simp] theorem advance_fab (s : State) : (advance s).fab = s.fab := rfl
@[simp] theorem advance_key (s : State) : (advance s).key = s.key := rfl
@[simp] theorem advance_power (s : State) : (advance s).power = s.power := rfl
@[simp] theorem advance_units (s : State) : (advance s).units = s.units := rfl
@[simp] theorem advance_images (s : State) : (advance s).images = s.images := rfl
@[simp] theorem advance_freeCtr (s : State) : (advance s).freeCtr = s.freeCtr := rfl
@[simp] theorem advance_agenda (s : State) : (advance s).agenda = s.agenda := rfl
@[simp] theorem advance_cur (s : State) : (advance s).cur = s.cur := rfl
@[simp] theorem advance_curLane (s : State) : (advance s).curLane = s.curLane := rfl

/-! ### dropEarly -/

@[simp] theorem dropEarly_groups (s : State) (g : Nat) : (dropEarly s g).groups = s.groups := rfl
@[simp] theorem dropEarly_teams (s : State) (g : Nat) : (dropEarly s g).teams = s.teams := rfl
@[simp] theorem dropEarly_deeds (s : State) (g : Nat) : (dropEarly s g).deeds = s.deeds := rfl
@[simp] theorem dropEarly_contexts (s : State) (g : Nat) : (dropEarly s g).contexts = s.contexts := rfl
@[simp] theorem dropEarly_dram (s : State) (g : Nat) : (dropEarly s g).dram = s.dram := rfl
@[simp] theorem dropEarly_synd (s : State) (g : Nat) : (dropEarly s g).synd = s.synd := rfl
@[simp] theorem dropEarly_scrubs (s : State) (g : Nat) : (dropEarly s g).scrubs = s.scrubs := rfl
@[simp] theorem dropEarly_reqs (s : State) (g : Nat) : (dropEarly s g).reqs = s.reqs := rfl
@[simp] theorem dropEarly_lines (s : State) (g : Nat) : (dropEarly s g).lines = s.lines := rfl
@[simp] theorem dropEarly_coreUse (s : State) (g : Nat) : (dropEarly s g).coreUse = s.coreUse := rfl
@[simp] theorem dropEarly_shUse (s : State) (g : Nat) : (dropEarly s g).shUse = s.shUse := rfl
@[simp] theorem dropEarly_tlb (s : State) (g : Nat) : (dropEarly s g).tlb = s.tlb := rfl
@[simp] theorem dropEarly_faults (s : State) (g : Nat) : (dropEarly s g).faults = s.faults := rfl
@[simp] theorem dropEarly_verdicts (s : State) (g : Nat) : (dropEarly s g).verdicts = s.verdicts := rfl
@[simp] theorem dropEarly_sq (s : State) (g : Nat) : (dropEarly s g).sq = s.sq := rfl
@[simp] theorem dropEarly_oplog (s : State) (g : Nat) : (dropEarly s g).oplog = s.oplog := rfl
@[simp] theorem dropEarly_psets (s : State) (g : Nat) : (dropEarly s g).psets = s.psets := rfl
@[simp] theorem dropEarly_spad (s : State) (g : Nat) : (dropEarly s g).spad = s.spad := rfl
@[simp] theorem dropEarly_padw (s : State) (g : Nat) : (dropEarly s g).padw = s.padw := rfl
@[simp] theorem dropEarly_scale (s : State) (g : Nat) : (dropEarly s g).scale = s.scale := rfl
@[simp] theorem dropEarly_pchOff (s : State) (g : Nat) : (dropEarly s g).pchOff = s.pchOff := rfl
@[simp] theorem dropEarly_life (s : State) (g : Nat) : (dropEarly s g).life = s.life := rfl
@[simp] theorem dropEarly_launches (s : State) (g : Nat) : (dropEarly s g).launches = s.launches := rfl
@[simp] theorem dropEarly_graphs (s : State) (g : Nat) : (dropEarly s g).graphs = s.graphs := rfl
@[simp] theorem dropEarly_cmds (s : State) (g : Nat) : (dropEarly s g).cmds = s.cmds := rfl
@[simp] theorem dropEarly_rcache (s : State) (g : Nat) : (dropEarly s g).rcache = s.rcache := rfl
@[simp] theorem dropEarly_meets (s : State) (g : Nat) : (dropEarly s g).meets = s.meets := rfl
@[simp] theorem dropEarly_qmeets (s : State) (g : Nat) : (dropEarly s g).qmeets = s.qmeets := rfl
@[simp] theorem dropEarly_refused (s : State) (g : Nat) : (dropEarly s g).refused = s.refused := rfl
@[simp] theorem dropEarly_serials (s : State) (g : Nat) : (dropEarly s g).serials = s.serials := rfl
@[simp] theorem dropEarly_pchs (s : State) (g : Nat) : (dropEarly s g).pchs = s.pchs := rfl
@[simp] theorem dropEarly_stks (s : State) (g : Nat) : (dropEarly s g).stks = s.stks := rfl
@[simp] theorem dropEarly_frames (s : State) (g : Nat) : (dropEarly s g).frames = s.frames := rfl
@[simp] theorem dropEarly_tiles (s : State) (g : Nat) : (dropEarly s g).tiles = s.tiles := rfl
@[simp] theorem dropEarly_tenants (s : State) (g : Nat) : (dropEarly s g).tenants = s.tenants := rfl
@[simp] theorem dropEarly_fab (s : State) (g : Nat) : (dropEarly s g).fab = s.fab := rfl
@[simp] theorem dropEarly_key (s : State) (g : Nat) : (dropEarly s g).key = s.key := rfl
@[simp] theorem dropEarly_power (s : State) (g : Nat) : (dropEarly s g).power = s.power := rfl
@[simp] theorem dropEarly_units (s : State) (g : Nat) : (dropEarly s g).units = s.units := rfl
@[simp] theorem dropEarly_images (s : State) (g : Nat) : (dropEarly s g).images = s.images := rfl
@[simp] theorem dropEarly_cycle (s : State) (g : Nat) : (dropEarly s g).cycle = s.cycle := rfl
@[simp] theorem dropEarly_freeCtr (s : State) (g : Nat) : (dropEarly s g).freeCtr = s.freeCtr := rfl
@[simp] theorem dropEarly_tick (s : State) (g : Nat) : (dropEarly s g).tick = s.tick := rfl
@[simp] theorem dropEarly_agenda (s : State) (g : Nat) : (dropEarly s g).agenda = s.agenda := rfl
@[simp] theorem dropEarly_cur (s : State) (g : Nat) : (dropEarly s g).cur = s.cur := rfl
@[simp] theorem dropEarly_curLane (s : State) (g : Nat) : (dropEarly s g).curLane = s.curLane := rfl

/-! ### dropEarlyAt -/

@[simp] theorem dropEarlyAt_groups (s : State) (g : Nat) (o : Option Bool) (k : Nat) : (dropEarlyAt s g o k).groups = s.groups := rfl
@[simp] theorem dropEarlyAt_teams (s : State) (g : Nat) (o : Option Bool) (k : Nat) : (dropEarlyAt s g o k).teams = s.teams := rfl
@[simp] theorem dropEarlyAt_deeds (s : State) (g : Nat) (o : Option Bool) (k : Nat) : (dropEarlyAt s g o k).deeds = s.deeds := rfl
@[simp] theorem dropEarlyAt_contexts (s : State) (g : Nat) (o : Option Bool) (k : Nat) : (dropEarlyAt s g o k).contexts = s.contexts := rfl
@[simp] theorem dropEarlyAt_dram (s : State) (g : Nat) (o : Option Bool) (k : Nat) : (dropEarlyAt s g o k).dram = s.dram := rfl
@[simp] theorem dropEarlyAt_synd (s : State) (g : Nat) (o : Option Bool) (k : Nat) : (dropEarlyAt s g o k).synd = s.synd := rfl
@[simp] theorem dropEarlyAt_scrubs (s : State) (g : Nat) (o : Option Bool) (k : Nat) : (dropEarlyAt s g o k).scrubs = s.scrubs := rfl
@[simp] theorem dropEarlyAt_reqs (s : State) (g : Nat) (o : Option Bool) (k : Nat) : (dropEarlyAt s g o k).reqs = s.reqs := rfl
@[simp] theorem dropEarlyAt_lines (s : State) (g : Nat) (o : Option Bool) (k : Nat) : (dropEarlyAt s g o k).lines = s.lines := rfl
@[simp] theorem dropEarlyAt_coreUse (s : State) (g : Nat) (o : Option Bool) (k : Nat) : (dropEarlyAt s g o k).coreUse = s.coreUse := rfl
@[simp] theorem dropEarlyAt_shUse (s : State) (g : Nat) (o : Option Bool) (k : Nat) : (dropEarlyAt s g o k).shUse = s.shUse := rfl
@[simp] theorem dropEarlyAt_tlb (s : State) (g : Nat) (o : Option Bool) (k : Nat) : (dropEarlyAt s g o k).tlb = s.tlb := rfl
@[simp] theorem dropEarlyAt_faults (s : State) (g : Nat) (o : Option Bool) (k : Nat) : (dropEarlyAt s g o k).faults = s.faults := rfl
@[simp] theorem dropEarlyAt_verdicts (s : State) (g : Nat) (o : Option Bool) (k : Nat) : (dropEarlyAt s g o k).verdicts = s.verdicts := rfl
@[simp] theorem dropEarlyAt_sq (s : State) (g : Nat) (o : Option Bool) (k : Nat) : (dropEarlyAt s g o k).sq = s.sq := rfl
@[simp] theorem dropEarlyAt_oplog (s : State) (g : Nat) (o : Option Bool) (k : Nat) : (dropEarlyAt s g o k).oplog = s.oplog := rfl
@[simp] theorem dropEarlyAt_psets (s : State) (g : Nat) (o : Option Bool) (k : Nat) : (dropEarlyAt s g o k).psets = s.psets := rfl
@[simp] theorem dropEarlyAt_spad (s : State) (g : Nat) (o : Option Bool) (k : Nat) : (dropEarlyAt s g o k).spad = s.spad := rfl
@[simp] theorem dropEarlyAt_padw (s : State) (g : Nat) (o : Option Bool) (k : Nat) : (dropEarlyAt s g o k).padw = s.padw := rfl
@[simp] theorem dropEarlyAt_scale (s : State) (g : Nat) (o : Option Bool) (k : Nat) : (dropEarlyAt s g o k).scale = s.scale := rfl
@[simp] theorem dropEarlyAt_pchOff (s : State) (g : Nat) (o : Option Bool) (k : Nat) : (dropEarlyAt s g o k).pchOff = s.pchOff := rfl
@[simp] theorem dropEarlyAt_life (s : State) (g : Nat) (o : Option Bool) (k : Nat) : (dropEarlyAt s g o k).life = s.life := rfl
@[simp] theorem dropEarlyAt_launches (s : State) (g : Nat) (o : Option Bool) (k : Nat) : (dropEarlyAt s g o k).launches = s.launches := rfl
@[simp] theorem dropEarlyAt_graphs (s : State) (g : Nat) (o : Option Bool) (k : Nat) : (dropEarlyAt s g o k).graphs = s.graphs := rfl
@[simp] theorem dropEarlyAt_cmds (s : State) (g : Nat) (o : Option Bool) (k : Nat) : (dropEarlyAt s g o k).cmds = s.cmds := rfl
@[simp] theorem dropEarlyAt_rcache (s : State) (g : Nat) (o : Option Bool) (k : Nat) : (dropEarlyAt s g o k).rcache = s.rcache := rfl
@[simp] theorem dropEarlyAt_meets (s : State) (g : Nat) (o : Option Bool) (k : Nat) : (dropEarlyAt s g o k).meets = s.meets := rfl
@[simp] theorem dropEarlyAt_qmeets (s : State) (g : Nat) (o : Option Bool) (k : Nat) : (dropEarlyAt s g o k).qmeets = s.qmeets := rfl
@[simp] theorem dropEarlyAt_refused (s : State) (g : Nat) (o : Option Bool) (k : Nat) : (dropEarlyAt s g o k).refused = s.refused := rfl
@[simp] theorem dropEarlyAt_serials (s : State) (g : Nat) (o : Option Bool) (k : Nat) : (dropEarlyAt s g o k).serials = s.serials := rfl
@[simp] theorem dropEarlyAt_pchs (s : State) (g : Nat) (o : Option Bool) (k : Nat) : (dropEarlyAt s g o k).pchs = s.pchs := rfl
@[simp] theorem dropEarlyAt_stks (s : State) (g : Nat) (o : Option Bool) (k : Nat) : (dropEarlyAt s g o k).stks = s.stks := rfl
@[simp] theorem dropEarlyAt_frames (s : State) (g : Nat) (o : Option Bool) (k : Nat) : (dropEarlyAt s g o k).frames = s.frames := rfl
@[simp] theorem dropEarlyAt_tiles (s : State) (g : Nat) (o : Option Bool) (k : Nat) : (dropEarlyAt s g o k).tiles = s.tiles := rfl
@[simp] theorem dropEarlyAt_tenants (s : State) (g : Nat) (o : Option Bool) (k : Nat) : (dropEarlyAt s g o k).tenants = s.tenants := rfl
@[simp] theorem dropEarlyAt_fab (s : State) (g : Nat) (o : Option Bool) (k : Nat) : (dropEarlyAt s g o k).fab = s.fab := rfl
@[simp] theorem dropEarlyAt_key (s : State) (g : Nat) (o : Option Bool) (k : Nat) : (dropEarlyAt s g o k).key = s.key := rfl
@[simp] theorem dropEarlyAt_power (s : State) (g : Nat) (o : Option Bool) (k : Nat) : (dropEarlyAt s g o k).power = s.power := rfl
@[simp] theorem dropEarlyAt_units (s : State) (g : Nat) (o : Option Bool) (k : Nat) : (dropEarlyAt s g o k).units = s.units := rfl
@[simp] theorem dropEarlyAt_images (s : State) (g : Nat) (o : Option Bool) (k : Nat) : (dropEarlyAt s g o k).images = s.images := rfl
@[simp] theorem dropEarlyAt_cycle (s : State) (g : Nat) (o : Option Bool) (k : Nat) : (dropEarlyAt s g o k).cycle = s.cycle := rfl
@[simp] theorem dropEarlyAt_freeCtr (s : State) (g : Nat) (o : Option Bool) (k : Nat) : (dropEarlyAt s g o k).freeCtr = s.freeCtr := rfl
@[simp] theorem dropEarlyAt_tick (s : State) (g : Nat) (o : Option Bool) (k : Nat) : (dropEarlyAt s g o k).tick = s.tick := rfl
@[simp] theorem dropEarlyAt_agenda (s : State) (g : Nat) (o : Option Bool) (k : Nat) : (dropEarlyAt s g o k).agenda = s.agenda := rfl
@[simp] theorem dropEarlyAt_cur (s : State) (g : Nat) (o : Option Bool) (k : Nat) : (dropEarlyAt s g o k).cur = s.cur := rfl
@[simp] theorem dropEarlyAt_curLane (s : State) (g : Nat) (o : Option Bool) (k : Nat) : (dropEarlyAt s g o k).curLane = s.curLane := rfl

/-! ### putSets -/

@[simp] theorem putSets_groups (s : State) (p : PageSets) : (putSets s p).groups = s.groups := rfl
@[simp] theorem putSets_teams (s : State) (p : PageSets) : (putSets s p).teams = s.teams := rfl
@[simp] theorem putSets_deeds (s : State) (p : PageSets) : (putSets s p).deeds = s.deeds := rfl
@[simp] theorem putSets_contexts (s : State) (p : PageSets) : (putSets s p).contexts = s.contexts := rfl
@[simp] theorem putSets_dram (s : State) (p : PageSets) : (putSets s p).dram = s.dram := rfl
@[simp] theorem putSets_synd (s : State) (p : PageSets) : (putSets s p).synd = s.synd := rfl
@[simp] theorem putSets_scrubs (s : State) (p : PageSets) : (putSets s p).scrubs = s.scrubs := rfl
@[simp] theorem putSets_reqs (s : State) (p : PageSets) : (putSets s p).reqs = s.reqs := rfl
@[simp] theorem putSets_lines (s : State) (p : PageSets) : (putSets s p).lines = s.lines := rfl
@[simp] theorem putSets_coreUse (s : State) (p : PageSets) : (putSets s p).coreUse = s.coreUse := rfl
@[simp] theorem putSets_shUse (s : State) (p : PageSets) : (putSets s p).shUse = s.shUse := rfl
@[simp] theorem putSets_tlb (s : State) (p : PageSets) : (putSets s p).tlb = s.tlb := rfl
@[simp] theorem putSets_faults (s : State) (p : PageSets) : (putSets s p).faults = s.faults := rfl
@[simp] theorem putSets_verdicts (s : State) (p : PageSets) : (putSets s p).verdicts = s.verdicts := rfl
@[simp] theorem putSets_sq (s : State) (p : PageSets) : (putSets s p).sq = s.sq := rfl
@[simp] theorem putSets_early (s : State) (p : PageSets) : (putSets s p).early = s.early := rfl
@[simp] theorem putSets_oplog (s : State) (p : PageSets) : (putSets s p).oplog = s.oplog := rfl
@[simp] theorem putSets_spad (s : State) (p : PageSets) : (putSets s p).spad = s.spad := rfl
@[simp] theorem putSets_padw (s : State) (p : PageSets) : (putSets s p).padw = s.padw := rfl
@[simp] theorem putSets_scale (s : State) (p : PageSets) : (putSets s p).scale = s.scale := rfl
@[simp] theorem putSets_pchOff (s : State) (p : PageSets) : (putSets s p).pchOff = s.pchOff := rfl
@[simp] theorem putSets_life (s : State) (p : PageSets) : (putSets s p).life = s.life := rfl
@[simp] theorem putSets_launches (s : State) (p : PageSets) : (putSets s p).launches = s.launches := rfl
@[simp] theorem putSets_graphs (s : State) (p : PageSets) : (putSets s p).graphs = s.graphs := rfl
@[simp] theorem putSets_cmds (s : State) (p : PageSets) : (putSets s p).cmds = s.cmds := rfl
@[simp] theorem putSets_rcache (s : State) (p : PageSets) : (putSets s p).rcache = s.rcache := rfl
@[simp] theorem putSets_meets (s : State) (p : PageSets) : (putSets s p).meets = s.meets := rfl
@[simp] theorem putSets_qmeets (s : State) (p : PageSets) : (putSets s p).qmeets = s.qmeets := rfl
@[simp] theorem putSets_refused (s : State) (p : PageSets) : (putSets s p).refused = s.refused := rfl
@[simp] theorem putSets_serials (s : State) (p : PageSets) : (putSets s p).serials = s.serials := rfl
@[simp] theorem putSets_pchs (s : State) (p : PageSets) : (putSets s p).pchs = s.pchs := rfl
@[simp] theorem putSets_stks (s : State) (p : PageSets) : (putSets s p).stks = s.stks := rfl
@[simp] theorem putSets_frames (s : State) (p : PageSets) : (putSets s p).frames = s.frames := rfl
@[simp] theorem putSets_tiles (s : State) (p : PageSets) : (putSets s p).tiles = s.tiles := rfl
@[simp] theorem putSets_tenants (s : State) (p : PageSets) : (putSets s p).tenants = s.tenants := rfl
@[simp] theorem putSets_fab (s : State) (p : PageSets) : (putSets s p).fab = s.fab := rfl
@[simp] theorem putSets_key (s : State) (p : PageSets) : (putSets s p).key = s.key := rfl
@[simp] theorem putSets_power (s : State) (p : PageSets) : (putSets s p).power = s.power := rfl
@[simp] theorem putSets_units (s : State) (p : PageSets) : (putSets s p).units = s.units := rfl
@[simp] theorem putSets_images (s : State) (p : PageSets) : (putSets s p).images = s.images := rfl
@[simp] theorem putSets_cycle (s : State) (p : PageSets) : (putSets s p).cycle = s.cycle := rfl
@[simp] theorem putSets_freeCtr (s : State) (p : PageSets) : (putSets s p).freeCtr = s.freeCtr := rfl
@[simp] theorem putSets_tick (s : State) (p : PageSets) : (putSets s p).tick = s.tick := rfl
@[simp] theorem putSets_agenda (s : State) (p : PageSets) : (putSets s p).agenda = s.agenda := rfl
@[simp] theorem putSets_cur (s : State) (p : PageSets) : (putSets s p).cur = s.cur := rfl
@[simp] theorem putSets_curLane (s : State) (p : PageSets) : (putSets s p).curLane = s.curLane := rfl

/-! ### logOps -/

@[simp] theorem logOps_groups (s : State) (e : OpEntry) : (logOps s e).groups = s.groups := by unfold logOps; split <;> rfl
@[simp] theorem logOps_teams (s : State) (e : OpEntry) : (logOps s e).teams = s.teams := by unfold logOps; split <;> rfl
@[simp] theorem logOps_deeds (s : State) (e : OpEntry) : (logOps s e).deeds = s.deeds := by unfold logOps; split <;> rfl
@[simp] theorem logOps_contexts (s : State) (e : OpEntry) : (logOps s e).contexts = s.contexts := by unfold logOps; split <;> rfl
@[simp] theorem logOps_dram (s : State) (e : OpEntry) : (logOps s e).dram = s.dram := by unfold logOps; split <;> rfl
@[simp] theorem logOps_synd (s : State) (e : OpEntry) : (logOps s e).synd = s.synd := by unfold logOps; split <;> rfl
@[simp] theorem logOps_scrubs (s : State) (e : OpEntry) : (logOps s e).scrubs = s.scrubs := by unfold logOps; split <;> rfl
@[simp] theorem logOps_reqs (s : State) (e : OpEntry) : (logOps s e).reqs = s.reqs := by unfold logOps; split <;> rfl
@[simp] theorem logOps_lines (s : State) (e : OpEntry) : (logOps s e).lines = s.lines := by unfold logOps; split <;> rfl
@[simp] theorem logOps_coreUse (s : State) (e : OpEntry) : (logOps s e).coreUse = s.coreUse := by unfold logOps; split <;> rfl
@[simp] theorem logOps_shUse (s : State) (e : OpEntry) : (logOps s e).shUse = s.shUse := by unfold logOps; split <;> rfl
@[simp] theorem logOps_tlb (s : State) (e : OpEntry) : (logOps s e).tlb = s.tlb := by unfold logOps; split <;> rfl
@[simp] theorem logOps_faults (s : State) (e : OpEntry) : (logOps s e).faults = s.faults := by unfold logOps; split <;> rfl
@[simp] theorem logOps_verdicts (s : State) (e : OpEntry) : (logOps s e).verdicts = s.verdicts := by unfold logOps; split <;> rfl
@[simp] theorem logOps_sq (s : State) (e : OpEntry) : (logOps s e).sq = s.sq := by unfold logOps; split <;> rfl
@[simp] theorem logOps_early (s : State) (e : OpEntry) : (logOps s e).early = s.early := by unfold logOps; split <;> rfl
@[simp] theorem logOps_psets (s : State) (e : OpEntry) : (logOps s e).psets = s.psets := by unfold logOps; split <;> rfl
@[simp] theorem logOps_spad (s : State) (e : OpEntry) : (logOps s e).spad = s.spad := by unfold logOps; split <;> rfl
@[simp] theorem logOps_padw (s : State) (e : OpEntry) : (logOps s e).padw = s.padw := by unfold logOps; split <;> rfl
@[simp] theorem logOps_scale (s : State) (e : OpEntry) : (logOps s e).scale = s.scale := by unfold logOps; split <;> rfl
@[simp] theorem logOps_pchOff (s : State) (e : OpEntry) : (logOps s e).pchOff = s.pchOff := by unfold logOps; split <;> rfl
@[simp] theorem logOps_life (s : State) (e : OpEntry) : (logOps s e).life = s.life := by unfold logOps; split <;> rfl
@[simp] theorem logOps_launches (s : State) (e : OpEntry) : (logOps s e).launches = s.launches := by unfold logOps; split <;> rfl
@[simp] theorem logOps_graphs (s : State) (e : OpEntry) : (logOps s e).graphs = s.graphs := by unfold logOps; split <;> rfl
@[simp] theorem logOps_cmds (s : State) (e : OpEntry) : (logOps s e).cmds = s.cmds := by unfold logOps; split <;> rfl
@[simp] theorem logOps_rcache (s : State) (e : OpEntry) : (logOps s e).rcache = s.rcache := by unfold logOps; split <;> rfl
@[simp] theorem logOps_meets (s : State) (e : OpEntry) : (logOps s e).meets = s.meets := by unfold logOps; split <;> rfl
@[simp] theorem logOps_qmeets (s : State) (e : OpEntry) : (logOps s e).qmeets = s.qmeets := by unfold logOps; split <;> rfl
@[simp] theorem logOps_refused (s : State) (e : OpEntry) : (logOps s e).refused = s.refused := by unfold logOps; split <;> rfl
@[simp] theorem logOps_serials (s : State) (e : OpEntry) : (logOps s e).serials = s.serials := by unfold logOps; split <;> rfl
@[simp] theorem logOps_pchs (s : State) (e : OpEntry) : (logOps s e).pchs = s.pchs := by unfold logOps; split <;> rfl
@[simp] theorem logOps_stks (s : State) (e : OpEntry) : (logOps s e).stks = s.stks := by unfold logOps; split <;> rfl
@[simp] theorem logOps_frames (s : State) (e : OpEntry) : (logOps s e).frames = s.frames := by unfold logOps; split <;> rfl
@[simp] theorem logOps_tiles (s : State) (e : OpEntry) : (logOps s e).tiles = s.tiles := by unfold logOps; split <;> rfl
@[simp] theorem logOps_tenants (s : State) (e : OpEntry) : (logOps s e).tenants = s.tenants := by unfold logOps; split <;> rfl
@[simp] theorem logOps_fab (s : State) (e : OpEntry) : (logOps s e).fab = s.fab := by unfold logOps; split <;> rfl
@[simp] theorem logOps_key (s : State) (e : OpEntry) : (logOps s e).key = s.key := by unfold logOps; split <;> rfl
@[simp] theorem logOps_power (s : State) (e : OpEntry) : (logOps s e).power = s.power := by unfold logOps; split <;> rfl
@[simp] theorem logOps_units (s : State) (e : OpEntry) : (logOps s e).units = s.units := by unfold logOps; split <;> rfl
@[simp] theorem logOps_images (s : State) (e : OpEntry) : (logOps s e).images = s.images := by unfold logOps; split <;> rfl
@[simp] theorem logOps_cycle (s : State) (e : OpEntry) : (logOps s e).cycle = s.cycle := by unfold logOps; split <;> rfl
@[simp] theorem logOps_freeCtr (s : State) (e : OpEntry) : (logOps s e).freeCtr = s.freeCtr := by unfold logOps; split <;> rfl
@[simp] theorem logOps_tick (s : State) (e : OpEntry) : (logOps s e).tick = s.tick := by unfold logOps; split <;> rfl
@[simp] theorem logOps_agenda (s : State) (e : OpEntry) : (logOps s e).agenda = s.agenda := by unfold logOps; split <;> rfl
@[simp] theorem logOps_cur (s : State) (e : OpEntry) : (logOps s e).cur = s.cur := by unfold logOps; split <;> rfl
@[simp] theorem logOps_curLane (s : State) (e : OpEntry) : (logOps s e).curLane = s.curLane := by unfold logOps; split <;> rfl

/-! ### postReq -/

@[simp] theorem postReq_groups (s : State) (r : WordReq) : (postReq s r).groups = s.groups := by unfold postReq; split <;> rfl
@[simp] theorem postReq_teams (s : State) (r : WordReq) : (postReq s r).teams = s.teams := by unfold postReq; split <;> rfl
@[simp] theorem postReq_deeds (s : State) (r : WordReq) : (postReq s r).deeds = s.deeds := by unfold postReq; split <;> rfl
@[simp] theorem postReq_contexts (s : State) (r : WordReq) : (postReq s r).contexts = s.contexts := by unfold postReq; split <;> rfl
@[simp] theorem postReq_dram (s : State) (r : WordReq) : (postReq s r).dram = s.dram := by unfold postReq; split <;> rfl
@[simp] theorem postReq_synd (s : State) (r : WordReq) : (postReq s r).synd = s.synd := by unfold postReq; split <;> rfl
@[simp] theorem postReq_scrubs (s : State) (r : WordReq) : (postReq s r).scrubs = s.scrubs := by unfold postReq; split <;> rfl
@[simp] theorem postReq_lines (s : State) (r : WordReq) : (postReq s r).lines = s.lines := by unfold postReq; split <;> rfl
@[simp] theorem postReq_coreUse (s : State) (r : WordReq) : (postReq s r).coreUse = s.coreUse := by unfold postReq; split <;> rfl
@[simp] theorem postReq_shUse (s : State) (r : WordReq) : (postReq s r).shUse = s.shUse := by unfold postReq; split <;> rfl
@[simp] theorem postReq_tlb (s : State) (r : WordReq) : (postReq s r).tlb = s.tlb := by unfold postReq; split <;> rfl
@[simp] theorem postReq_faults (s : State) (r : WordReq) : (postReq s r).faults = s.faults := by unfold postReq; split <;> rfl
@[simp] theorem postReq_verdicts (s : State) (r : WordReq) : (postReq s r).verdicts = s.verdicts := by unfold postReq; split <;> rfl
@[simp] theorem postReq_sq (s : State) (r : WordReq) : (postReq s r).sq = s.sq := by unfold postReq; split <;> rfl
@[simp] theorem postReq_early (s : State) (r : WordReq) : (postReq s r).early = s.early := by unfold postReq; split <;> rfl
@[simp] theorem postReq_oplog (s : State) (r : WordReq) : (postReq s r).oplog = s.oplog := by unfold postReq; split <;> rfl
@[simp] theorem postReq_psets (s : State) (r : WordReq) : (postReq s r).psets = s.psets := by unfold postReq; split <;> rfl
@[simp] theorem postReq_spad (s : State) (r : WordReq) : (postReq s r).spad = s.spad := by unfold postReq; split <;> rfl
@[simp] theorem postReq_padw (s : State) (r : WordReq) : (postReq s r).padw = s.padw := by unfold postReq; split <;> rfl
@[simp] theorem postReq_scale (s : State) (r : WordReq) : (postReq s r).scale = s.scale := by unfold postReq; split <;> rfl
@[simp] theorem postReq_pchOff (s : State) (r : WordReq) : (postReq s r).pchOff = s.pchOff := by unfold postReq; split <;> rfl
@[simp] theorem postReq_life (s : State) (r : WordReq) : (postReq s r).life = s.life := by unfold postReq; split <;> rfl
@[simp] theorem postReq_launches (s : State) (r : WordReq) : (postReq s r).launches = s.launches := by unfold postReq; split <;> rfl
@[simp] theorem postReq_graphs (s : State) (r : WordReq) : (postReq s r).graphs = s.graphs := by unfold postReq; split <;> rfl
@[simp] theorem postReq_cmds (s : State) (r : WordReq) : (postReq s r).cmds = s.cmds := by unfold postReq; split <;> rfl
@[simp] theorem postReq_rcache (s : State) (r : WordReq) : (postReq s r).rcache = s.rcache := by unfold postReq; split <;> rfl
@[simp] theorem postReq_meets (s : State) (r : WordReq) : (postReq s r).meets = s.meets := by unfold postReq; split <;> rfl
@[simp] theorem postReq_qmeets (s : State) (r : WordReq) : (postReq s r).qmeets = s.qmeets := by unfold postReq; split <;> rfl
@[simp] theorem postReq_refused (s : State) (r : WordReq) : (postReq s r).refused = s.refused := by unfold postReq; split <;> rfl
@[simp] theorem postReq_serials (s : State) (r : WordReq) : (postReq s r).serials = s.serials := by unfold postReq; split <;> rfl
@[simp] theorem postReq_pchs (s : State) (r : WordReq) : (postReq s r).pchs = s.pchs := by unfold postReq; split <;> rfl
@[simp] theorem postReq_stks (s : State) (r : WordReq) : (postReq s r).stks = s.stks := by unfold postReq; split <;> rfl
@[simp] theorem postReq_frames (s : State) (r : WordReq) : (postReq s r).frames = s.frames := by unfold postReq; split <;> rfl
@[simp] theorem postReq_tiles (s : State) (r : WordReq) : (postReq s r).tiles = s.tiles := by unfold postReq; split <;> rfl
@[simp] theorem postReq_tenants (s : State) (r : WordReq) : (postReq s r).tenants = s.tenants := by unfold postReq; split <;> rfl
@[simp] theorem postReq_fab (s : State) (r : WordReq) : (postReq s r).fab = s.fab := by unfold postReq; split <;> rfl
@[simp] theorem postReq_key (s : State) (r : WordReq) : (postReq s r).key = s.key := by unfold postReq; split <;> rfl
@[simp] theorem postReq_power (s : State) (r : WordReq) : (postReq s r).power = s.power := by unfold postReq; split <;> rfl
@[simp] theorem postReq_units (s : State) (r : WordReq) : (postReq s r).units = s.units := by unfold postReq; split <;> rfl
@[simp] theorem postReq_images (s : State) (r : WordReq) : (postReq s r).images = s.images := by unfold postReq; split <;> rfl
@[simp] theorem postReq_cycle (s : State) (r : WordReq) : (postReq s r).cycle = s.cycle := by unfold postReq; split <;> rfl
@[simp] theorem postReq_freeCtr (s : State) (r : WordReq) : (postReq s r).freeCtr = s.freeCtr := by unfold postReq; split <;> rfl
@[simp] theorem postReq_tick (s : State) (r : WordReq) : (postReq s r).tick = s.tick := by unfold postReq; split <;> rfl
@[simp] theorem postReq_agenda (s : State) (r : WordReq) : (postReq s r).agenda = s.agenda := by unfold postReq; split <;> rfl
@[simp] theorem postReq_cur (s : State) (r : WordReq) : (postReq s r).cur = s.cur := by unfold postReq; split <;> rfl
@[simp] theorem postReq_curLane (s : State) (r : WordReq) : (postReq s r).curLane = s.curLane := by unfold postReq; split <;> rfl

/-! ### State.setFrames -/

@[simp] theorem State.setFrames_groups (s : State) (n : Nat) (l : List Nat) : (s.setFrames n l).groups = s.groups := rfl
@[simp] theorem State.setFrames_teams (s : State) (n : Nat) (l : List Nat) : (s.setFrames n l).teams = s.teams := rfl
@[simp] theorem State.setFrames_deeds (s : State) (n : Nat) (l : List Nat) : (s.setFrames n l).deeds = s.deeds := rfl
@[simp] theorem State.setFrames_contexts (s : State) (n : Nat) (l : List Nat) : (s.setFrames n l).contexts = s.contexts := rfl
@[simp] theorem State.setFrames_dram (s : State) (n : Nat) (l : List Nat) : (s.setFrames n l).dram = s.dram := rfl
@[simp] theorem State.setFrames_synd (s : State) (n : Nat) (l : List Nat) : (s.setFrames n l).synd = s.synd := rfl
@[simp] theorem State.setFrames_scrubs (s : State) (n : Nat) (l : List Nat) : (s.setFrames n l).scrubs = s.scrubs := rfl
@[simp] theorem State.setFrames_reqs (s : State) (n : Nat) (l : List Nat) : (s.setFrames n l).reqs = s.reqs := rfl
@[simp] theorem State.setFrames_lines (s : State) (n : Nat) (l : List Nat) : (s.setFrames n l).lines = s.lines := rfl
@[simp] theorem State.setFrames_coreUse (s : State) (n : Nat) (l : List Nat) : (s.setFrames n l).coreUse = s.coreUse := rfl
@[simp] theorem State.setFrames_shUse (s : State) (n : Nat) (l : List Nat) : (s.setFrames n l).shUse = s.shUse := rfl
@[simp] theorem State.setFrames_tlb (s : State) (n : Nat) (l : List Nat) : (s.setFrames n l).tlb = s.tlb := rfl
@[simp] theorem State.setFrames_faults (s : State) (n : Nat) (l : List Nat) : (s.setFrames n l).faults = s.faults := rfl
@[simp] theorem State.setFrames_verdicts (s : State) (n : Nat) (l : List Nat) : (s.setFrames n l).verdicts = s.verdicts := rfl
@[simp] theorem State.setFrames_sq (s : State) (n : Nat) (l : List Nat) : (s.setFrames n l).sq = s.sq := rfl
@[simp] theorem State.setFrames_early (s : State) (n : Nat) (l : List Nat) : (s.setFrames n l).early = s.early := rfl
@[simp] theorem State.setFrames_oplog (s : State) (n : Nat) (l : List Nat) : (s.setFrames n l).oplog = s.oplog := rfl
@[simp] theorem State.setFrames_psets (s : State) (n : Nat) (l : List Nat) : (s.setFrames n l).psets = s.psets := rfl
@[simp] theorem State.setFrames_spad (s : State) (n : Nat) (l : List Nat) : (s.setFrames n l).spad = s.spad := rfl
@[simp] theorem State.setFrames_padw (s : State) (n : Nat) (l : List Nat) : (s.setFrames n l).padw = s.padw := rfl
@[simp] theorem State.setFrames_scale (s : State) (n : Nat) (l : List Nat) : (s.setFrames n l).scale = s.scale := rfl
@[simp] theorem State.setFrames_pchOff (s : State) (n : Nat) (l : List Nat) : (s.setFrames n l).pchOff = s.pchOff := rfl
@[simp] theorem State.setFrames_life (s : State) (n : Nat) (l : List Nat) : (s.setFrames n l).life = s.life := rfl
@[simp] theorem State.setFrames_launches (s : State) (n : Nat) (l : List Nat) : (s.setFrames n l).launches = s.launches := rfl
@[simp] theorem State.setFrames_graphs (s : State) (n : Nat) (l : List Nat) : (s.setFrames n l).graphs = s.graphs := rfl
@[simp] theorem State.setFrames_cmds (s : State) (n : Nat) (l : List Nat) : (s.setFrames n l).cmds = s.cmds := rfl
@[simp] theorem State.setFrames_rcache (s : State) (n : Nat) (l : List Nat) : (s.setFrames n l).rcache = s.rcache := rfl
@[simp] theorem State.setFrames_meets (s : State) (n : Nat) (l : List Nat) : (s.setFrames n l).meets = s.meets := rfl
@[simp] theorem State.setFrames_qmeets (s : State) (n : Nat) (l : List Nat) : (s.setFrames n l).qmeets = s.qmeets := rfl
@[simp] theorem State.setFrames_refused (s : State) (n : Nat) (l : List Nat) : (s.setFrames n l).refused = s.refused := rfl
@[simp] theorem State.setFrames_serials (s : State) (n : Nat) (l : List Nat) : (s.setFrames n l).serials = s.serials := rfl
@[simp] theorem State.setFrames_pchs (s : State) (n : Nat) (l : List Nat) : (s.setFrames n l).pchs = s.pchs := rfl
@[simp] theorem State.setFrames_stks (s : State) (n : Nat) (l : List Nat) : (s.setFrames n l).stks = s.stks := rfl
@[simp] theorem State.setFrames_tiles (s : State) (n : Nat) (l : List Nat) : (s.setFrames n l).tiles = s.tiles := rfl
@[simp] theorem State.setFrames_tenants (s : State) (n : Nat) (l : List Nat) : (s.setFrames n l).tenants = s.tenants := rfl
@[simp] theorem State.setFrames_fab (s : State) (n : Nat) (l : List Nat) : (s.setFrames n l).fab = s.fab := rfl
@[simp] theorem State.setFrames_key (s : State) (n : Nat) (l : List Nat) : (s.setFrames n l).key = s.key := rfl
@[simp] theorem State.setFrames_power (s : State) (n : Nat) (l : List Nat) : (s.setFrames n l).power = s.power := rfl
@[simp] theorem State.setFrames_units (s : State) (n : Nat) (l : List Nat) : (s.setFrames n l).units = s.units := rfl
@[simp] theorem State.setFrames_images (s : State) (n : Nat) (l : List Nat) : (s.setFrames n l).images = s.images := rfl
@[simp] theorem State.setFrames_cycle (s : State) (n : Nat) (l : List Nat) : (s.setFrames n l).cycle = s.cycle := rfl
@[simp] theorem State.setFrames_freeCtr (s : State) (n : Nat) (l : List Nat) : (s.setFrames n l).freeCtr = s.freeCtr := rfl
@[simp] theorem State.setFrames_tick (s : State) (n : Nat) (l : List Nat) : (s.setFrames n l).tick = s.tick := rfl
@[simp] theorem State.setFrames_agenda (s : State) (n : Nat) (l : List Nat) : (s.setFrames n l).agenda = s.agenda := rfl
@[simp] theorem State.setFrames_cur (s : State) (n : Nat) (l : List Nat) : (s.setFrames n l).cur = s.cur := rfl
@[simp] theorem State.setFrames_curLane (s : State) (n : Nat) (l : List Nat) : (s.setFrames n l).curLane = s.curLane := rfl

/-! ### The field that an update changes -/

@[simp] theorem State.setGroup_groups (s : State) (g : Nat) (G : Group) : (s.setGroup g G).groups = s.groups.set g G := rfl
@[simp] theorem State.modGroup_groups (s : State) (g : Nat) (f : Group → Group) : (s.modGroup g f).groups = s.groups.modify g f := rfl
@[simp] theorem State.modTeam_teams (s : State) (n : Nat) (f : Team → Team) : (s.modTeam n f).teams = s.teams.modify n f := rfl
@[simp] theorem State.modCtx_contexts (s : State) (n : Nat) (f : Context → Context) : (s.modCtx n f).contexts = s.contexts.modify n f := rfl
@[simp] theorem State.modFab_fab (s : State) (f : Fabric → Fabric) : (s.modFab f).fab = f s.fab := rfl
@[simp] theorem State.modMeet_meets (s : State) (n : Nat) (f : Meet → Meet) : (s.modMeet n f).meets = s.meets.modify n f := rfl
@[simp] theorem State.modCmd_cmds (s : State) (n : Nat) (f : Cmd → Cmd) : (s.modCmd n f).cmds = s.cmds.modify n f := rfl
@[simp] theorem State.useFree_freeCtr (s : State) (n : Nat) : (s.useFree n).freeCtr = s.freeCtr + n := rfl
@[simp] theorem State.count_life (s : State) (k : LifeKey) (n : Nat) : (s.count k n).life = bumpCount k n s.life := rfl

end Sys2Proof.Machine
end

