-- ==== Sys2Proof/Laws/Memory.lean ====
section
/-! SUPPORT. The laws of memory: a read after a write, and that every operation on DRAM keeps the canonical form. -/

namespace Sys2Proof.Machine

/-! ### One byte -/

/-- A byte that has just been written reads as what was written. -/
@[simp] theorem memGet_memSet_same (m : Memory) (a : Nat) (b : Byte) (h : Memory.wf m = true) :
    memGet (memSet m a b) a = b := by
  have key : ∀ (m : Memory) (lo : Nat), Memory.wfFrom lo m = true → memGet (memSet m a b) a = b := by
    intro m
    induction m with
    | nil =>
      intro lo _
      by_cases hb : b = 0#8 <;> simp [memSet, memGet, hb]
    | cons c t ih =>
      intro lo h
      simp only [Memory.wfFrom, Bool.and_eq_true, decide_eq_true_eq] at h
      have low : ∀ (t : Memory) (lo : Nat), a < lo → Memory.wfFrom lo t = true → memGet t a = 0#8 := by
        intro t
        induction t with
        | nil => intros; rfl
        | cons d t ih =>
          intro lo hlt h
          simp only [Memory.wfFrom, Bool.and_eq_true, decide_eq_true_eq] at h
          simp only [memGet]
          rw [if_neg (by omega)]
          exact ih (d.1 + 1) (by omega) h.2
      simp only [memSet]
      split
      · split
        · next hb =>
          simp only [memGet]
          rw [if_neg (by omega), hb]
          exact low t (c.1 + 1) (by omega) h.2
        · simp [memGet]
      · split
        · next heq =>
          split
          · next hb => rw [hb]; exact low t (c.1 + 1) (by omega) h.2
          · simp [memGet]
        · next hne =>
          simp only [memGet]
          rw [if_neg hne]
          exact ih (c.1 + 1) h.2
  exact key m 0 h

/-- A write leaves every other byte as it was. -/
@[simp] theorem memGet_memSet_other (m : Memory) (a x : Nat) (b : Byte) (h : x ≠ a) :
    memGet (memSet m a b) x = memGet m x := by
  induction m with
  | nil => by_cases hb : b = 0#8 <;> simp [memSet, memGet, hb, h]
  | cons c t ih =>
    simp only [memSet]
    split
    · split <;> simp [memGet, h]
    · split
      · next heq => split <;> simp [memGet, h, ← heq]
      · simp only [memGet, ih]

/-- A canonical memory stays canonical when its lower bound falls. -/
theorem wfFrom_le {lo lo' : Nat} {m : Memory} (h : Memory.wfFrom lo m = true) (le : lo' ≤ lo) : Memory.wfFrom lo' m = true := by
  cases m with
  | nil => rfl
  | cons c t =>
    simp only [Memory.wfFrom, Bool.and_eq_true, decide_eq_true_eq] at h ⊢
    exact ⟨⟨by omega, h.1.2⟩, h.2⟩

/-- A write keeps the canonical form. -/
theorem memSet_wfFrom (m : Memory) (a : Nat) (b : Byte) :
    ∀ lo, Memory.wfFrom lo m = true → Memory.wfFrom (min lo a) (memSet m a b) = true := by
  induction m with
  | nil =>
    intro lo _
    by_cases hb : b = 0#8 <;> simp [memSet, Memory.wfFrom, hb, Nat.min_le_right]
  | cons c t ih =>
    intro lo h
    have hc := h
    simp only [Memory.wfFrom, Bool.and_eq_true, decide_eq_true_eq] at h
    simp only [memSet]
    split
    · next hlt =>
      split
      · exact wfFrom_le hc (Nat.min_le_left _ _)
      · next hb =>
        simp only [Memory.wfFrom, Bool.and_eq_true, decide_eq_true_eq]
        exact ⟨⟨Nat.min_le_right _ _, hb⟩, ⟨⟨by omega, h.1.2⟩, h.2⟩⟩
    · split
      · next heq =>
        split
        · exact wfFrom_le h.2 (by omega)
        · next hb =>
          simp only [Memory.wfFrom, Bool.and_eq_true, decide_eq_true_eq]
          exact ⟨⟨Nat.min_le_right _ _, hb⟩, by rw [heq]; exact h.2⟩
      · next hne =>
        simp only [Memory.wfFrom, Bool.and_eq_true, decide_eq_true_eq]
        refine ⟨⟨by omega, h.1.2⟩, ?_⟩
        have := ih (c.1 + 1) h.2
        rwa [Nat.min_eq_left (by omega)] at this

/-- A write of one byte keeps the canonical form. -/
theorem memSet_wf {m : Memory} (a : Nat) (b : Byte) (h : Memory.wf m = true) : Memory.wf (memSet m a b) = true := by
  have := memSet_wfFrom m a b 0 h
  rwa [Nat.zero_min] at this

/-- A write of several bytes keeps the canonical form. -/
theorem memSetBytes_wf (l : List Byte) : ∀ {m : Memory} (a : Nat), Memory.wf m = true → Memory.wf (memSetBytes m a l) = true := by
  induction l with
  | nil => intro m a h; exact h
  | cons b t ih => intro m a h; exact ih (a + 1) (memSet_wf a b h)

/-! ### Several bytes -/

/-- Bytes outside a written range are as they were. -/
theorem memGet_memSetBytes_other (l : List Byte) :
    ∀ (m : Memory) (a x : Nat), x < a ∨ a + l.length ≤ x → memGet (memSetBytes m a l) x = memGet m x := by
  induction l with
  | nil => intros; rfl
  | cons b t ih =>
    intro m a x h
    simp only [List.length_cons] at h
    simp only [memSetBytes]
    rw [ih (memSet m a b) (a + 1) x (by omega), memGet_memSet_other m a x b (by omega)]

/-- Bytes that have just been written read as what was written. -/
theorem memBytes_memSetBytes (l : List Byte) :
    ∀ (m : Memory) (a : Nat), Memory.wf m = true → memBytes (memSetBytes m a l) a l.length = l := by
  induction l with
  | nil => intros; rfl
  | cons b t ih =>
    intro m a h
    simp only [memSetBytes, List.length_cons, memBytes]
    rw [ih _ _ (memSet_wf a b h), memGet_memSetBytes_other t _ (a + 1) a (by omega), memGet_memSet_same m a b h]

/-! ### DRAM words -/

/-- Memory and syndromes in canonical form stay so when a word is written. -/
theorem dramWrite_memOk {s : State} (pa : Nat) (x : W32) (h : s.memOk = true) : (dramWrite s pa x).memOk = true := by
  simp only [State.memOk, Bool.and_eq_true] at h ⊢
  exact ⟨memSetBytes_wf _ _ h.1, memSet_wf _ _ h.2⟩

/-- The same of a word that is poisoned. -/
theorem dramPoison_memOk {s : State} (pa : Nat) (h : s.memOk = true) : (dramPoison s pa).memOk = true := by
  simp only [State.memOk, Bool.and_eq_true] at h ⊢
  exact ⟨memSetBytes_wf _ _ h.1, memSet_wf _ _ h.2⟩

/-- The same of bits that are flipped. -/
theorem dramFlip_memOk {s : State} (pa : Nat) (x : W32) (c : Byte) (h : s.memOk = true) : (dramFlip s pa x c).memOk = true := by
  simp only [State.memOk, Bool.and_eq_true] at h ⊢
  exact ⟨memSetBytes_wf _ _ h.1, memSet_wf _ _ h.2⟩

/-- A double written by the physical path keeps the canonical form. -/
theorem dramWrite64_memOk {s : State} (pa : Nat) (x : W64) (h : s.memOk = true) : (dramWrite64 s pa x).memOk = true :=
  dramWrite_memOk _ _ (dramWrite_memOk _ _ h)

/-- A read of a word, which may poison it, keeps the canonical form. -/
theorem dramRead_memOk {s : State} (pa : Nat) (h : s.memOk = true) : (dramRead s pa).2.memOk = true := by
  unfold dramRead
  split
  · exact h
  · exact dramPoison_memOk pa h
  · exact h

/-- The state after reset is in canonical form. -/
theorem reset_memOk : State.reset.memOk = true := rfl

/-! ### Check bytes -/

/-- A word read at its own index has the syndrome that is stored with it (R231, R232). -/
theorem syndromeAt_self (s : State) (pa : Nat) : syndromeAt s pa pa = wordSyn s pa := by
  unfold syndromeAt storedCheck
  rw [BitVec.xor_comm, ← BitVec.xor_assoc, BitVec.xor_self, BitVec.zero_xor]

/-! ### Cells of the scratchpad -/

/-- A cell that has just been written reads as what was written. -/
@[simp] theorem cellGet_cellSet_same (m : List Host.Cell) (a : Nat) (b : Byte) : cellGet (cellSet m a b) a = some b := by
  induction m with
  | nil => simp [cellSet, cellGet]
  | cons c t ih =>
    simp only [cellSet]
    split
    · simp [cellGet]
    · split
      · simp [cellGet]
      · next hne => simp only [cellGet]; rw [if_neg hne]; exact ih

/-- Every other cell is as it was. -/
@[simp] theorem cellGet_cellSet_other (m : List Host.Cell) (a x : Nat) (b : Byte) (h : x ≠ a) :
    cellGet (cellSet m a b) x = cellGet m x := by
  induction m with
  | nil => simp [cellSet, cellGet, h]
  | cons c t ih =>
    simp only [cellSet]
    split
    · simp [cellGet, h]
    · split
      · next heq => simp [cellGet, h, ← heq]
      · simp only [cellGet, ih]

end Sys2Proof.Machine
end

