-- ==== Sys2Proof/Laws/Access.lean ====
section
/-! SUPPORT. What translation, the caches and the part's own accesses can change: memory, what the caches keep of it, counts, and the delta
map's failure bit; and nothing else. -/

namespace Sys2Proof.Machine

/-- What accesses to memory keep: a property of states that no change of the caches, the TLBs, the store queues, the counts or the
open faults can end, that a write of DRAM keeps, and that a failure of a delta map keeps. -/
structure MemStable (P : State → Prop) : Prop where
  rest : ∀ {s : State}, P s → ∀ {li cu sh tl fr lf sc rq sq ea op ps fa ve fb fm ti}, P { s with
    lines := li, coreUse := cu, shUse := sh, tlb := tl, freeCtr := fr, life := lf, scrubs := sc, reqs := rq, sq := sq, early := ea
    oplog := op, psets := ps, faults := fa, verdicts := ve, fab := fb, frames := fm, tiles := ti }
  write : ∀ {s : State} (pa : Nat) (x : W32), P s → P (dramWrite s pa x)
  poison : ∀ {s : State} (pa : Nat), P s → P (dramPoison s pa)
  delta : ∀ {s : State} (n : Nat), P s → P (deltaFail s n)
  syncs : ∀ {s : State} (f : PadWrite → PadWrite), (∀ p, (f p).fixed = p.fixed) → P s → P { s with padw := s.padw.map f }

/-- DRAM in canonical form is such a property. -/
theorem memOk_stable : MemStable fun s => s.memOk = true where
  rest h := h
  write pa x h := dramWrite_memOk pa x h
  poison pa h := dramPoison_memOk pa h
  delta _ h := h
  syncs _ _ h := h

/-- To keep what lies outside is such a property. -/
theorem sameOutside_stable (s : State) : MemStable (SameOutside s) where
  rest h := ⟨by rw [h.1], h.2⟩
  write pa x h := ⟨by rw [h.1]; rfl, h.2⟩
  poison pa h := ⟨by rw [h.1]; rfl, h.2⟩
  syncs {t} f hf h := by
    refine ⟨by rw [h.1], h.2.1, ?_⟩
    rw [← h.2.2, List.map_map]
    exact List.map_congr_left fun p _ => hf p
  delta {t} n h := by
    refine ⟨by rw [h.1]; rfl, ?_, h.2.2⟩
    rw [← h.2.1]
    apply List.ext_getElem?
    intro m
    simp only [deltaFail, State.modCtx, List.getElem?_map, List.getElem?_modify]
    cases t.contexts[m]? with
    | none => rfl
    | some c =>
      simp only [Option.map_some, Option.map_eq_map]
      split <;> rfl

/-- Nothing has changed at first, and two changes of memory are one. -/
theorem SameOutside.refl (s : State) : SameOutside s s := ⟨rfl, rfl, rfl⟩
theorem SameOutside.trans {s t u : State} (a : SameOutside s t) (b : SameOutside t u) : SameOutside s u :=
  ⟨by rw [b.1, a.1], b.2.1.trans a.2.1, b.2.2.trans a.2.2⟩

/-- A context of a state with the same outside is the same but for its XLCTL. -/
theorem SameOutside.context {s t : State} (h : SameOutside s t) (n : Nat) :
    (t.contexts[n]?).map Context.fixed = (s.contexts[n]?).map Context.fixed := by
  have := congrArg (·[n]?) h.2.1
  simpa only [List.getElem?_map] using this

/-- What a pair's second part keeps, the pair's name keeps. -/
theorem snd_keeps {P : State → Prop} {α : Type} {p : α × State} {a : α} {t : State} (e : p = (a, t)) (h : P p.2) : P t := by
  rw [e] at h
  exact h

section
variable {P : State → Prop} (st : MemStable P)
include st

/-! ### Folds -/

omit st in
theorem foldl_keeps {α : Type} {f : State → α → State} (hf : ∀ s x, P s → P (f s x)) :
    ∀ (l : List α) {s : State}, P s → P (l.foldl f s)
  | [], _, h => h
  | x :: t, _, h => foldl_keeps hf t (hf _ x h)

/-! ### DRAM -/

theorem dramWrite64_keeps {s : State} (pa : Nat) (x : W64) (h : P s) : P (dramWrite64 s pa x) := st.write _ _ (st.write _ _ h)

theorem dramRead_keeps {s : State} (pa : Nat) (h : P s) : P (dramRead s pa).2 := by
  unfold dramRead
  split
  · exact h
  · exact (st.rest (st.poison pa h) :)
  · exact (st.rest h :)

theorem dramRead64_keeps {s : State} (pa : Nat) (h : P s) : P (dramRead64 s pa).2 := by
  unfold dramRead64
  split
  · next s1 e => exact snd_keeps e (dramRead_keeps st pa h)
  · next s1 e =>
    have h1 := snd_keeps e (dramRead_keeps st pa h)
    split
    · next s2 e2 => exact snd_keeps e2 (dramRead_keeps st _ h1)
    · next s2 e2 => exact snd_keeps e2 (dramRead_keeps st _ h1)

theorem physRead_keeps {s : State} (pa : Nat) (h : P s) : P (physRead s pa).2 := by
  unfold physRead
  split
  · exact dramRead_keeps st pa h
  · exact h

theorem postReq_keeps {s : State} (r : WordReq) (h : P s) : P (postReq s r) := by
  unfold postReq
  split
  · exact h
  · exact (st.rest h :)

theorem reqRead_keeps {s : State} (pa key : Nat) (h : P s) : P (reqRead s pa key).2 := by
  unfold reqRead
  split
  · exact dramRead_keeps st pa h
  · split <;> next e =>
      have k : P (takeFailed s pa key).2 := (st.rest h :)
      first
        | exact snd_keeps e k
        | exact dramRead_keeps st pa (snd_keeps e k)

theorem physWords_keeps : ∀ (l : List Nat) {s : State}, P s → P (physWords s l).2
  | [], _, h => h
  | pa :: t, s, h => by
    have k : P (if wordExists s pa then dramRead s pa else (none, s)).2 := by
      split
      · exact dramRead_keeps st pa h
      · exact h
    unfold physWords
    split
    · next e => exact snd_keeps e k
    · next e =>
      have k2 := physWords_keeps t (snd_keeps e k)
      split
      · next e2 => exact snd_keeps e2 k2
      · next r _ => exact k2

/-! ### Translation and frames -/

theorem walkEntry_keeps {s : State} (asid : BitVec 16) (va table level : Nat) (h : P s) : P (walkEntry s asid va table level).2 := by
  have k : P (if wordExists s (table + 8 * tableIndex va level) then dramRead64 s (table + 8 * tableIndex va level)
      else (none, s)).2 := by
    split
    · exact dramRead64_keeps st _ h
    · exact h
  unfold walkEntry
  simp only
  split
  · next e => exact snd_keeps e k
  · next e =>
    have := snd_keeps e k
    repeat' split
    all_goals exact this

theorem walkFrom_keeps (asid : BitVec 16) (va : Nat) : ∀ (n table : Nat) (s : State), P s → P (walkFrom s asid va table n).2
  | 0, table, s, h => by
    unfold walkFrom
    split <;> next e => exact snd_keeps e (walkEntry_keeps st _ _ _ _ h)
  | n + 1, table, s, h => by
    unfold walkFrom
    split
    · next e => exact snd_keeps e (walkEntry_keeps st _ _ _ _ h)
    · next e => exact snd_keeps e (walkEntry_keeps st _ _ _ _ h)
    · next e => exact walkFrom_keeps asid va n _ _ (snd_keeps e (walkEntry_keeps st _ _ _ _ h))

theorem xlate_keeps {s : State} (c : Context) (va : Nat) (n : Need) (h : P s) : P (xlate s c va n).2 := by
  have walk := walkFrom_keeps st c.asid va 3 c.root s h
  unfold xlate
  simp only
  repeat' split
  all_goals first
    | exact snd_keeps (p := walkFrom s c.asid va c.root 3) (by assumption) walk
    | exact (st.rest (snd_keeps (p := walkFrom s c.asid va c.root 3) (by assumption) walk) :)
    | exact (st.rest h :)

theorem noticeCtx_keeps {s : State} (n : Nat) (b : PktBody) (h : P s) : P (noticeCtx s n b) := by
  unfold noticeCtx
  split
  · exact (st.rest h :)
  · exact h

theorem postFault_keeps {s : State} (n : Nat) (c : Context) (p : Party) (va : Nat) (f : XFault) (h : P s) :
    P (postFault s n c p va f).2 := by
  have k : P (openRecord s n c [(p, f.sub)] va f) := by
    unfold openRecord
    simp only
    repeat' split
    all_goals first
      | exact (st.rest h :)
      | exact noticeCtx_keeps st _ _ ((st.rest h :))
  unfold postFault
  repeat' split
  all_goals first
    | exact h
    | exact k
    | exact (st.rest h :)

theorem readExist_keeps {s : State} (c : Context) (ex : Nat) (big : Bool) (h : P s) : P (readExist s c ex big).2 := by
  have k := dramRead64_keeps st ex h
  unfold readExist
  split
  · next e => exact snd_keeps e k
  · next x s1 e =>
    have k2 := physRead_keeps st (regionAt c (mapRegion x) 4) (snd_keeps e k)
    split
    · next e2 => exact snd_keeps e2 k2
    · next e2 =>
      have k3 := snd_keeps e2 k2
      simp only
      repeat' split
      all_goals exact k3

theorem poolTake_keeps {s : State} (c : Context) (r : BitVec 8) (h : P s) : P (poolTake s c r).2 := by
  unfold poolTake
  split
  · next e => exact snd_keeps e (physRead_keeps st _ h)
  next e =>
  have h := snd_keeps e (physRead_keeps st _ h)
  split
  · exact h
  split
  · next e => exact snd_keeps e (dramRead64_keeps st _ h)
  next e =>
  have h := snd_keeps e (dramRead64_keeps st _ h)
  split
  · next e => exact snd_keeps e (physRead_keeps st _ h)
  next e =>
  have h := snd_keeps e (physRead_keeps st _ h)
  split
  · next e => exact snd_keeps e (physRead_keeps st _ h)
  next e =>
  have h := snd_keeps e (physRead_keeps st _ h)
  split
  · next e => exact snd_keeps e (dramRead64_keeps st _ h)
  next e =>
  have h := snd_keeps e (dramRead64_keeps st _ h)
  exact dramWrite64_keeps st _ _ (st.write _ _ (st.write _ _ h))

theorem poolReturn_keeps {s : State} (c : Context) (r : BitVec 8) (f : BitVec 27) (h : P s) : P (poolReturn s c r f).2 := by
  unfold poolReturn
  split
  · split
    · exact dramWrite64_keeps st _ _ (st.write _ _ (st.write _ _ (st.write _ _ h)))
    · exact h
  · exact h

theorem readPool_keeps {s : State} (c : Context) (r : BitVec 8) (h : P s) : P (readPool s c r).2 := by
  have k := physWords_keeps st ([4, 8, 12, 16, 20, 24, 28].map (regionAt c r)) h
  unfold readPool
  split <;> next e => exact snd_keeps (p := physWords s _) (by assumption) k

theorem poolPush_keeps {s : State} (c : Context) (r : BitVec 8) (p : Pool) (fs : List (BitVec 27)) (h : P s) :
    P (poolPush s c r p fs) :=
  st.write _ _ (foldl_keeps (fun _ _ h => st.write _ _ h) _ h)

/-! ### The caches -/

theorem settle_keeps {s : State} (k : Nat) (h : P s) : P (settle s k) := by
  unfold settle
  repeat' split
  all_goals first
    | exact h
    | exact (st.rest h :)

theorem devRead_keeps {s : State} (k pa : Nat) (h : P s) : P (devRead s k pa).2 := by
  have k1 := settle_keeps st k h
  unfold devRead
  simp only
  repeat' split
  all_goals first
    | exact k1
    | exact dramRead_keeps st _ k1

theorem devWrite_keeps {s : State} (k pa : Nat) (x : W32) (h : P s) : P (devWrite s k pa x) := by
  have k1 := settle_keeps st k h
  unfold devWrite
  simp only
  split
  · exact (st.rest k1 :)
  · exact st.write _ _ k1

theorem takeBorn_keeps {s : State} (c : Context) (r : BitVec 8) (h : P s) : P (takeBorn s c r).2 := by
  have k := poolTake_keeps st c r h
  have a : ∀ {t : State}, P t → P (autoRefill t c r).2 ∧ ∀ u, (autoRefill t c r).1 = some u → P u := by
    intro t ht
    have k1 := physRead_keeps st (regionAt c r 4) ht
    unfold autoRefill
    split
    · next e => exact ⟨snd_keeps e k1, by simp⟩
    next e =>
    have k1 := snd_keeps e k1
    split
    · have k2 := readPool_keeps st c r k1
      split
      · next e => exact ⟨snd_keeps e k2, by simp⟩
      next p u e =>
      have k2 := snd_keeps e k2
      have k3 : P (takeTiles u (min p.refill p.room)).2 := (st.rest k2 :)
      simp only
      exact ⟨k3, by rintro v ⟨⟩; exact poolPush_keeps st _ _ _ _ k3⟩
    · exact ⟨k1, by rintro v ⟨⟩; exact k1⟩
  unfold takeBorn
  split
  · next e =>
    have k := snd_keeps e k
    split
    · next e => exact poolTake_keeps st _ _ ((a k).2 _ (by rw [e]))
    · next e => exact snd_keeps e (a k).1
  · exact k

theorem birthTile_keeps {s : State} (c : Context) (r : BitVec 8) (ex : Nat) (h : P s) : P (birthTile s c r ex).2 := by
  have k1 := physRead_keeps st (regionAt c r 0) h
  unfold birthTile
  split
  · next e => exact snd_keeps e k1
  next e =>
  have k2 := takeBorn_keeps st c r (snd_keeps e k1)
  split
  · next e => exact snd_keeps e k2
  · next e => exact snd_keeps e k2
  · next e =>
    have fill : ∀ (n pa : Nat) (x : W32) {t : State}, P t → P (fillWords t pa x n) := by
      intro n
      induction n with
      | zero => exact fun _ _ _ h => h
      | succ n ih => exact fun pa x t h => ih _ _ (st.write pa x h)
    exact dramWrite64_keeps st _ _ (fill _ _ _ (snd_keeps e k2))

theorem deltaPlace_keeps {s : State} (c : Context) (r : Nat) (h : P s) : P (deltaPlace s c r).2 := by
  unfold deltaPlace
  split
  · exact h
  split
  · next e => exact snd_keeps e (xlate_keeps st _ _ _ h)
  next e =>
  have h := snd_keeps e (xlate_keeps st _ _ _ h)
  simp only
  split
  · exact h
  split
  · exact h
  split <;> next e =>
    have h := snd_keeps e (readExist_keeps st _ _ _ h)
    first
      | exact h
      | (split <;> next e => exact snd_keeps e (birthTile_keeps st _ _ _ h))

theorem recordSector_keeps {s : State} (n va : Nat) (h : P s) : P (recordSector s n va) := by
  unfold recordSector
  split
  · exact h
  split
  · exact h
  simp only
  split
  · next e => exact st.delta _ (snd_keeps e (deltaPlace_keeps st _ _ h))
  next e =>
  have h := snd_keeps e (deltaPlace_keeps st _ _ h)
  split
  · next e => exact st.delta _ (snd_keeps e (devRead_keeps st _ _ h))
  next e =>
  have h := snd_keeps e (devRead_keeps st _ _ h)
  split
  · next e => exact st.delta _ (snd_keeps e (devRead_keeps st _ _ h))
  next e =>
  have h := snd_keeps e (devRead_keeps st _ _ h)
  split
  · next e => exact st.delta _ (snd_keeps e (devRead_keeps st _ _ h))
  · next e => exact devWrite_keeps st _ _ _ (devWrite_keeps st _ _ _ (devWrite_keeps st _ _ _ (snd_keeps e (devRead_keeps st _ _ h))))

theorem recordSectors_keeps (ctx : Nat) : ∀ (n va : Nat) {s : State}, P s → P (recordSectors s ctx va n)
  | 0, _, _, h => h
  | n + 1, _, _, h => recordSectors_keeps ctx n _ (recordSector_keeps st _ _ h)

theorem writeBackWord_keeps {s : State} (l : Line) (h : P s) : P (writeBackWord s l) := by
  unfold writeBackWord
  repeat' split
  all_goals first
    | exact h
    | exact st.write _ _ (st.rest h :)

theorem flushRange_keeps {s : State} (lo n : Nat) (h : P s) : P (flushRange s lo n) := by
  have k1 : P (settleRange s lo n) := by
    unfold settleRange
    exact foldl_keeps (fun _ _ h => settle_keeps st _ h) _ h
  have k2 := foldl_keeps (fun _ l h => writeBackWord_keeps st l h) (linesIn (settleRange s lo n) lo n) k1
  exact foldl_keeps (fun _ _ h => recordSector_keeps st _ _ h) _ ((st.rest k2 :))

theorem evictCoreBlock_keeps {s : State} (core lo : Nat) (h : P s) : P (evictCoreBlock s core lo) :=
  foldl_keeps (fun _ _ h => recordSector_keeps st _ _ h) _ ((st.rest h :))

theorem useShared_keeps {s : State} (block tid : Nat) (h : P s) : P (useShared s block tid) := by
  unfold useShared
  split
  · exact (st.rest h :)
  · simp only
    repeat' split
    all_goals first
      | exact (st.rest h :)
      | exact (st.rest (foldl_keeps (fun _ _ h => flushRange_keeps st _ _ h) _ h) :)

theorem useCore_keeps {s : State} (core block : Nat) (h : P s) : P (useCore s core block) := by
  have k : P (((coreRivals s core block).drop 15).foldl (fun s v => evictCoreBlock s core (32 * v.2)) s) :=
    foldl_keeps (fun _ _ h => evictCoreBlock_keeps st _ _ h) _ h
  exact (st.rest k :)

theorem useLine_keeps {s : State} (l : Line) (core : Option Nat) (h : P s) : P (useLine s l core) := by
  have k := useShared_keeps st (l.key / 32) (tenantNo s (l.ctx.getD 0)) h
  unfold useLine
  simp only
  split
  · exact (st.rest (useCore_keeps st _ _ k) :)
  · exact (st.rest k :)

theorem escrowUpdate_keeps {s : State} (core key : Nat) (t : EscTag) (x : W32) (pa : Nat) (ex ctx : Option Nat) (p : LinePerm)
    (h : P s) : P (escrowUpdate s core key t x pa ex ctx p) := by
  have k := settle_keeps st key h
  have d := dramRead_keeps st pa k
  unfold escrowUpdate
  simp only
  repeat' split
  all_goals first
    | exact useLine_keeps st _ _ h
    | exact useLine_keeps st _ _ k
    | exact useLine_keeps st _ _ d

theorem wroteWord_keeps {s : State} (g : Option Nat) (k : Nat) (b : Bool) (h : P s) : P (wroteWord s g k b) := st.syncs _ (fun _ => rfl) h

theorem sawWord_keeps {s : State} (g k : Nat) (h : P s) : P (sawWord s g k) := st.syncs _ (fun _ => rfl) h

theorem applyWrite_keeps {s : State} (w : PWrite) (h : P s) : P (applyWrite s w) := by
  unfold applyWrite
  · have k := wroteWord_keeps st (some w.group) w.key false (settle_keeps st w.key h)
    simp only
    repeat' split
    all_goals first
      | exact useLine_keeps st _ _ k
      | (next e => exact useLine_keeps st _ _ (snd_keeps e (dramRead_keeps st _ k)))
      | (next e => exact snd_keeps e (dramRead_keeps st _ k))

theorem performAll_keeps {s : State} (p : PWrite → Bool) (h : P s) : P (performAll s p) :=
  (st.rest (foldl_keeps (fun _ w h => applyWrite_keeps st w h) (s.sq.filter fun w => w.stage == 0 && p w) h) :)

theorem flushKey_keeps {s : State} (g k : Nat) (h : P s) : P (flushKey s g k) := performAll_keeps st _ h

theorem flushWrites_keeps {s : State} (lo n : Nat) (h : P s) : P (flushWrites s lo n) :=
  (st.rest (performAll_keeps st (fun w => decide (lo ≤ w.key) && decide (w.key < lo + n)) h) :)

/-! ### Words -/

theorem faultRes_keeps {s : State} (w : Who) (va : Nat) (f : XFault) (h : P s) : P (faultRes s w va f).2 := by
  unfold faultRes
  split <;> next e => exact snd_keeps e (postFault_keeps st _ _ _ _ _ h)

theorem missRead_keeps {s : State} (l : Loc) (key : Nat) (i : LocInfo) (h : P s) : P (missRead s l key i).2 := by
  unfold missRead
  repeat' split
  all_goals first
    | exact h
    | exact reqRead_keeps st _ _ h

theorem readWord_keeps {s : State} (w : Who) (x : Nat) (l : Loc) (h : P s) : P (readWord s w x l).2 := by
  unfold readWord
  split
  · exact h
  · exact h
  · simp only
    split
    · next e =>
      unfold takeEarly at e
      split at e
      · cases e
      · simp only [Option.map_eq_some_iff] at e
        obtain ⟨_, _, e⟩ := e
        cases e
        exact (st.rest h :)
    · have k2 := sawWord_keeps st w.group (l.key x) (settle_keeps st (l.key x) h)
      split
      · next ln _ => exact useLine_keeps st (ln.readBy w.core) (some w.core) k2
      · split
        · exact k2
        · split
          · next e => exact useLine_keeps st ⟨_, _, _, _, _, _⟩ (some w.core) (snd_keeps e (missRead_keeps st _ _ _ k2))
          · next e => exact snd_keeps e (missRead_keeps st _ _ _ k2)

theorem commitWord_keeps {s : State} (w : Who) (entry x : Nat) (l : Loc) (en : BitVec 4) (v : W32) (h : P s) :
    P (commitWord s w entry x l en v) := by
  have k : P (dropEarlyAt s w.group w.stream (l.key x)) := (st.rest h :)
  unfold commitWord
  simp only
  split
  · exact (st.rest k :)
  · exact (st.rest (applyWrite_keeps st _ (flushKey_keeps st _ _ k)) :)

theorem devReadLoc_keeps {s : State} (x : Nat) (l : Loc) (h : P s) : P (devReadLoc s x l).2 := by
  have k := settle_keeps st (l.key x) h
  unfold devReadLoc
  split
  · exact h
  · exact h
  · simp only
    split
    · exact k
    · exact missRead_keeps st _ _ _ k

/-! ### Spill areas and records -/

theorem areaPlace_keeps {s : State} (c : Context) (va : Nat) (h : P s) : P (areaPlace s c va).2 := by
  unfold areaPlace
  split <;> next e => exact snd_keeps e (xlate_keeps st _ _ _ h)

theorem useBlocks_keeps {s : State} (core tid : Nat) (bs : List Nat) (h : P s) : P (useBlocks s core tid bs) :=
  foldl_keeps (fun _ b h => useCore_keeps st core b (useShared_keeps st b tid h)) bs h

theorem areaPut_keeps {s : State} (core : Nat) (c : Context) (va : Nat) (ws : List W32) (h : P s) : P (areaPut s core c va ws) :=
  (st.rest (useBlocks_keeps st core c.tenant (blocksOf (lineKey (areaPlace s c va).1.tag (va / 4)) ws.length)
    (areaPlace_keeps st c va h)) :)

theorem areaBusy_keeps {s : State} (c : Context) (va n : Nat) (h : P s) : P (areaBusy s c va n).2 := by
  have k := areaPlace_keeps st c va h
  unfold areaBusy
  simp only
  split
  · exact k
  · exact foldl_keeps (fun _ _ h => postReq_keeps st _ h) _ k

theorem areaWord_keeps {s : State} (core : Nat) (p : AreaPlace) (lo i : Nat) (h : P s) : P (areaWord s core p lo i).2 := by
  unfold areaWord
  repeat' split
  all_goals first
    | exact h
    | exact (st.rest h :)
    | (next e => exact (st.rest (snd_keeps e (reqRead_keeps st _ _ h)) :))
    | (next e => exact snd_keeps e (reqRead_keeps st _ _ h))

theorem areaWords_keeps (core : Nat) (p : AreaPlace) (lo : Nat) : ∀ (n i : Nat) {s : State}, P s → P (areaWords s core p lo i n).2
  | 0, _, _, h => h
  | n + 1, i, _, h => areaWords_keeps core p lo n (i + 1) (areaWord_keeps st core p lo i h)

theorem areaGet_keeps {s : State} (core : Nat) (c : Context) (va n : Nat) (h : P s) : P (areaGet s core c va n).2 :=
  areaWords_keeps st core _ _ n 0 (useBlocks_keeps st core c.tenant _ (areaPlace_keeps st c va h))

theorem writeCause_keeps {s : State} (G : Group) (r : Raise) (lane : Bool) (pc head : W64) (chain : Bool) (h : P s) :
    P (writeCause s G r lane pc head chain) := by
  unfold writeCause
  split
  · exact (st.rest h :)
  · unfold putRecord
    split
    · exact (st.rest (areaPut_keeps st _ _ _ _ h) :)
    · exact (st.rest h :)

end

/-- A record's write changes nothing outside memory. -/
theorem writeCause_outside (s : State) (G : Group) (r : Raise) (lane : Bool) (pc head : W64) (chain : Bool) :
    SameOutside s (writeCause s G r lane pc head chain) := writeCause_keeps (sameOutside_stable s) G r lane pc head chain (.refl s)

/-- The groups after a record's write are the same. -/
theorem writeCause_groups (s : State) (G : Group) (r : Raise) (lane : Bool) (pc head : W64) (chain : Bool) :
    (writeCause s G r lane pc head chain).groups = s.groups := by rw [(writeCause_outside s G r lane pc head chain).1]

end Sys2Proof.Machine
end

