-- ==== Sys2Proof/Laws/Groups.lean ====
section
/-! SUPPORT. The laws of groups and scalar registers: a group after a write to the list of groups, a register after a write. -/

namespace Sys2Proof.Machine

/-! ### The list of groups -/

/-- A group that is found stands in the list. -/
theorem group?_lt {s : State} {g : Nat} {G : Group} (h : s.group? g = some G) : g < s.groups.length :=
  (List.getElem?_eq_some_iff.mp h).1

/-- A group that has just been written is the one found. -/
theorem group?_setGroup_same {s : State} {g : Nat} {G : Group} (H : Group) (h : s.group? g = some G) :
    (s.setGroup g H).group? g = some H := by
  simp [State.group?, State.setGroup, group?_lt h]

/-- Every other group is as it was. -/
@[simp] theorem group?_setGroup_other (s : State) {g h : Nat} (G : Group) (ne : h ≠ g) : (s.setGroup g G).group? h = s.group? h := by
  simp [State.group?, State.setGroup, List.getElem?_set_ne (Ne.symm ne)]

/-- A second write of a group replaces the first. -/
@[simp] theorem setGroup_setGroup (s : State) (g : Nat) (G H : Group) : (s.setGroup g G).setGroup g H = s.setGroup g H := by
  simp [State.setGroup]

/-- A group that is changed in place. -/
theorem group?_modGroup_same {s : State} {g : Nat} {G : Group} (f : Group → Group) (h : s.group? g = some G) :
    (s.modGroup g f).group? g = some (f G) := by
  simp only [State.group?] at h
  simp [State.group?, State.modGroup, h]

/-- A change of a group in place is a write of the changed group. -/
theorem modGroup_eq_setGroup {s : State} {g : Nat} {G : Group} (f : Group → Group) (h : s.group? g = some G) :
    s.modGroup g f = s.setGroup g (f G) := by
  have lt := group?_lt h
  simp only [State.group?] at h
  have : s.groups.modify g f = s.groups.set g (f G) := by
    apply List.ext_getElem?
    intro i
    by_cases hi : g = i
    · subst hi
      simp [lt, (List.getElem?_eq_some_iff.mp h).2]
    · simp [List.getElem?_set_ne hi, hi]
  simp [State.modGroup, State.setGroup, this]

@[simp] theorem group?_modCtx (s : State) (n g : Nat) (f : Context → Context) : (s.modCtx n f).group? g = s.group? g := rfl
@[simp] theorem group?_modTeam (s : State) (n g : Nat) (f : Team → Team) : (s.modTeam n f).group? g = s.group? g := rfl
@[simp] theorem group?_clearParty (s : State) (p : Party) (pc : W64) (g : Nat) : (clearParty s p pc).group? g = s.group? g := rfl
@[simp] theorem group?_count (s : State) (k : LifeKey) (n g : Nat) : (s.count k n).group? g = s.group? g := rfl

/-! ### Scalar registers (R117, R331) -/

/-- s0 is zero. -/
@[simp] theorem sreg_zero (G : Group) : G.sreg 0#6 = 0#64 := by simp [Group.sreg]

/-- A write to s0 changes nothing. -/
@[simp] theorem setS_zero (G : Group) (x : W64) : G.setS 0#6 x = G := by simp [Group.setS]

/-- A register that has just been written reads as what was written. -/
theorem sreg_setS_same (G : Group) {r : SReg} (x : W64) (h : r ≠ 0#6) : (G.setS r x).sreg r = x := by
  simp only [Group.setS, Group.sreg, if_neg h]
  by_cases c : G.trap.hmode = true ∧ 56 ≤ r.toNat
  · have hr : r.toNat - 56 < 8 := by have := r.isLt; omega
    rw [if_pos c, if_pos c]
    simp [Vector.toList_setIfInBounds, List.getD_eq_getElem?_getD, hr]
  · have hr : r.toNat < 64 := r.isLt
    rw [if_neg c, if_neg c]
    simp [Vector.toList_setIfInBounds, List.getD_eq_getElem?_getD, hr]

/-- Every other register is as it was. -/
theorem sreg_setS_other (G : Group) {r q : SReg} (x : W64) (h : q ≠ r) : (G.setS r x).sreg q = G.sreg q := by
  have hn : r.toNat ≠ q.toNat := fun e => h (BitVec.eq_of_toNat_eq e.symm)
  by_cases hr : r = 0#6
  · rw [hr, setS_zero]
  simp only [Group.setS, Group.sreg, if_neg hr]
  split
  · rfl
  · by_cases c : G.trap.hmode = true ∧ 56 ≤ r.toNat
    · rw [if_pos c]
      by_cases d : G.trap.hmode = true ∧ 56 ≤ q.toNat
      · have : ¬ r.toNat - 56 = q.toNat - 56 := by omega
        simp [d, Vector.toList_setIfInBounds, List.getD_eq_getElem?_getD, List.getElem?_set_ne this]
      · rw [if_neg d, if_neg d]
    · rw [if_neg c]
      by_cases d : G.trap.hmode = true ∧ 56 ≤ q.toNat
      · rw [if_pos d, if_pos d]
      · simp [d, Vector.toList_setIfInBounds, List.getD_eq_getElem?_getD, List.getElem?_set_ne hn]

/-- What a write to a scalar register leaves of its group: all but the two register files. -/
theorem setS_eq (G : Group) (r : SReg) (x : W64) :
    G.setS r x = { G with sc := { G.sc with sregs := (G.setS r x).sc.sregs, hregs := (G.setS r x).sc.hregs } } := by
  unfold Group.setS
  split
  · rfl
  · split <;> rfl

@[simp] theorem setS_bind (G : Group) (r : SReg) (x : W64) : (G.setS r x).bind = G.bind := by rw [setS_eq]
@[simp] theorem setS_loc (G : Group) (r : SReg) (x : W64) : (G.setS r x).loc = G.loc := by rw [setS_eq]
@[simp] theorem setS_inSlot (G : Group) (r : SReg) (x : W64) : (G.setS r x).inSlot = G.inSlot := by rw [setS_eq]
@[simp] theorem setS_status (G : Group) (r : SReg) (x : W64) : (G.setS r x).status = G.status := by rw [setS_eq]
@[simp] theorem setS_halt (G : Group) (r : SReg) (x : W64) : (G.setS r x).halt = G.halt := by rw [setS_eq]
@[simp] theorem setS_queueDue (G : Group) (r : SReg) (x : W64) : (G.setS r x).queueDue = G.queueDue := by rw [setS_eq]
@[simp] theorem setS_vec (G : Group) (r : SReg) (x : W64) : (G.setS r x).vec = G.vec := by rw [setS_eq]
@[simp] theorem setS_lane (G : Group) (r : SReg) (x : W64) : (G.setS r x).lane = G.lane := by rw [setS_eq]
@[simp] theorem setS_trap (G : Group) (r : SReg) (x : W64) : (G.setS r x).trap = G.trap := by rw [setS_eq]
@[simp] theorem setS_dbg (G : Group) (r : SReg) (x : W64) : (G.setS r x).dbg = G.dbg := by rw [setS_eq]
@[simp] theorem setS_wait (G : Group) (r : SReg) (x : W64) : (G.setS r x).wait = G.wait := by rw [setS_eq]
@[simp] theorem setS_eng (G : Group) (r : SReg) (x : W64) : (G.setS r x).eng = G.eng := by rw [setS_eq]
@[simp] theorem setS_spc (G : Group) (r : SReg) (x : W64) : (G.setS r x).sc.spc = G.sc.spc := by rw [setS_eq]
@[simp] theorem setS_fpctl (G : Group) (r : SReg) (x : W64) : (G.setS r x).sc.fpctl = G.sc.fpctl := by rw [setS_eq]
@[simp] theorem setS_fpstat (G : Group) (r : SReg) (x : W64) : (G.setS r x).sc.fpstat = G.sc.fpstat := by rw [setS_eq]
@[simp] theorem setS_scout (G : Group) (r : SReg) (x : W64) : (G.setS r x).sc.scout = G.sc.scout := by rw [setS_eq]

end Sys2Proof.Machine
end

