-- ==== Sys2Proof/Laws/Ends.lean ====
section
/-! SUPPORT. What a scalar instruction's end can be: retired, waiting, or a cause; one lemma for each shared operation. -/

namespace Sys2Proof.Machine

/-- A scalar meaning that is done retires: only its group changes. -/
theorem runScalar_done {s s' : State} {G H : Group} {f : Nat → Group → SRes} {pc : W64} (turn : ScalarTurn s G)
    (done : f s.cur G = .done s' pc) (grp : s'.group? s.cur = some H) :
    ∃ t, runScalar s f = .next t ∧ OnlyGroup s' t s.cur (H.stepped pc) := by
  obtain ⟨hg, quiet⟩ := turn
  refine ⟨_, by simp only [runScalar, hg, done]; rfl, ?_⟩
  have : ¬ (G.dbg.stepm = 1#2 ∧ G.trap.hmode = false ∧ H.trap.hmode = false ∧ Group.gone
      { H with sc := { H.sc with spc := pc }, trap := { H.trap with firstS := false }, wait := { H.wait with barTok := none } } = false) := by
    rintro ⟨a, b, -⟩
    rw [quiet a] at b
    cases b
  simp only [scalarRetire, group?_clearParty, grp]
  rw [if_neg this]
  rfl

/-- A scalar meaning that leaves its group as H completes: nothing but the group changes beside what its effect changed. -/
theorem completes_set {i : Instr} {s s' : State} {G H : Group} {f : Nat → Group → SRes} {pc : W64} (turn : ScalarTurn s G)
    (ex : exec i s = runScalar s f) (done : f s.cur G = .done (s'.setGroup s.cur H) pc) (len : s'.groups.length = s.groups.length) :
    Completes i s s' H pc := by
  have lt := group?_lt turn.1
  have grp : (s'.setGroup s.cur H).group? s.cur = some H := by
    simp [State.group?, State.setGroup, len, lt]
  obtain ⟨t, e, o⟩ := runScalar_done turn done grp
  refine ⟨t, ex.trans e, ?_⟩
  rw [OnlyGroup] at o ⊢
  rw [o]
  simp only [State.setGroup, List.set_set]

/-- A scalar meaning that writes one register and goes on completes so. -/
theorem completes_write {i : Instr} {s : State} {G : Group} {d : SReg} {x : W64} {f : Nat → Group → SRes} (turn : ScalarTurn s G)
    (ex : exec i s = runScalar s f) (done : f s.cur G = sWrite s s.cur G d x) : Completes i s s (G.setS d x) (G.sc.spc + 4) :=
  completes_set turn ex done rfl

/-- A scalar meaning that changes no group completes so. -/
theorem completes_same {i : Instr} {s s' : State} {G : Group} {f : Nat → Group → SRes} {pc : W64} (turn : ScalarTurn s G)
    (ex : exec i s = runScalar s f) (done : f s.cur G = .done s' pc) (grp : s'.group? s.cur = some G) : Completes i s s' G pc := by
  obtain ⟨t, e, o⟩ := runScalar_done turn done grp
  exact ⟨t, ex.trans e, o⟩

/-- A scalar meaning that waits leaves the state it names, and its group at the same PC. -/
theorem runScalar_wait {s s' : State} {G : Group} {f : Nat → Group → SRes} (hg : s.group? s.cur = some G)
    (wait : f s.cur G = .wait s') : runScalar s f = .next s' := by
  simp only [runScalar, hg, wait]

/-- A scalar meaning that raises a cause takes it. -/
theorem runScalar_trap {s s' : State} {G H : Group} {f : Nat → Group → SRes} {r : Raise} (hg : s.group? s.cur = some G)
    (trap : f s.cur G = .trap s' r) (grp : s'.group? s.cur = some H) :
    runScalar s f = .next (scalarTrap (clearParty s' (.scalar s.cur) G.sc.spc) s.cur H r) := by
  simp only [runScalar, hg, trap, group?_clearParty, grp]

/-- What noting a cause does to a group: CAUSE and the records, nothing else. -/
theorem noteCause_eq (G : Group) (r : Raise) (lane : Bool) (pc head : W64) (chain : Bool) :
    noteCause G r lane pc head chain =
      { G with trap := { G.trap with
        cause := (noteCause G r lane pc head chain).trap.cause, recs := (noteCause G r lane pc head chain).trap.recs } } := by
  unfold noteCause
  split <;> rfl

/-- Noting a cause is what R332 and R334 say. -/
theorem noteCause_noted (G : Group) (r : Raise) (lane : Bool) (pc head : W64) (chain : Bool) :
    Noted G (noteCause G r lane pc head chain) r.cause (recInfo r lane G.trap.hmode chain) pc head r.aux0 r.aux1 r.addr := by
  unfold Noted noteCause
  split <;> exact ⟨rfl, rfl⟩

/-- Entering the handler is what R330, R331 and R333 say. -/
theorem enterHandler_inHandler (G : Group) (c : Context) : InHandler G (enterHandler G c.handler) c :=
  ⟨rfl, rfl, rfl, rfl, rfl, rfl, rfl, rfl, ⟨rfl, rfl⟩, rfl, ⟨_, rfl, rfl, rfl, rfl, rfl, rfl, rfl⟩, rfl, rfl⟩

/-- Taking a cause is what R330, R331 and R333 say: from a state s1 with the contexts of s, but for their XLCTL, only the group changes and what
its streams have read ahead is gone. -/
theorem takeCause_eq {s s1 : State} {G H : Group} {c : Cause} (g : Nat) (out : SameOutside s s1) (ctx : H.bind = G.bind)
    (hm : H.trap.hmode = false) :
    ∃ K, takeCause s1 g H c = { dropEarly s1 g with groups := s1.groups.set g K } ∧
      K.trap.cause = H.trap.cause ∧ K.trap.recs = H.trap.recs ∧ K.sc.sregs = H.sc.sregs ∧ K.sc.hregs = H.sc.hregs ∧ K.vec = H.vec ∧
      ∀ x, s.ctxOf G = some x → if x.hbaseEn then InHandler H K x ∧ K.status = H.status
        else K.status = .trapped c ∧ K.trap.hmode = false ∧ K.sc = H.sc ∧ K.lane = H.lane.letGo := by
  have same : ((dropEarly s1 g).ctxOf H).map Context.fixed = (s.ctxOf G).map Context.fixed := by
    have := out.context G.bind.ctx
    simpa only [State.ctxOf, dropEarly, ctx] using this
  unfold takeCause
  simp only
  split
  · next y hy =>
    rw [hy] at same
    have fix : ∀ x, s.ctxOf G = some x → x.hbaseEn = y.hbaseEn ∧ x.handler = y.handler := by
      intro x hx
      rw [hx] at same
      simp only [Option.map_some, Option.some.injEq] at same
      have e1 := congrArg Context.hbaseEn same
      have e2 := congrArg Context.hbase same
      simp only [Context.fixed] at e1 e2
      exact ⟨e1.symm, by simp only [Context.handler, e2]⟩
    split
    · next en =>
      refine ⟨_, rfl, rfl, rfl, rfl, rfl, rfl, fun x hx => ?_⟩
      rw [(fix x hx).1, if_pos en, ← (fix x hx).2]
      exact ⟨enterHandler_inHandler H x, rfl⟩
    · next en =>
      refine ⟨_, rfl, rfl, rfl, rfl, rfl, rfl, fun x hx => ?_⟩
      rw [(fix x hx).1, if_neg en]
      exact ⟨rfl, hm, rfl, rfl⟩
  · next hy =>
    rw [hy] at same
    refine ⟨_, rfl, rfl, rfl, rfl, rfl, rfl, fun x hx => ?_⟩
    rw [hx] at same
    cases same

/-- A scalar meaning that raises a cause with nothing else done is what R330 to R336 say. -/
theorem runScalar_traps {i : Instr} {s : State} {G : Group} {f : Nat → Group → SRes} {r : Raise} (ex : exec i s = runScalar s f)
    (hg : s.group? s.cur = some G) (trap : f s.cur G = .trap s r) : TrapsScalar i s G r := by
  have out := runScalar_trap hg trap hg
  have eq := noteCause_eq G r false G.sc.spc G.sc.spc false
  have noted := noteCause_noted G r false G.sc.spc G.sc.spc false
  have grps := writeCause_groups (clearParty s (.scalar s.cur) G.sc.spc) G r false G.sc.spc G.sc.spc false
  have outside := writeCause_outside (clearParty s (.scalar s.cur) G.sc.spc) G r false G.sc.spc G.sc.spc false
  by_cases hm : G.trap.hmode = true
  · refine ⟨_, { noteCause G r false G.sc.spc G.sc.spc false with
      sc := { G.sc with spc := G.sc.spc + 4 } }, ex.trans out, ?_, noted, rfl, rfl, by rw [eq], ?_, by simp [hm]⟩
    · simp only [scalarTrap, causeTold, if_pos hm, State.setGroup, grps]
      rw [eq]
      rfl
    · intro _
      rw [eq]
      exact ⟨hm, rfl, rfl, rfl⟩
  · have hf : G.trap.hmode = false := by simpa using hm
    have hk : (noteCause G r false G.sc.spc G.sc.spc false).trap.hmode = false := by rw [eq]; exact hf
    obtain ⟨K, e, cause, recs, sr, hr, vec, rest⟩ := takeCause_eq (c := r.cause) s.cur outside (G := G)
      (H := noteCause G r false G.sc.spc G.sc.spc false) (by rw [eq]) hk
    have trapEq : scalarTrap (clearParty s (.scalar s.cur) G.sc.spc) s.cur G r =
        takeCause (writeCause (clearParty s (.scalar s.cur) G.sc.spc) G r false G.sc.spc G.sc.spc false) s.cur
          (noteCause G r false G.sc.spc G.sc.spc false) r.cause := by
      simp only [scalarTrap]
      rw [if_neg (by simp [hf])]
    rw [trapEq] at out
    refine ⟨_, K, ex.trans out, ?_, ?_, by rw [sr, eq], by rw [hr, eq], by rw [vec, eq], by simp [hf], ?_⟩
    · rw [e, grps, causeTold, if_neg (by simp [hf])]
      rfl
    · unfold Noted at noted ⊢
      rw [cause, recs]
      exact noted
    · intro _ c hc
      have h := rest c hc
      rw [eq] at h
      split at h
      · next en =>
        rw [if_pos en]
        exact ⟨⟨h.1.1, h.1.2, h.1.3, h.1.4, h.1.5, h.1.6, h.1.7, h.1.8, h.1.9, h.1.10, h.1.11, h.1.12, h.1.13⟩, h.2⟩
      · next en =>
        rw [if_neg en]
        exact h

end Sys2Proof.Machine
end

