-- ==== Sys2Proof/Laws/Words.lean ====
section
/-! SUPPORT. The laws of the plain word functions: extensions, shifts, bit counts and branch targets as integers. -/

namespace Sys2Proof.Machine

/-- Sign extension keeps the integer. -/
@[simp] theorem sext64_toInt {n : Nat} (h : n ≤ 64) (x : BitVec n) : (sext64 x).toInt = x.toInt := by
  rw [sext64, BitVec.toInt_signExtend, Nat.min_eq_right h]
  exact BitVec.toInt_bmod_cancel x

/-- Zero extension keeps the natural. -/
@[simp] theorem zext64_toNat {n : Nat} (h : n ≤ 64) (x : BitVec n) : (zext64 x).toNat = x.toNat := by
  rw [zext64, BitVec.toNat_setWidth]
  exact Nat.mod_eq_of_lt (Nat.lt_of_lt_of_le x.isLt (Nat.pow_le_pow_right (by omega) h))

/-- A shift left is a product with a power of two. -/
theorem shiftLeft_eq_ofNat (x : W64) (n : Nat) : x <<< n = BitVec.ofNat 64 (x.toNat * 2 ^ n) := by
  apply BitVec.eq_of_toNat_eq
  simp [Nat.shiftLeft_eq]

/-- A logical shift right is a quotient. -/
theorem shiftRight_eq_ofNat (x : W64) (n : Nat) : x >>> n = BitVec.ofNat 64 (x.toNat / 2 ^ n) := by
  apply BitVec.eq_of_toNat_eq
  have lt := x.isLt
  have le : x.toNat / 2 ^ n ≤ x.toNat := Nat.div_le_self _ _
  simp only [BitVec.toNat_ushiftRight, Nat.shiftRight_eq_div_pow, BitVec.toNat_ofNat]
  rw [Nat.mod_eq_of_lt (by omega)]

/-- An arithmetic shift right is a quotient rounded down. -/
theorem sshiftRight_eq_ofInt (x : W64) (n : Nat) : x.sshiftRight n = BitVec.ofInt 64 (x.toInt / 2 ^ n) := by
  rw [BitVec.sshiftRight, Int.shiftRight_eq_div_pow]
  congr 2

/-- The bits that popCount counts. -/
theorem popCount_eq {w : Nat} (x : BitVec w) (n : Nat) : popCount x.toNat n = ((List.range n).filter x.getLsbD).length := by
  induction n with
  | zero => rfl
  | succ n ih =>
    simp only [popCount, List.range_succ, List.filter_append, ih, List.length_append]
    by_cases h : x.toNat.testBit n = true
    · have hx : x.getLsbD n = true := h
      simp only [h, if_true, hx, List.filter_cons, List.filter_nil, List.length_cons, List.length_nil]
      omega
    · have hx : x.getLsbD n = false := by simpa [BitVec.getLsbD] using h
      simp [h, hx]

/-- The leading zeros of zero. -/
theorem leadZeros_zero (n : Nat) : leadZeros 0 n = n := by
  induction n with
  | zero => rfl
  | succ n ih => simp only [leadZeros, Nat.zero_testBit, Bool.false_eq_true, if_false, ih]; omega

/-- The leading zeros of any other value. -/
theorem leadZeros_eq {x n : Nat} (h0 : x ≠ 0) (h : x < 2 ^ n) : leadZeros x n = n - 1 - x.log2 := by
  induction n with
  | zero => omega
  | succ n ih =>
    simp only [leadZeros]
    by_cases hb : x.testBit n = true
    · rw [if_pos hb]
      have hn : ¬ x < 2 ^ n := fun lt => by rw [Nat.testBit_lt_two_pow lt] at hb; cases hb
      have : x.log2 = n := (Nat.log2_eq_iff h0).mpr ⟨by omega, h⟩
      omega
    · rw [if_neg hb]
      have lt : x < 2 ^ n := by
        refine Nat.lt_of_not_le fun hn => hb ?_
        rw [Nat.testBit_eq_decide_div_mod_eq]
        have : x / 2 ^ n = 1 := Nat.div_eq_of_lt_le (by omega) (by omega)
        simp [this]
      rw [ih lt]
      have : x.log2 < n := (Nat.log2_lt h0).mpr lt
      omega

/-- The target of a branch by a signed offset of at most 64 bits. -/
theorem branchTo_eq {n : Nat} (h : n ≤ 64) (G : Group) (off : BitVec n) :
    branchTo G (sext64 off) = BitVec.ofInt 64 (G.sc.spc.toNat + 4 * off.toInt) := by
  apply BitVec.eq_of_toInt_eq
  rw [branchTo, BitVec.toInt_add, BitVec.toInt_mul, sext64_toInt h, BitVec.toInt_ofInt, BitVec.toInt_eq_toNat_bmod (x := G.sc.spc)]
  simp

/-- A multiple of 4 passes the alignment check of JR and RET. -/
theorem extract_low_two (x : W64) : x.extractLsb' 0 2 = 0#2 ↔ x.toNat % 4 = 0 := by
  constructor
  · intro e
    have := congrArg BitVec.toNat e
    simp only [BitVec.extractLsb'_toNat, BitVec.toNat_ofNat] at this
    omega
  · intro h
    apply BitVec.eq_of_toNat_eq
    simp only [BitVec.extractLsb'_toNat, BitVec.toNat_ofNat]
    omega

end Sys2Proof.Machine
end

