-- ==== Sys2Proof/Laws/CachedWords.lean ====
section
/-! SUPPORT. Accesses to words that the caches hold: where they lie, what a read gives, and what a store commits. -/

namespace Sys2Proof.Machine

/-- A line that is found under a key has that key. -/
theorem findLine_key {s : State} {k : Nat} {l : Line} (h : findLine s k = some l) : l.key = k := by
  have := List.find?_some h
  simpa using this

/-- A hit is found under its own key. -/
theorem hitLine_find {s : State} {asid : BitVec 16} {x : Nat} {l : Line} (h : hitLine s asid x = some l) :
    findLine s l.key = some l := by
  unfold hitLine at h
  split at h
  · next l' hl =>
    cases h
    rw [findLine_key hl]
    exact hl
  · rw [findLine_key h]
    exact h

/-- The line under the key of one that has just been put. -/
@[simp] theorem findLine_putLine_same (s : State) (l : Line) : findLine (putLine s l) l.key = some l := by
  simp [findLine, putLine]

/-- A line under another key. -/
theorem findLine_putLine_other (s : State) (l : Line) {k : Nat} (h : k ≠ l.key) : findLine (putLine s l) k = findLine s k := by
  have ne : (l.key == k) = false := by simpa using Ne.symm h
  simp only [findLine, putLine, List.find?_cons, ne]
  induction s.lines with
  | nil => rfl
  | cons x t ih =>
    by_cases hx : x.key = l.key
    · simp [hx, ih, ne]
    · by_cases hk : x.key = k
      · simp [hk, h]
      · simp [hx, hk, ih]

/-- Putting back the line that is found changes no line. -/
theorem sameLines_putLine {s : State} {l : Line} (h : findLine s l.key = some l) : SameLines s (putLine s l) := by
  intro k
  by_cases hk : k = l.key
  · rw [hk, findLine_putLine_same, h]
  · exact findLine_putLine_other s l hk

/-- Settlement leaves a word that is in no escrow. -/
theorem settle_settled {s : State} {k : Nat} {l : Line} (h : findLine s k = some l) (ns : ∀ t b ps, l.st ≠ .escrow t b ps) :
    settle s k = s := by
  unfold settle
  rw [h]
  simp only
  split
  · next t b ps e => exact absurd e (ns t (some b) ps)
  · next t ps e => exact absurd e (ns t none ps)
  · rfl

/-- No write over a word: a party sees the directory's word, and no EOP of it is queued. -/
theorem queued_quiet {s : State} {k : Nat} (h : ∀ p ∈ s.sq, p.key ≠ k) (g : Nat) : s.sq.filter (queuedAt g k) = [] := by
  rw [List.filter_eq_nil_iff]
  intro p hp
  simp [queuedAt, h p hp]

theorem overlay_quiet {s : State} {k : Nat} (h : ∀ p ∈ s.sq, p.key ≠ k) (g : Nat) (x : W32) : overlay s g k x = x := by
  simp only [overlay, queued_quiet h, List.foldl_nil]

/-- The use of a word whose block is in use at both levels: nothing is evicted. -/
theorem useLine_hit {s : State} {l : Line} {core : Nat} (shared : ∃ p ∈ s.shUse, p.1 = l.key / 32)
    (room : (coreRivals s core (l.key / 32)).length < 16) : ∃ q : Nat × Nat, q.1 = l.key / 32 ∧
    useLine s l (some core) = putLine { s with
      shUse := q :: s.shUse.filter fun r => r.1 != l.key / 32
      coreUse := (core, l.key / 32) :: s.coreUse.filter fun p => p != (core, l.key / 32) } l := by
  obtain ⟨p, mem, eq⟩ := shared
  have hit : ∃ q, s.shUse.find? (fun p => p.1 == l.key / 32) = some q := by
    rw [← Option.isSome_iff_exists, List.find?_isSome]
    exact ⟨p, mem, by simp [eq]⟩
  obtain ⟨q, hq⟩ := hit
  have sh : useShared s (l.key / 32) (tenantNo s (l.ctx.getD 0)) =
      { s with shUse := q :: s.shUse.filter fun r => r.1 != l.key / 32 } := by simp only [useShared, hq]
  have riv : coreRivals { s with shUse := q :: s.shUse.filter fun r => r.1 != l.key / 32 } core (l.key / 32) =
      coreRivals s core (l.key / 32) := rfl
  have none : (coreRivals s core (l.key / 32)).drop 15 = [] := List.drop_eq_nil_of_le (by omega)
  exact ⟨q, by simpa using List.find?_some hq, by simp only [useLine, sh, useCore, riv, none, List.foldl_nil]⟩

/-- What the use of a found word does: no word changes, only the order of use of its block. -/
theorem onlyUse_found {s : State} {l : Line} {core : Nat} (found : findLine s l.key = some l) (shared : ∃ p ∈ s.shUse, p.1 = l.key / 32)
    (room : (coreRivals s core (l.key / 32)).length < 16) : OnlyUse s (useLine s l (some core)) := by
  obtain ⟨q, -, use⟩ := useLine_hit shared room
  rw [use]
  exact ⟨fun k => sameLines_putLine (s := { s with
    shUse := q :: s.shUse.filter fun r => r.1 != l.key / 32
    coreUse := (core, l.key / 32) :: s.coreUse.filter fun p => p != (core, l.key / 32) }) found k, rfl⟩

/-- Where a cached word lies, for any access that its line serves. -/
theorem locate_cached {s : State} {w : Who} {a : Nat} {l : Line} (h : CachedWord s w a l) {n : Need} (sv : lineServes l n = true) :
    locate s w a n false = (.ok (.line l), s) := by
  have own : ownRecord w a = false := by
    unfold ownRecord
    split
    · rfl
    · next b r e =>
      have := h.notRecord b r e
      simp only [Bool.and_eq_false_iff, decide_eq_false_iff_not]
      omega
  have unw : unwritten w a = false := by
    unfold unwritten
    split
    · rfl
    · simp [own]
  have sv' : ∀ m, m = n ∨ m = .own → lineServes l m = true := fun m e => by
    rcases e with rfl | rfl
    · exact sv
    · rfl
  unfold locate
  rw [if_neg (by simp [unw])]
  simp only [h.notPeer, h.hit, own, Bool.not_false, Bool.and_true, Bool.false_eq_true, and_false, false_or]
  rw [if_pos (sv' _ (by split <;> simp))]

/-- A word that the stream has not read ahead. -/
theorem takeEarly_none {s : State} {w : Who} {k : Nat} (h : ∀ e ∈ s.early, e.group ≠ w.group ∨ e.key ≠ k) : takeEarly s w k = none := by
  unfold takeEarly
  split
  · rfl
  · next b _ =>
    have : earlyOf s w.group b k = none := by
      simp only [earlyOf, List.find?_eq_none]
      intro e he
      have := h e he
      simp only [Bool.and_eq_true, beq_iff_eq, not_and]
      intro g
      rcases this with n | n
      · exact absurd g.1 n
      · exact n
    rw [this]
    rfl

/-- A read of a word in which no release sequence stands orders no scratchpad write. -/
theorem sawWord_plain {s : State} {k : Nat} (g : Nat) (h : ∀ p ∈ s.padw, ∀ g sc, PadSync.word k g sc ∉ p.syncs) : sawWord s g k = s := by
  have same : s.padw.map (fun p => p.read g k) = s.padw := by
    rw [List.map_congr_left (g := id), List.map_id]
    intro p hp
    have none : p.syncs.filterMap (·.reach g k) = [] := by
      rw [List.filterMap_eq_nil_iff]
      intro c hc
      cases c with
      | word k' g' sc =>
        simp only [PadSync.reach, ite_eq_right_iff, reduceCtorEq]
        rintro rfl
        exact h p hp g' sc hc
      | _ => rfl
    simp [PadWrite.read, none]
  cases s
  simp only [sawWord] at same ⊢
  rw [same]

/-- A read of a cached word that the core already holds a copy of: only the order of use of its block changes. -/
theorem readWord_cached {s : State} {w : Who} {a : Nat} {l : Line} {v : W32} {hs : List Nat} (h : CachedWord s w a l)
    (st : l.st = .clean v hs) (mine : w.core ∈ hs) (x : Nat) :
    readWord s w x (.line l) = (some v, useLine s l (some w.core)) ∧ OnlyUse s (useLine s l (some w.core)) := by
  have found := hitLine_find h.hit
  have rb : l.readBy w.core = l := by
    simp only [Line.readBy, st, List.contains_iff_mem, mine, if_true]
    cases l
    simp only at st
    rw [st]
  refine ⟨?_, onlyUse_found found h.shared h.core⟩
  simp only [readWord, Loc.key, takeEarly_none h.notEarly, settle_settled found h.settled, sawWord_plain w.group h.plain, found, rb, overlay_quiet h.quiet, Line.value, st]

/-- A cached word stays so when another word of its block has been used. -/
theorem cachedWord_use {s : State} {w : Who} {a : Nat} {l m : Line} (h : CachedWord s w a l) (hm : findLine s m.key = some m)
    (blk : m.key / 32 = l.key / 32) : CachedWord (useLine s m (some w.core)) w a l := by
  obtain ⟨lines, eq⟩ := onlyUse_found hm (by rw [blk]; exact h.shared) (by rw [blk]; exact h.core)
  obtain ⟨q, qe, use⟩ := useLine_hit (s := s) (l := m) (core := w.core) (by rw [blk]; exact h.shared) (by rw [blk]; exact h.core)
  have hit : hitLine (useLine s m (some w.core)) w.ctx.asid (a / 4) = some l := by
    have := h.hit
    unfold hitLine at this ⊢
    rw [lines, lines]
    exact this
  refine ⟨h.below, h.notRecord, h.notPeer, hit, h.settled, by rw [eq]; exact h.quiet, ?_, ?_, by rw [eq]; exact h.notEarly, by rw [eq]; exact h.plain⟩
  · rw [use]
    exact ⟨q, List.mem_cons_self, by rw [qe, blk]⟩
  · have le : (coreRivals (useLine s m (some w.core)) w.core (l.key / 32)).length ≤ (coreRivals s w.core (l.key / 32)).length := by
      simp only [coreRivals, use, putLine]
      rw [List.filter_cons, if_neg (by simp [blk])]
      exact (List.filter_sublist.filter _).length_le
    exact Nat.lt_of_le_of_lt le h.core

/-- The cluster bits of a list of cores hold the bit of each of them. -/
theorem clusterBits_mem (cores : List Nat) (m : BitVec 8) (k : Nat) (hk : k < 8)
    (h : m.getLsbD k = true ∨ ∃ c ∈ cores, clusterOf c = k) :
    (cores.foldl (fun m c => m ||| (1#8 <<< clusterOf c)) m).getLsbD k = true := by
  induction cores generalizing m with
  | nil => simpa using h
  | cons c t ih =>
    refine ih _ ?_
    rcases h with h | ⟨d, hd, hdk⟩
    · exact .inl (by simp [h])
    · rcases List.mem_cons.1 hd with rfl | hd
      · exact .inl (by simp [hdk, hk])
      · exact .inr ⟨d, hd, hdk⟩

/-- A recall reaches every core cache that holds a copy, whatever the directory keeps of them (R249). -/
theorem dirHolders_reaches {cores : List Nat} {c : Nat} (h : c ∈ cores) (hc : c < 512) : (dirHolders cores).reaches c = true := by
  unfold dirHolders
  split
  · simpa [Holders.reaches] using h
  · exact clusterBits_mem cores 0 _ (by unfold clusterOf; omega) (.inr ⟨c, h, rfl⟩)

end Sys2Proof.Machine
end

