-- ==== Sys2Proof/Laws/Dispatch.lean ====
section
/-! SUPPORT. What exec does with each instruction: the call of its meaning, one equation a constructor. -/

namespace Sys2Proof.Machine

@[simp] theorem exec_add (d : SReg) (a : SReg) (b : SReg) (s : State) : exec (.add d a b) s = execAdd d a b s := rfl
@[simp] theorem exec_sub (d : SReg) (a : SReg) (b : SReg) (s : State) : exec (.sub d a b) s = execSub d a b s := rfl
@[simp] theorem exec_mul (d : SReg) (a : SReg) (b : SReg) (s : State) : exec (.mul d a b) s = execMul d a b s := rfl
@[simp] theorem exec_mulh (d : SReg) (a : SReg) (b : SReg) (s : State) : exec (.mulh d a b) s = execMulh d a b s := rfl
@[simp] theorem exec_mulhn (d : SReg) (a : SReg) (b : SReg) (s : State) : exec (.mulhn d a b) s = execMulhn d a b s := rfl
@[simp] theorem exec_div (d : SReg) (a : SReg) (b : SReg) (s : State) : exec (.div d a b) s = execDiv d a b s := rfl
@[simp] theorem exec_divn (d : SReg) (a : SReg) (b : SReg) (s : State) : exec (.divn d a b) s = execDivn d a b s := rfl
@[simp] theorem exec_rem (d : SReg) (a : SReg) (b : SReg) (s : State) : exec (.rem d a b) s = execRem d a b s := rfl
@[simp] theorem exec_remn (d : SReg) (a : SReg) (b : SReg) (s : State) : exec (.remn d a b) s = execRemn d a b s := rfl
@[simp] theorem exec_and (d : SReg) (a : SReg) (b : SReg) (s : State) : exec (.and d a b) s = execAnd d a b s := rfl
@[simp] theorem exec_or (d : SReg) (a : SReg) (b : SReg) (s : State) : exec (.or d a b) s = execOr d a b s := rfl
@[simp] theorem exec_xor (d : SReg) (a : SReg) (b : SReg) (s : State) : exec (.xor d a b) s = execXor d a b s := rfl
@[simp] theorem exec_shl (d : SReg) (a : SReg) (b : SReg) (s : State) : exec (.shl d a b) s = execShl d a b s := rfl
@[simp] theorem exec_shr (d : SReg) (a : SReg) (b : SReg) (s : State) : exec (.shr d a b) s = execShr d a b s := rfl
@[simp] theorem exec_sra (d : SReg) (a : SReg) (b : SReg) (s : State) : exec (.sra d a b) s = execSra d a b s := rfl
@[simp] theorem exec_min (d : SReg) (a : SReg) (b : SReg) (s : State) : exec (.min d a b) s = execMin d a b s := rfl
@[simp] theorem exec_max (d : SReg) (a : SReg) (b : SReg) (s : State) : exec (.max d a b) s = execMax d a b s := rfl
@[simp] theorem exec_minn (d : SReg) (a : SReg) (b : SReg) (s : State) : exec (.minn d a b) s = execMinn d a b s := rfl
@[simp] theorem exec_maxn (d : SReg) (a : SReg) (b : SReg) (s : State) : exec (.maxn d a b) s = execMaxn d a b s := rfl
@[simp] theorem exec_slt (d : SReg) (a : SReg) (b : SReg) (s : State) : exec (.slt d a b) s = execSlt d a b s := rfl
@[simp] theorem exec_sltn (d : SReg) (a : SReg) (b : SReg) (s : State) : exec (.sltn d a b) s = execSltn d a b s := rfl
@[simp] theorem exec_clz (d : SReg) (a : SReg) (s : State) : exec (.clz d a) s = execClz d a s := rfl
@[simp] theorem exec_popc (d : SReg) (a : SReg) (s : State) : exec (.popc d a) s = execPopc d a s := rfl
@[simp] theorem exec_sel (d : SReg) (a : SReg) (b : SReg) (s : State) : exec (.sel d a b) s = execSel d a b s := rfl
@[simp] theorem exec_addi (d : SReg) (a : SReg) (imm : BitVec 13) (s : State) : exec (.addi d a imm) s = execAddi d a imm s := rfl
@[simp] theorem exec_andi (d : SReg) (a : SReg) (imm : BitVec 13) (s : State) : exec (.andi d a imm) s = execAndi d a imm s := rfl
@[simp] theorem exec_slti (d : SReg) (a : SReg) (imm : BitVec 13) (s : State) : exec (.slti d a imm) s = execSlti d a imm s := rfl
@[simp] theorem exec_ori (d : SReg) (a : SReg) (imm : BitVec 13) (s : State) : exec (.ori d a imm) s = execOri d a imm s := rfl
@[simp] theorem exec_xori (d : SReg) (a : SReg) (imm : BitVec 13) (s : State) : exec (.xori d a imm) s = execXori d a imm s := rfl
@[simp] theorem exec_shli (d : SReg) (a : SReg) (n : BitVec 6) (s : State) : exec (.shli d a n) s = execShli d a n s := rfl
@[simp] theorem exec_shri (d : SReg) (a : SReg) (n : BitVec 6) (s : State) : exec (.shri d a n) s = execShri d a n s := rfl
@[simp] theorem exec_srai (d : SReg) (a : SReg) (n : BitVec 6) (s : State) : exec (.srai d a n) s = execSrai d a n s := rfl
@[simp] theorem exec_sethi (d : SReg) (imm : BitVec 19) (s : State) : exec (.sethi d imm) s = execSethi d imm s := rfl
@[simp] theorem exec_lds (d : SReg) (a : SReg) (off : BitVec 13) (s : State) : exec (.lds d a off) s = execLds d a off s := rfl
@[simp] theorem exec_lds32 (d : SReg) (a : SReg) (off : BitVec 13) (s : State) : exec (.lds32 d a off) s = execLds32 d a off s := rfl
@[simp] theorem exec_sts (x : SReg) (a : SReg) (off : BitVec 13) (s : State) : exec (.sts x a off) s = execSts x a off s := rfl
@[simp] theorem exec_sts32 (x : SReg) (a : SReg) (off : BitVec 13) (s : State) : exec (.sts32 x a off) s = execSts32 x a off s := rfl
@[simp] theorem exec_amosAdd (d : SReg) (a : SReg) (b : SReg) (sc : Scope) (s : State) : exec (.amosAdd d a b sc) s = execAmosAdd d a b sc s := rfl
@[simp] theorem exec_amosMin (d : SReg) (a : SReg) (b : SReg) (sc : Scope) (s : State) : exec (.amosMin d a b sc) s = execAmosMin d a b sc s := rfl
@[simp] theorem exec_amosMax (d : SReg) (a : SReg) (b : SReg) (sc : Scope) (s : State) : exec (.amosMax d a b sc) s = execAmosMax d a b sc s := rfl
@[simp] theorem exec_amosMinn (d : SReg) (a : SReg) (b : SReg) (sc : Scope) (s : State) : exec (.amosMinn d a b sc) s = execAmosMinn d a b sc s := rfl
@[simp] theorem exec_amosMaxn (d : SReg) (a : SReg) (b : SReg) (sc : Scope) (s : State) : exec (.amosMaxn d a b sc) s = execAmosMaxn d a b sc s := rfl
@[simp] theorem exec_amosAnd (d : SReg) (a : SReg) (b : SReg) (sc : Scope) (s : State) : exec (.amosAnd d a b sc) s = execAmosAnd d a b sc s := rfl
@[simp] theorem exec_amosOr (d : SReg) (a : SReg) (b : SReg) (sc : Scope) (s : State) : exec (.amosOr d a b sc) s = execAmosOr d a b sc s := rfl
@[simp] theorem exec_amosXor (d : SReg) (a : SReg) (b : SReg) (sc : Scope) (s : State) : exec (.amosXor d a b sc) s = execAmosXor d a b sc s := rfl
@[simp] theorem exec_amosSwap (d : SReg) (a : SReg) (b : SReg) (sc : Scope) (s : State) : exec (.amosSwap d a b sc) s = execAmosSwap d a b sc s := rfl
@[simp] theorem exec_amosCas (d : SReg) (a : SReg) (b : SReg) (sc : Scope) (s : State) : exec (.amosCas d a b sc) s = execAmosCas d a b sc s := rfl
@[simp] theorem exec_b (off : BitVec 19) (s : State) : exec (.b off) s = execB off s := rfl
@[simp] theorem exec_beq (a : SReg) (b : SReg) (off : BitVec 13) (s : State) : exec (.beq a b off) s = execBeq a b off s := rfl
@[simp] theorem exec_bne (a : SReg) (b : SReg) (off : BitVec 13) (s : State) : exec (.bne a b off) s = execBne a b off s := rfl
@[simp] theorem exec_blt (a : SReg) (b : SReg) (off : BitVec 13) (s : State) : exec (.blt a b off) s = execBlt a b off s := rfl
@[simp] theorem exec_bge (a : SReg) (b : SReg) (off : BitVec 13) (s : State) : exec (.bge a b off) s = execBge a b off s := rfl
@[simp] theorem exec_bltn (a : SReg) (b : SReg) (off : BitVec 13) (s : State) : exec (.bltn a b off) s = execBltn a b off s := rfl
@[simp] theorem exec_bgen (a : SReg) (b : SReg) (off : BitVec 13) (s : State) : exec (.bgen a b off) s = execBgen a b off s := rfl
@[simp] theorem exec_call (l : SReg) (off : BitVec 19) (s : State) : exec (.call l off) s = execCall l off s := rfl
@[simp] theorem exec_jr (d : SReg) (a : SReg) (s : State) : exec (.jr d a) s = execJr d a s := rfl
@[simp] theorem exec_ret (a : SReg) (s : State) : exec (.ret a) s = execRet a s := rfl
@[simp] theorem exec_run (b : SReg) (off : BitVec 19) (s : State) : exec (.run b off) s = execRun b off s := rfl
@[simp] theorem exec_syncq (s : State) : exec (.syncq) s = execSyncq s := rfl
@[simp] theorem exec_takev (d : SReg) (s : State) : exec (.takev d) s = execTakev d s := rfl
@[simp] theorem exec_cpyLd (p : SReg) (r : SReg) (b : SReg) (s : State) : exec (.cpyLd p r b) s = execCpyLd p r b s := rfl
@[simp] theorem exec_cpySt (p : SReg) (r : SReg) (b : SReg) (s : State) : exec (.cpySt p r b) s = execCpySt p r b s := rfl
@[simp] theorem exec_closeb (d : SReg) (s : State) : exec (.closeb d) s = execCloseb d s := rfl
@[simp] theorem exec_waitb (a : SReg) (s : State) : exec (.waitb a) s = execWaitb a s := rfl
@[simp] theorem exec_rcfence (a : SReg) (s : State) : exec (.rcfence a) s = execRcfence a s := rfl
@[simp] theorem exec_rcfenceAll (s : State) : exec (.rcfenceAll) s = execRcfenceAll s := rfl
@[simp] theorem exec_gath (p : SReg) (r : SReg) (b : SReg) (s : State) : exec (.gath p r b) s = execGath p r b s := rfl
@[simp] theorem exec_scat (p : SReg) (r : SReg) (b : SReg) (s : State) : exec (.scat p r b) s = execScat p r b s := rfl
@[simp] theorem exec_scatAddI32 (p : SReg) (r : SReg) (b : SReg) (s : State) : exec (.scatAddI32 p r b) s = execScatAddI32 p r b s := rfl
@[simp] theorem exec_scatAddF32 (p : SReg) (r : SReg) (b : SReg) (s : State) : exec (.scatAddF32 p r b) s = execScatAddF32 p r b s := rfl
@[simp] theorem exec_walkCoo (d : SReg) (r : SReg) (b : SReg) (s : State) : exec (.walkCoo d r b) s = execWalkCoo d r b s := rfl
@[simp] theorem exec_walkCsr (d : SReg) (r : SReg) (b : SReg) (s : State) : exec (.walkCsr d r b) s = execWalkCsr d r b s := rfl
@[simp] theorem exec_mmq (d : SReg) (a : SReg) (b : SReg) (ty : MTy) (ck : Bool) (sz : Bool) (hf : Bool) (s : State) : exec (.mmq d a b ty ck sz hf) s = execMmq d a b ty ck sz hf s := rfl
@[simp] theorem exec_mmqQuad (d : SReg) (a : SReg) (b : SReg) (ty : MTy) (ck : Bool) (sz : Bool) (hf : Bool) (s : State) : exec (.mmqQuad d a b ty ck sz hf) s = execMmqQuad d a b ty ck sz hf s := rfl
@[simp] theorem exec_orf (s : State) : exec (.orf) s = execOrf s := rfl
@[simp] theorem exec_mwait (d : SReg) (a : SReg) (s : State) : exec (.mwait d a) s = execMwait d a s := rfl
@[simp] theorem exec_accst (c : SReg) (r : SReg) (b : SReg) (conv : AccConv) (m : Rnd) (s : State) : exec (.accst c r b conv m) s = execAccst c r b conv m s := rfl
@[simp] theorem exec_had (d : SReg) (a : SReg) (b : SReg) (ty : HTy) (s : State) : exec (.had d a b ty) s = execHad d a b ty s := rfl
@[simp] theorem exec_collAllreduce (d : SReg) (a : SReg) (b : SReg) (op : CollOp) (swa : Bool) (s : State) : exec (.collAllreduce d a b op swa) s = execCollAllreduce d a b op swa s := rfl
@[simp] theorem exec_collReduceScatter (d : SReg) (a : SReg) (b : SReg) (op : CollOp) (swa : Bool) (s : State) : exec (.collReduceScatter d a b op swa) s = execCollReduceScatter d a b op swa s := rfl
@[simp] theorem exec_collAllgather (d : SReg) (a : SReg) (b : SReg) (s : State) : exec (.collAllgather d a b) s = execCollAllgather d a b s := rfl
@[simp] theorem exec_collBroadcast (d : SReg) (a : SReg) (b : SReg) (s : State) : exec (.collBroadcast d a b) s = execCollBroadcast d a b s := rfl
@[simp] theorem exec_waitc (d : SReg) (a : SReg) (s : State) : exec (.waitc d a) s = execWaitc d a s := rfl
@[simp] theorem exec_erase (d : SReg) (a : SReg) (s : State) : exec (.erase d a) s = execErase d a s := rfl
@[simp] theorem exec_xprobe (d : SReg) (a : SReg) (s : State) : exec (.xprobe d a) s = execXprobe d a s := rfl
@[simp] theorem exec_give (d : SReg) (a : SReg) (b : SReg) (s : State) : exec (.give d a b) s = execGive d a b s := rfl
@[simp] theorem exec_take (d : SReg) (a : SReg) (s : State) : exec (.take d a) s = execTake d a s := rfl
@[simp] theorem exec_deedq (d : SReg) (a : SReg) (s : State) : exec (.deedq d a) s = execDeedq d a s := rfl
@[simp] theorem exec_fenceAcq (sc : Scope) (s : State) : exec (.fenceAcq sc) s = execFenceAcq sc s := rfl
@[simp] theorem exec_fenceRel (sc : Scope) (s : State) : exec (.fenceRel sc) s = execFenceRel sc s := rfl
@[simp] theorem exec_fenceAcqrel (sc : Scope) (s : State) : exec (.fenceAcqrel sc) s = execFenceAcqrel sc s := rfl
@[simp] theorem exec_fenceSc (sc : Scope) (s : State) : exec (.fenceSc sc) s = execFenceSc sc s := rfl
@[simp] theorem exec_bar (a : SReg) (b : SReg) (s : State) : exec (.bar a b) s = execBar a b s := rfl
@[simp] theorem exec_arrive (d : SReg) (a : SReg) (b : SReg) (s : State) : exec (.arrive d a b) s = execArrive d a b s := rfl
@[simp] theorem exec_waitbar (a : SReg) (b : SReg) (s : State) : exec (.waitbar a b) s = execWaitbar a b s := rfl
@[simp] theorem exec_launch (d : SReg) (a : SReg) (s : State) : exec (.launch d a) s = execLaunch d a s := rfl
@[simp] theorem exec_launchGraph (d : SReg) (a : SReg) (s : State) : exec (.launchGraph d a) s = execLaunchGraph d a s := rfl
@[simp] theorem exec_itemqPut (d : SReg) (a : SReg) (b : SReg) (s : State) : exec (.itemqPut d a b) s = execItemqPut d a b s := rfl
@[simp] theorem exec_itemqCount (d : SReg) (s : State) : exec (.itemqCount d) s = execItemqCount d s := rfl
@[simp] theorem exec_itemqClose (s : State) : exec (.itemqClose) s = execItemqClose s := rfl
@[simp] theorem exec_yield (s : State) : exec (.yield) s = execYield s := rfl
@[simp] theorem exec_exit (s : State) : exec (.exit) s = execExit s := rfl
@[simp] theorem exec_getc (d : SReg) (sel : BitVec 13) (s : State) : exec (.getc d sel) s = execGetc d sel s := rfl
@[simp] theorem exec_getcFpstat (d : SReg) (s : State) : exec (.getcFpstat d) s = execGetcFpstat d s := rfl
@[simp] theorem exec_getcXpool (d : SReg) (s : State) : exec (.getcXpool d) s = execGetcXpool d s := rfl
@[simp] theorem exec_setc (a : SReg) (sel : BitVec 13) (s : State) : exec (.setc a sel) s = execSetc a sel s := rfl
@[simp] theorem exec_setcFpctl (a : SReg) (s : State) : exec (.setcFpctl a) s = execSetcFpctl a s := rfl
@[simp] theorem exec_setcFpstat (a : SReg) (s : State) : exec (.setcFpstat a) s = execSetcFpstat a s := rfl
@[simp] theorem exec_setcXlctl (a : SReg) (s : State) : exec (.setcXlctl a) s = execSetcXlctl a s := rfl
@[simp] theorem exec_setcDelta (a : SReg) (s : State) : exec (.setcDelta a) s = execSetcDelta a s := rfl
@[simp] theorem exec_setcVacate (a : SReg) (s : State) : exec (.setcVacate a) s = execSetcVacate a s := rfl
@[simp] theorem exec_setcCause (a : SReg) (s : State) : exec (.setcCause a) s = execSetcCause a s := rfl
@[simp] theorem exec_setcHbase (a : SReg) (s : State) : exec (.setcHbase a) s = execSetcHbase a s := rfl
@[simp] theorem exec_setcStepm (a : SReg) (s : State) : exec (.setcStepm a) s = execSetcStepm a s := rfl
@[simp] theorem exec_setcWaddr (a : SReg) (s : State) : exec (.setcWaddr a) s = execSetcWaddr a s := rfl
@[simp] theorem exec_setcWctl (a : SReg) (s : State) : exec (.setcWctl a) s = execSetcWctl a s := rfl
@[simp] theorem exec_setcScout (a : SReg) (s : State) : exec (.setcScout a) s = execSetcScout a s := rfl
@[simp] theorem exec_setcEpcl (a : SReg) (s : State) : exec (.setcEpcl a) s = execSetcEpcl a s := rfl
@[simp] theorem exec_trap (code : BitVec 13) (s : State) : exec (.trap code) s = execTrap code s := rfl
@[simp] theorem exec_sret (s : State) : exec (.sret) s = execSret s := rfl
@[simp] theorem exec_brk (code : BitVec 13) (s : State) : exec (.brk code) s = execBrk code s := rfl
@[simp] theorem exec_injectReg (d : SReg) (a : SReg) (b : SReg) (s : State) : exec (.injectReg d a b) s = execInjectReg d a b s := rfl
@[simp] theorem exec_injectMem (d : SReg) (a : SReg) (b : SReg) (s : State) : exec (.injectMem d a b) s = execInjectMem d a b s := rfl
@[simp] theorem exec_injectTrip (d : SReg) (a : SReg) (b : SReg) (s : State) : exec (.injectTrip d a b) s = execInjectTrip d a b s := rfl
@[simp] theorem exec_halt (s : State) : exec (.halt) s = execHalt s := rfl
@[simp] theorem exec_iadd (f : LForm) (s : State) : exec (.iadd f) s = execIadd f s := rfl
@[simp] theorem exec_iaddImm (f : LForm) (s : State) : exec (.iaddImm f) s = execIaddImm f s := rfl
@[simp] theorem exec_isub (f : LForm) (s : State) : exec (.isub f) s = execIsub f s := rfl
@[simp] theorem exec_isubImm (f : LForm) (s : State) : exec (.isubImm f) s = execIsubImm f s := rfl
@[simp] theorem exec_imul (f : LForm) (s : State) : exec (.imul f) s = execImul f s := rfl
@[simp] theorem exec_imulImm (f : LForm) (s : State) : exec (.imulImm f) s = execImulImm f s := rfl
@[simp] theorem exec_imulh (f : LForm) (s : State) : exec (.imulh f) s = execImulh f s := rfl
@[simp] theorem exec_imulhImm (f : LForm) (s : State) : exec (.imulhImm f) s = execImulhImm f s := rfl
@[simp] theorem exec_imad (f : LForm) (s : State) : exec (.imad f) s = execImad f s := rfl
@[simp] theorem exec_imadImm (f : LForm) (s : State) : exec (.imadImm f) s = execImadImm f s := rfl
@[simp] theorem exec_imin (f : LForm) (s : State) : exec (.imin f) s = execImin f s := rfl
@[simp] theorem exec_iminImm (f : LForm) (s : State) : exec (.iminImm f) s = execIminImm f s := rfl
@[simp] theorem exec_imax (f : LForm) (s : State) : exec (.imax f) s = execImax f s := rfl
@[simp] theorem exec_imaxImm (f : LForm) (s : State) : exec (.imaxImm f) s = execImaxImm f s := rfl
@[simp] theorem exec_laneAnd (f : LForm) (s : State) : exec (.laneAnd f) s = execLaneAnd f s := rfl
@[simp] theorem exec_laneAndImm (f : LForm) (s : State) : exec (.laneAndImm f) s = execLaneAndImm f s := rfl
@[simp] theorem exec_laneOr (f : LForm) (s : State) : exec (.laneOr f) s = execLaneOr f s := rfl
@[simp] theorem exec_laneOrImm (f : LForm) (s : State) : exec (.laneOrImm f) s = execLaneOrImm f s := rfl
@[simp] theorem exec_laneXor (f : LForm) (s : State) : exec (.laneXor f) s = execLaneXor f s := rfl
@[simp] theorem exec_laneXorImm (f : LForm) (s : State) : exec (.laneXorImm f) s = execLaneXorImm f s := rfl
@[simp] theorem exec_laneShl (f : LForm) (s : State) : exec (.laneShl f) s = execLaneShl f s := rfl
@[simp] theorem exec_laneShlImm (f : LForm) (s : State) : exec (.laneShlImm f) s = execLaneShlImm f s := rfl
@[simp] theorem exec_laneShr (f : LForm) (s : State) : exec (.laneShr f) s = execLaneShr f s := rfl
@[simp] theorem exec_laneShrImm (f : LForm) (s : State) : exec (.laneShrImm f) s = execLaneShrImm f s := rfl
@[simp] theorem exec_laneSra (f : LForm) (s : State) : exec (.laneSra f) s = execLaneSra f s := rfl
@[simp] theorem exec_laneSraImm (f : LForm) (s : State) : exec (.laneSraImm f) s = execLaneSraImm f s := rfl
@[simp] theorem exec_laneClz (f : LForm) (s : State) : exec (.laneClz f) s = execLaneClz f s := rfl
@[simp] theorem exec_lanePopc (f : LForm) (s : State) : exec (.lanePopc f) s = execLanePopc f s := rfl
@[simp] theorem exec_brev (f : LForm) (s : State) : exec (.brev f) s = execBrev f s := rfl
@[simp] theorem exec_bfe (f : LForm) (s : State) : exec (.bfe f) s = execBfe f s := rfl
@[simp] theorem exec_bfeImm (f : LForm) (s : State) : exec (.bfeImm f) s = execBfeImm f s := rfl
@[simp] theorem exec_bfi (f : LForm) (s : State) : exec (.bfi f) s = execBfi f s := rfl
@[simp] theorem exec_bfiImm (f : LForm) (s : State) : exec (.bfiImm f) s = execBfiImm f s := rfl
@[simp] theorem exec_bswz (f : LForm) (s : State) : exec (.bswz f) s = execBswz f s := rfl
@[simp] theorem exec_bswzImm (f : LForm) (s : State) : exec (.bswzImm f) s = execBswzImm f s := rfl
@[simp] theorem exec_icmp (f : LForm) (s : State) : exec (.icmp f) s = execIcmp f s := rfl
@[simp] theorem exec_icmpImm (f : LForm) (s : State) : exec (.icmpImm f) s = execIcmpImm f s := rfl
@[simp] theorem exec_laneSel (f : LForm) (s : State) : exec (.laneSel f) s = execLaneSel f s := rfl
@[simp] theorem exec_laneSelImm (f : LForm) (s : State) : exec (.laneSelImm f) s = execLaneSelImm f s := rfl
@[simp] theorem exec_mov (f : LForm) (s : State) : exec (.mov f) s = execMov f s := rfl
@[simp] theorem exec_movi (f : LForm) (s : State) : exec (.movi f) s = execMovi f s := rfl
@[simp] theorem exec_fadd (f : LForm) (s : State) : exec (.fadd f) s = execFadd f s := rfl
@[simp] theorem exec_faddImm (f : LForm) (s : State) : exec (.faddImm f) s = execFaddImm f s := rfl
@[simp] theorem exec_fsub (f : LForm) (s : State) : exec (.fsub f) s = execFsub f s := rfl
@[simp] theorem exec_fsubImm (f : LForm) (s : State) : exec (.fsubImm f) s = execFsubImm f s := rfl
@[simp] theorem exec_fmul (f : LForm) (s : State) : exec (.fmul f) s = execFmul f s := rfl
@[simp] theorem exec_fmulImm (f : LForm) (s : State) : exec (.fmulImm f) s = execFmulImm f s := rfl
@[simp] theorem exec_ffma (f : LForm) (s : State) : exec (.ffma f) s = execFfma f s := rfl
@[simp] theorem exec_ffmaImm (f : LForm) (s : State) : exec (.ffmaImm f) s = execFfmaImm f s := rfl
@[simp] theorem exec_fmin (f : LForm) (s : State) : exec (.fmin f) s = execFmin f s := rfl
@[simp] theorem exec_fminImm (f : LForm) (s : State) : exec (.fminImm f) s = execFminImm f s := rfl
@[simp] theorem exec_fmax (f : LForm) (s : State) : exec (.fmax f) s = execFmax f s := rfl
@[simp] theorem exec_fmaxImm (f : LForm) (s : State) : exec (.fmaxImm f) s = execFmaxImm f s := rfl
@[simp] theorem exec_fcmp (f : LForm) (s : State) : exec (.fcmp f) s = execFcmp f s := rfl
@[simp] theorem exec_fcmpImm (f : LForm) (s : State) : exec (.fcmpImm f) s = execFcmpImm f s := rfl
@[simp] theorem exec_frcp (f : LForm) (s : State) : exec (.frcp f) s = execFrcp f s := rfl
@[simp] theorem exec_frsq (f : LForm) (s : State) : exec (.frsq f) s = execFrsq f s := rfl
@[simp] theorem exec_fsqrt (f : LForm) (s : State) : exec (.fsqrt f) s = execFsqrt f s := rfl
@[simp] theorem exec_fexp2 (f : LForm) (s : State) : exec (.fexp2 f) s = execFexp2 f s := rfl
@[simp] theorem exec_flog2 (f : LForm) (s : State) : exec (.flog2 f) s = execFlog2 f s := rfl
@[simp] theorem exec_fsin (f : LForm) (s : State) : exec (.fsin f) s = execFsin f s := rfl
@[simp] theorem exec_fcos (f : LForm) (s : State) : exec (.fcos f) s = execFcos f s := rfl
@[simp] theorem exec_frnd (f : LForm) (s : State) : exec (.frnd f) s = execFrnd f s := rfl
@[simp] theorem exec_fclass (f : LForm) (s : State) : exec (.fclass f) s = execFclass f s := rfl
@[simp] theorem exec_cvt (f : LForm) (s : State) : exec (.cvt f) s = execCvt f s := rfl
@[simp] theorem exec_cvtq (f : LForm) (s : State) : exec (.cvtq f) s = execCvtq f s := rfl
@[simp] theorem exec_pack (f : LForm) (s : State) : exec (.pack f) s = execPack f s := rfl
@[simp] theorem exec_unpack (f : LForm) (s : State) : exec (.unpack f) s = execUnpack f s := rfl
@[simp] theorem exec_kand (f : LForm) (s : State) : exec (.kand f) s = execKand f s := rfl
@[simp] theorem exec_kor (f : LForm) (s : State) : exec (.kor f) s = execKor f s := rfl
@[simp] theorem exec_kxor (f : LForm) (s : State) : exec (.kxor f) s = execKxor f s := rfl
@[simp] theorem exec_knot (f : LForm) (s : State) : exec (.knot f) s = execKnot f s := rfl
@[simp] theorem exec_movem (f : LForm) (s : State) : exec (.movem f) s = execMovem f s := rfl
@[simp] theorem exec_popk (f : LForm) (s : State) : exec (.popk f) s = execPopk f s := rfl
@[simp] theorem exec_ffsk (f : LForm) (s : State) : exec (.ffsk f) s = execFfsk f s := rfl
@[simp] theorem exec_brl (f : LForm) (s : State) : exec (.brl f) s = execBrl f s := rfl
@[simp] theorem exec_brc (f : LForm) (s : State) : exec (.brc f) s = execBrc f s := rfl
@[simp] theorem exec_join (s : State) : exec (.join) s = execJoin s := rfl
@[simp] theorem exec_stop (s : State) : exec (.stop) s = execStop s := rfl
@[simp] theorem exec_item (f : LForm) (s : State) : exec (.item f) s = execItem f s := rfl
@[simp] theorem exec_voteBallot (f : LForm) (s : State) : exec (.voteBallot f) s = execVoteBallot f s := rfl
@[simp] theorem exec_voteAny (f : LForm) (s : State) : exec (.voteAny f) s = execVoteAny f s := rfl
@[simp] theorem exec_voteAll (f : LForm) (s : State) : exec (.voteAll f) s = execVoteAll f s := rfl
@[simp] theorem exec_elect (f : LForm) (s : State) : exec (.elect f) s = execElect f s := rfl
@[simp] theorem exec_ldw (f : LForm) (s : State) : exec (.ldw f) s = execLdw f s := rfl
@[simp] theorem exec_ldwImm (f : LForm) (s : State) : exec (.ldwImm f) s = execLdwImm f s := rfl
@[simp] theorem exec_ldh (f : LForm) (s : State) : exec (.ldh f) s = execLdh f s := rfl
@[simp] theorem exec_ldhImm (f : LForm) (s : State) : exec (.ldhImm f) s = execLdhImm f s := rfl
@[simp] theorem exec_ldb (f : LForm) (s : State) : exec (.ldb f) s = execLdb f s := rfl
@[simp] theorem exec_ldbImm (f : LForm) (s : State) : exec (.ldbImm f) s = execLdbImm f s := rfl
@[simp] theorem exec_ldd (f : LForm) (s : State) : exec (.ldd f) s = execLdd f s := rfl
@[simp] theorem exec_lddImm (f : LForm) (s : State) : exec (.lddImm f) s = execLddImm f s := rfl
@[simp] theorem exec_stw (f : LForm) (s : State) : exec (.stw f) s = execStw f s := rfl
@[simp] theorem exec_sth (f : LForm) (s : State) : exec (.sth f) s = execSth f s := rfl
@[simp] theorem exec_stb (f : LForm) (s : State) : exec (.stb f) s = execStb f s := rfl
@[simp] theorem exec_std (f : LForm) (s : State) : exec (.std f) s = execStd f s := rfl
@[simp] theorem exec_ldx (f : LForm) (s : State) : exec (.ldx f) s = execLdx f s := rfl
@[simp] theorem exec_ldxImm (f : LForm) (s : State) : exec (.ldxImm f) s = execLdxImm f s := rfl
@[simp] theorem exec_ldp (f : LForm) (s : State) : exec (.ldp f) s = execLdp f s := rfl
@[simp] theorem exec_ldpImm (f : LForm) (s : State) : exec (.ldpImm f) s = execLdpImm f s := rfl
@[simp] theorem exec_stp (f : LForm) (s : State) : exec (.stp f) s = execStp f s := rfl
@[simp] theorem exec_pref (f : LForm) (s : State) : exec (.pref f) s = execPref f s := rfl
@[simp] theorem exec_prefImm (f : LForm) (s : State) : exec (.prefImm f) s = execPrefImm f s := rfl
@[simp] theorem exec_atomAdd (f : LForm) (s : State) : exec (.atomAdd f) s = execAtomAdd f s := rfl
@[simp] theorem exec_atomMin (f : LForm) (s : State) : exec (.atomMin f) s = execAtomMin f s := rfl
@[simp] theorem exec_atomMax (f : LForm) (s : State) : exec (.atomMax f) s = execAtomMax f s := rfl
@[simp] theorem exec_atomAnd (f : LForm) (s : State) : exec (.atomAnd f) s = execAtomAnd f s := rfl
@[simp] theorem exec_atomOr (f : LForm) (s : State) : exec (.atomOr f) s = execAtomOr f s := rfl
@[simp] theorem exec_atomXor (f : LForm) (s : State) : exec (.atomXor f) s = execAtomXor f s := rfl
@[simp] theorem exec_atomSwap (f : LForm) (s : State) : exec (.atomSwap f) s = execAtomSwap f s := rfl
@[simp] theorem exec_atomCas (f : LForm) (s : State) : exec (.atomCas f) s = execAtomCas f s := rfl
@[simp] theorem exec_eopAdd (f : LForm) (s : State) : exec (.eopAdd f) s = execEopAdd f s := rfl
@[simp] theorem exec_eopMin (f : LForm) (s : State) : exec (.eopMin f) s = execEopMin f s := rfl
@[simp] theorem exec_eopMax (f : LForm) (s : State) : exec (.eopMax f) s = execEopMax f s := rfl
@[simp] theorem exec_eopAnd (f : LForm) (s : State) : exec (.eopAnd f) s = execEopAnd f s := rfl
@[simp] theorem exec_eopOr (f : LForm) (s : State) : exec (.eopOr f) s = execEopOr f s := rfl
@[simp] theorem exec_eopXor (f : LForm) (s : State) : exec (.eopXor f) s = execEopXor f s := rfl
@[simp] theorem exec_isect (f : LForm) (s : State) : exec (.isect f) s = execIsect f s := rfl
@[simp] theorem exec_scankIncl (f : LForm) (s : State) : exec (.scankIncl f) s = execScankIncl f s := rfl
@[simp] theorem exec_scankExcl (f : LForm) (s : State) : exec (.scankExcl f) s = execScankExcl f s := rfl
@[simp] theorem exec_segredAdd (f : LForm) (s : State) : exec (.segredAdd f) s = execSegredAdd f s := rfl
@[simp] theorem exec_segredMin (f : LForm) (s : State) : exec (.segredMin f) s = execSegredMin f s := rfl
@[simp] theorem exec_segredMax (f : LForm) (s : State) : exec (.segredMax f) s = execSegredMax f s := rfl
@[simp] theorem exec_segredAnd (f : LForm) (s : State) : exec (.segredAnd f) s = execSegredAnd f s := rfl
@[simp] theorem exec_segredOr (f : LForm) (s : State) : exec (.segredOr f) s = execSegredOr f s := rfl
@[simp] theorem exec_segredXor (f : LForm) (s : State) : exec (.segredXor f) s = execSegredXor f s := rfl
@[simp] theorem exec_callv (f : LForm) (s : State) : exec (.callv f) s = execCallv f s := rfl
@[simp] theorem exec_replaceSupply (f : LForm) (s : State) : exec (.replaceSupply f) s = execReplaceSupply f s := rfl
@[simp] theorem exec_replaceStore (f : LForm) (s : State) : exec (.replaceStore f) s = execReplaceStore f s := rfl
@[simp] theorem exec_runStart (g : Nat) (s : State) : exec (.runStart g) s = execRunStart g s := rfl
@[simp] theorem exec_itemRetry (g : Nat) (s : State) : exec (.itemRetry g) s = execItemRetry g s := rfl
@[simp] theorem exec_yieldResume (g : Nat) (s : State) : exec (.yieldResume g) s = execYieldResume g s := rfl
@[simp] theorem exec_brcAdmissionClose (m : Nat) (s : State) : exec (.brcAdmissionClose m) s = execBrcAdmissionClose m s := rfl
@[simp] theorem exec_queueCause (g : Nat) (s : State) : exec (.queueCause g) s = execQueueCause g s := rfl
@[simp] theorem exec_copyComplete (n : Nat) (s : State) : exec (.copyComplete n) s = execCopyComplete n s := rfl
@[simp] theorem exec_clearingComplete (n : Nat) (done : List Nat) (s : State) : exec (.clearingComplete n done) s = execClearingComplete n done s := rfl
@[simp] theorem exec_matrixOpComplete (g : Nat) (token : BitVec 8) (s : State) : exec (.matrixOpComplete g token) s = execMatrixOpComplete g token s := rfl
@[simp] theorem exec_hadComplete (g : Nat) (token : BitVec 8) (s : State) : exec (.hadComplete g token) s = execHadComplete g token s := rfl
@[simp] theorem exec_collectiveComplete (g : Nat) (num : BitVec 8) (end_ : CollEnd) (s : State) : exec (.collectiveComplete g num end_) s = execCollectiveComplete g num end_ s := rfl
@[simp] theorem exec_recordCacheDrop (cluster : Nat) (asid : BitVec 16) (addr : W64) (s : State) : exec (.recordCacheDrop cluster asid addr) s = execRecordCacheDrop cluster asid addr s := rfl
@[simp] theorem exec_teamCommit (launch : Nat) (team : Nat) (p : Placement) (s : State) : exec (.teamCommit launch team p) s = execTeamCommit launch team p s := rfl
@[simp] theorem exec_launchComplete (launch : Nat) (s : State) : exec (.launchComplete launch) s = execLaunchComplete launch s := rfl
@[simp] theorem exec_graphComplete (inst : Nat) (s : State) : exec (.graphComplete inst) s = execGraphComplete inst s := rfl
@[simp] theorem exec_dependencePoll (launch : Nat) (dep : Nat) (s : State) : exec (.dependencePoll launch dep) s = execDependencePoll launch dep s := rfl
@[simp] theorem exec_dependenceWriteReport (launch : Nat) (dep : Nat) (s : State) : exec (.dependenceWriteReport launch dep) s = execDependenceWriteReport launch dep s := rfl
@[simp] theorem exec_launchQueueWatch (ctx : Nat) (q : Nat) (s : State) : exec (.launchQueueWatch ctx q) s = execLaunchQueueWatch ctx q s := rfl
@[simp] theorem exec_translationMiss (asid : BitVec 16) (va : W64) (k : AccKind) (s : State) : exec (.translationMiss asid va k) s = execTranslationMiss asid va k s := rfl
@[simp] theorem exec_faultResolve (n : Nat) (leaf : W64) (s : State) : exec (.faultResolve n leaf) s = execFaultResolve n leaf s := rfl
@[simp] theorem exec_faultDeliver (n : Nat) (frame : Bool) (s : State) : exec (.faultDeliver n frame) s = execFaultDeliver n frame s := rfl
@[simp] theorem exec_faultHostTimeout (n : Nat) (s : State) : exec (.faultHostTimeout n) s = execFaultHostTimeout n s := rfl
@[simp] theorem exec_pageMigrate (ctx : Nat) (va : W64) (frame : W64) (s : State) : exec (.pageMigrate ctx va frame) s = execPageMigrate ctx va frame s := rfl
@[simp] theorem exec_cacheEvict (core : Option Nat) (tag : BitVec 16) (block : Nat) (s : State) : exec (.cacheEvict core tag block) s = execCacheEvict core tag block s := rfl
@[simp] theorem exec_pchBurst (pch : Nat) (isWrite : Bool) (pat : BurstPattern) (s : State) : exec (.pchBurst pch isWrite pat) s = execPchBurst pch isWrite pat s := rfl
@[simp] theorem exec_scrubWrite (pch : Nat) (s : State) : exec (.scrubWrite pch) s = execScrubWrite pch s := rfl
@[simp] theorem exec_refreshDue (stack : Nat) (die : Nat) (s : State) : exec (.refreshDue stack die) s = execRefreshDue stack die s := rfl
@[simp] theorem exec_refreshAhead (stack : Nat) (die : Nat) (s : State) : exec (.refreshAhead stack die) s = execRefreshAhead stack die s := rfl
@[simp] theorem exec_cbEvaluate (stack : Nat) (below10 : Bool) (s : State) : exec (.cbEvaluate stack below10) s = execCbEvaluate stack below10 s := rfl
@[simp] theorem exec_pcctlWrite (addr : W32) (v : W32) (s : State) : exec (.pcctlWrite addr v) s = execPcctlWrite addr v s := rfl
@[simp] theorem exec_strandDrainEnd (pch : Nat) (s : State) : exec (.strandDrainEnd pch) s = execStrandDrainEnd pch s := rfl
@[simp] theorem exec_rdstrDeferred (pch : Nat) (s : State) : exec (.rdstrDeferred pch) s = execRdstrDeferred pch s := rfl
@[simp] theorem exec_sliceEnd (tenant : Nat) (s : State) : exec (.sliceEnd tenant) s = execSliceEnd tenant s := rfl
@[simp] theorem exec_preemption (tenant : Nat) (s : State) : exec (.preemption tenant) s = execPreemption tenant s := rfl
@[simp] theorem exec_waysDrainEnd (tenant : Nat) (s : State) : exec (.waysDrainEnd tenant) s = execWaysDrainEnd tenant s := rfl
@[simp] theorem exec_vacateRequest (tenant : Nat) (r : VacateReq) (s : State) : exec (.vacateRequest tenant r) s = execVacateRequest tenant r s := rfl
@[simp] theorem exec_vacateConvert (tenant : Nat) (q : Nat) (s : State) : exec (.vacateConvert tenant q) s = execVacateConvert tenant q s := rfl
@[simp] theorem exec_vacateRunTimeout (tenant : Nat) (q : Nat) (s : State) : exec (.vacateRunTimeout tenant q) s = execVacateRunTimeout tenant q s := rfl
@[simp] theorem exec_checkpointCommit (tenant : Nat) (q : Nat) (s : State) : exec (.checkpointCommit tenant q) s = execCheckpointCommit tenant q s := rfl
@[simp] theorem exec_checkpointAck (tenant : Nat) (q : Nat) (s : State) : exec (.checkpointAck tenant q) s = execCheckpointAck tenant q s := rfl
@[simp] theorem exec_tenantVacant (tenant : Nat) (s : State) : exec (.tenantVacant tenant) s = execTenantVacant tenant s := rfl
@[simp] theorem exec_launchPacket (h : Hdr) (words : Vector W32 32) (s : State) : exec (.launchPacket h words) s = execLaunchPacket h words s := rfl
@[simp] theorem exec_launchg (h : Hdr) (addr : W64) (s : State) : exec (.launchg h addr) s = execLaunchg h addr s := rfl
@[simp] theorem exec_read (h : Hdr) (addr : W64) (count : Nat) (s : State) : exec (.read h addr count) s = execRead h addr count s := rfl
@[simp] theorem exec_write (h : Hdr) (addr : W64) (count : Nat) (en : W64) (data : List W32) (s : State) : exec (.write h addr count en data) s = execWrite h addr count en data s := rfl
@[simp] theorem exec_atomic (h : Hdr) (addr : W64) (op : BitVec 7) (operand : W32) (compare : W32) (s : State) : exec (.atomic h addr op operand compare) s = execAtomic h addr op operand compare s := rfl
@[simp] theorem exec_qreg (h : Hdr) (base : W64) (size : W32) (s : State) : exec (.qreg h base size) s = execQreg h base size s := rfl
@[simp] theorem exec_comm (h : Hdr) (c : CommReg) (s : State) : exec (.comm h c) s = execComm h c s := rfl
@[simp] theorem exec_tenant (h : Hdr) (tid : Nat) (r : TenantRec) (s : State) : exec (.tenant h tid r) s = execTenant h tid r s := rfl
@[simp] theorem exec_vacatePacket (h : Hdr) (tenant : Nat) (r : VacateReq) (s : State) : exec (.vacatePacket h tenant r) s = execVacatePacket h tenant r s := rfl
@[simp] theorem exec_faultr (h : Hdr) (n : Nat) (ans : FaultAnswer) (s : State) : exec (.faultr h n ans) s = execFaultr h n ans s := rfl
@[simp] theorem exec_callr (h : Hdr) (n : Nat) (seq : W32) (reps : Lanes W32) (s : State) : exec (.callr h n seq reps) s = execCallr h n seq reps s := rfl
@[simp] theorem exec_drainStart (h : Hdr) (s : State) : exec (.drainStart h) s = execDrainStart h s := rfl
@[simp] theorem exec_drainCancel (h : Hdr) (s : State) : exec (.drainCancel h) s = execDrainCancel h s := rfl
@[simp] theorem exec_peermap (h : Hdr) (p : PeerReg) (s : State) : exec (.peermap h p) s = execPeermap h p s := rfl
@[simp] theorem exec_contextCreate (h : Hdr) (c : CtxCreate) (s : State) : exec (.contextCreate h c) s = execContextCreate h c s := rfl
@[simp] theorem exec_contextDestroy (h : Hdr) (s : State) : exec (.contextDestroy h) s = execContextDestroy h s := rfl
@[simp] theorem exec_contextSetFlags (h : Hdr) (priv : Bool) (s : State) : exec (.contextSetFlags h priv) s = execContextSetFlags h priv s := rfl
@[simp] theorem exec_contextChangePte (h : Hdr) (level : BitVec 8) (va : W64) (entry : W64) (s : State) : exec (.contextChangePte h level va entry) s = execContextChangePte h level va entry s := rfl
@[simp] theorem exec_contextSetRegion (h : Hdr) (index : BitVec 8) (d : RegionSet) (s : State) : exec (.contextSetRegion h index d) s = execContextSetRegion h index d s := rfl
@[simp] theorem exec_unassignedRequest (h : Hdr) (kind : BadKind) (s : State) : exec (.unassignedRequest h kind) s = execUnassignedRequest h kind s := rfl
@[simp] theorem exec_reply (h : Hdr) (kind : BitVec 8) (p : ReplyData) (s : State) : exec (.reply h kind p) s = execReply h kind p s := rfl
@[simp] theorem exec_noticeAck (h : Hdr) (s : State) : exec (.noticeAck h) s = execNoticeAck h s := rfl
@[simp] theorem exec_noticeResend (n : Nat) (s : State) : exec (.noticeResend n) s = execNoticeResend n s := rfl
@[simp] theorem exec_colld (h : Hdr) (c : CollData) (s : State) : exec (.colld h c) s = execColld h c s := rfl
@[simp] theorem exec_colldAck (h : Hdr) (s : State) : exec (.colldAck h) s = execColldAck h s := rfl
@[simp] theorem exec_colldResend (n : Nat) (s : State) : exec (.colldResend n) s = execColldResend n s := rfl
@[simp] theorem exec_packetCrcFail (port : Nat) (h : Hdr) (kind : BitVec 8) (s : State) : exec (.packetCrcFail port h kind) s = execPacketCrcFail port h kind s := rfl
@[simp] theorem exec_peerTimeout (n : Nat) (s : State) : exec (.peerTimeout n) s = execPeerTimeout n s := rfl
@[simp] theorem exec_callServiceSplit (ctx : Nat) (n : Nat) (s : State) : exec (.callServiceSplit ctx n) s = execCallServiceSplit ctx n s := rfl
@[simp] theorem exec_callServiceRefill (ctx : Nat) (n : Nat) (frames : List (BitVec 27)) (s : State) : exec (.callServiceRefill ctx n frames) s = execCallServiceRefill ctx n frames s := rfl
@[simp] theorem exec_callTimeout (ctx : Nat) (n : Nat) (s : State) : exec (.callTimeout ctx n) s = execCallTimeout ctx n s := rfl
@[simp] theorem exec_quiesceComplete (s : State) : exec (.quiesceComplete) s = execQuiesceComplete s := rfl
@[simp] theorem exec_quiesceTimeout (n : Nat) (s : State) : exec (.quiesceTimeout n) s = execQuiesceTimeout n s := rfl
@[simp] theorem exec_withdrawRetry (s : State) : exec (.withdrawRetry) s = execWithdrawRetry s := rfl
@[simp] theorem exec_withdrawConfirm (plane : Nat) (s : State) : exec (.withdrawConfirm plane) s = execWithdrawConfirm plane s := rfl
@[simp] theorem exec_i3cRead (count : Nat) (s : State) : exec (.i3cRead count) s = execI3cRead count s := rfl
@[simp] theorem exec_i3cWrite (offset : BitVec 24) (data : List Byte) (s : State) : exec (.i3cWrite offset data) s = execI3cWrite offset data s := rfl
@[simp] theorem exec_pcmdColdReset (s : State) : exec (.pcmdColdReset) s = execPcmdColdReset s := rfl
@[simp] theorem exec_pcmdWarmReset (s : State) : exec (.pcmdWarmReset) s = execPcmdWarmReset s := rfl
@[simp] theorem exec_watchdogExpire (s : State) : exec (.watchdogExpire) s = execWatchdogExpire s := rfl
@[simp] theorem exec_powerOn (s : State) : exec (.powerOn) s = execPowerOn s := rfl
@[simp] theorem exec_bootComplete (f : FabricIds) (s : State) : exec (.bootComplete f) s = execBootComplete f s := rfl
@[simp] theorem exec_currentLimitExceeded (block : Nat) (s : State) : exec (.currentLimitExceeded block) s = execCurrentLimitExceeded block s := rfl
@[simp] theorem exec_currentRecovery (block : Nat) (s : State) : exec (.currentRecovery block) s = execCurrentRecovery block s := rfl
@[simp] theorem exec_thermalThrottle (block : Nat) (s : State) : exec (.thermalThrottle block) s = execThermalThrottle block s := rfl
@[simp] theorem exec_thermalTrip (block : Nat) (s : State) : exec (.thermalTrip block) s = execThermalTrip block s := rfl
@[simp] theorem exec_lifetimeSnapshot (s : State) : exec (.lifetimeSnapshot) s = execLifetimeSnapshot s := rfl
@[simp] theorem exec_unassignedInstruction (s : State) : exec (.unassignedInstruction) s = execUnassignedInstruction s := rfl
@[simp] theorem exec_groupResume (g : Nat) (hbase : Option W64) (s : State) : exec (.groupResume g hbase) s = execGroupResume g hbase s := rfl
@[simp] theorem exec_softError (t : SoftTarget) (s : State) : exec (.softError t) s = execSoftError t s := rfl
@[simp] theorem exec_powerFail (s : State) : exec (.powerFail) s = execPowerFail s := rfl
@[simp] theorem exec_refreshEnd (stack : Nat) (die : Nat) (s : State) : exec (.refreshEnd stack die) s = execRefreshEnd stack die s := rfl
@[simp] theorem exec_accessPerformed (g : Nat) (n : Nat) (s : State) : exec (.accessPerformed g n) s = execAccessPerformed g n s := rfl
@[simp] theorem exec_flitRetry (port : Nat) (lane : Nat) (s : State) : exec (.flitRetry port lane) s = execFlitRetry port lane s := rfl
@[simp] theorem exec_viaductLaneRetrain (lane : Nat) (s : State) : exec (.viaductLaneRetrain lane) s = execViaductLaneRetrain lane s := rfl
@[simp] theorem exec_strandRetrain (pch : Nat) (s : State) : exec (.strandRetrain pch) s = execStrandRetrain pch s := rfl
@[simp] theorem exec_routesRestored (s : State) : exec (.routesRestored) s = execRoutesRestored s := rfl
@[simp] theorem exec_linksRetrained (s : State) : exec (.linksRetrained) s = execLinksRetrained s := rfl
@[simp] theorem exec_checkpointSection (src : Nat) (x : CkptSection) (s : State) : exec (.checkpointSection src x) s = execCheckpointSection src x s := rfl
@[simp] theorem exec_preCopyRound (ctx : Nat) (s : State) : exec (.preCopyRound ctx) s = execPreCopyRound ctx s := rfl

end Sys2Proof.Machine
end

