-- ==== Sys2Proof/Laws/Rows.lean ====
section
/-! SUPPORT. The laws of register rows: what spills, refetches and releases leave alone. -/

namespace Sys2Proof.Machine

/-! ### Groups whose rename map alone changes -/

theorem putV_eq (G : Group) (r : VNum) (x : VReg) :
    G.putV r x = { G with vec := { G.vec with vregs := G.vec.vregs.setIfInBounds r.toNat x } } := rfl

/-- A register that has just been written. -/
@[simp] theorem vreg_putV_same (G : Group) (r : VNum) (x : VReg) : (G.putV r x).vreg r = x := by
  have : r.toNat < 128 := r.isLt
  simp [Group.vreg, Group.putV, Vector.toList_setIfInBounds, List.getD_eq_getElem?_getD, this]

/-- Every other register is as it was. -/
theorem vreg_putV_other (G : Group) {r q : VNum} (x : VReg) (h : q ≠ r) : (G.putV r x).vreg q = G.vreg q := by
  have hn : r.toNat ≠ q.toNat := fun e => h (BitVec.eq_of_toNat_eq e.symm)
  simp [Group.vreg, Group.putV, Vector.toList_setIfInBounds, List.getD_eq_getElem?_getD, List.getElem?_set_ne hn]

/-- Releasing registers changes the rename map alone. -/
theorem foldl_release_eq (rs : List VNum) (G : Group) :
    ∃ V, rs.foldl Group.release G = { G with vec := { G.vec with vregs := V } } := by
  induction rs generalizing G with
  | nil => exact ⟨_, rfl⟩
  | cons r t ih => exact (ih (G.release r)).imp fun _ h => by rw [List.foldl_cons, h]; rfl

/-- A released register is unmapped, and every other one is as it was. -/
theorem vreg_foldl_release (rs : List VNum) (G : Group) (r : VNum) :
    (rs.foldl Group.release G).vreg r = if r ∈ rs then VReg.none else G.vreg r := by
  induction rs generalizing G with
  | nil => simp
  | cons q t ih =>
    rw [List.foldl_cons, ih]
    by_cases h : r = q
    · subst h
      simp [Group.release]
    · simp [Group.release, h, vreg_putV_other _ _ h]

/-! ### States in which rows alone have moved -/

/-- From s to t rows alone have moved: the rename maps of groups have changed, and memory, by what the spills have written. -/
structure RowsMoved (s t : State) : Prop where
  rest : SameOutside { s with groups := t.groups } t
  length : t.groups.length = s.groups.length
  groups : ∀ g G, s.group? g = some G → ∃ V, t.group? g = some { G with vec := { G.vec with vregs := V } }

theorem RowsMoved.refl (s : State) : RowsMoved s s := ⟨.refl s, rfl, fun _ G h => ⟨G.vec.vregs, h⟩⟩

theorem RowsMoved.trans {s t u : State} (a : RowsMoved s t) (b : RowsMoved t u) : RowsMoved s u := by
  refine ⟨⟨by rw [b.rest.1, a.rest.1], b.rest.2.1.trans a.rest.2.1, b.rest.2.2.trans a.rest.2.2⟩, b.length.trans a.length, fun g G h => ?_⟩
  obtain ⟨V, h⟩ := a.groups g G h
  obtain ⟨W, h⟩ := b.groups g _ h
  exact ⟨W, h⟩

/-- Memory alone has changed. -/
theorem RowsMoved.outside {s t : State} (h : SameOutside s t) : RowsMoved s t := by
  have e : t.groups = s.groups := by rw [h.1]
  refine ⟨by rw [e]; exact h, by rw [e], fun g G hg => ⟨G.vec.vregs, ?_⟩⟩
  simpa only [State.group?, e] using hg

/-- A group whose rename map changes. -/
theorem RowsMoved.modGroup (s : State) (g : Nat) {f : Group → Group}
    (h : ∀ G, ∃ V, f G = { G with vec := { G.vec with vregs := V } }) : RowsMoved s (s.modGroup g f) := by
  refine ⟨.refl _, by simp [State.modGroup], fun k K hk => ?_⟩
  by_cases e : k = g
  · subst e
    obtain ⟨V, hV⟩ := h K
    exact ⟨V, by rw [group?_modGroup_same f hk, hV]⟩
  · refine ⟨K.vec.vregs, ?_⟩
    simp only [State.group?] at hk
    simp [State.group?, State.modGroup, hk, Ne.symm e]

/-- A spill: the register's words go to its slot, and its row is free (R119). -/
theorem spillRow_moved (s : State) (g : Nat) (r : VNum) : RowsMoved s (spillRow s g r) := by
  unfold spillRow
  split
  · exact .refl s
  · simp only
    split
    · next c _ =>
      have k := fun core va ws => areaPut_keeps (sameOutside_stable s) core c va ws (s := s.useFree 32) ⟨rfl, rfl, rfl⟩
      exact (RowsMoved.outside (k _ _ _)).trans (.modGroup _ _ fun _ => ⟨_, rfl⟩)
    · exact .modGroup _ _ fun _ => ⟨_, rfl⟩

theorem quadSpace_moved {s t : State} {q g n : Nat} {excl : List VNum} (h : quadSpace s q g n excl = .ok t) : RowsMoved s t := by
  unfold quadSpace at h
  repeat' split at h
  all_goals cases h
  · exact .refl s
  · exact spillRow_moved _ _ _

theorem quadRoom_moved {s t : State} {q g n : Nat} {excl : List VNum} (h : quadRoom s q g n excl = .ok t) : RowsMoved s t := by
  unfold quadRoom at h
  split at h
  · cases h
  · exact quadSpace_moved h

/-- Room for a row: spills alone (R120, R122). -/
theorem roomFor_moved {s t : State} {g n : Nat} {excl : List VNum} (h : roomFor s g n excl = .ok t) : RowsMoved s t := by
  unfold roomFor at h
  split at h
  · cases h
  · split at h
    · exact quadRoom_moved h
    · split at h
      · exact (spillRow_moved _ _ _).trans (quadSpace_moved h)
      · cases h

theorem roomForAll_moved {excl : List VNum} {g : Nat} : ∀ {n k : Nat} {s t : State}, roomForAll s g k excl n = .ok t → RowsMoved s t
  | 0, _, s, t, h => by
    cases h
    exact .refl s
  | n + 1, k, s, t, h => by
    simp only [roomForAll] at h
    split at h
    · next u hu => exact (roomFor_moved hu).trans (roomForAll_moved h)
    · next r hn =>
      rw [h] at hn
      exact absurd rfl (hn _)

/-- What a read of a spill slot changes. -/
theorem slotWords_outside (s : State) (G : Group) (r : VNum) : SameOutside s (slotWords s G r).2 := by
  unfold slotWords
  split
  · exact areaGet_keeps (sameOutside_stable s) _ _ _ _ (.refl s)
  · exact .refl s

theorem slotBusy_outside (s : State) (G : Group) (r : VNum) : SameOutside s (slotBusy s G r).2 := by
  unfold slotBusy
  split
  · exact areaBusy_keeps (sameOutside_stable s) _ _ _ (.refl s)
  · exact .refl s

/-- A refetch: the slot is read, and a row is found (R119). -/
theorem refetch_moved {s t : State} {g : Nat} {excl : List VNum} {r : VNum} (h : refetch s g excl r = .ok t) : RowsMoved s t := by
  unfold refetch at h
  split at h
  · cases h
  · next G _ =>
    split at h
    · cases h
      exact .refl s
    · split at h
      · cases h
      next s0 e0 =>
      split at h
      next ws s1 e =>
      have k : RowsMoved s s1 := (RowsMoved.outside (snd_keeps e0 (slotBusy_outside s G r))).trans
        (.outside (snd_keeps e (slotWords_outside s0 G r)))
      split at h
      · cases h
      · split at h
        · cases h
        · next u hu =>
          cases h
          exact k.trans ((roomFor_moved hu).trans (.modGroup _ _ fun _ => ⟨_, rfl⟩))

theorem refetchAll_moved {excl : List VNum} {g : Nat} : ∀ {rs : List VNum} {s t : State}, refetchAll s g excl rs = .ok t → RowsMoved s t
  | [], s, t, h => by
    cases h
    exact .refl s
  | r :: rs, s, t, h => by
    simp only [refetchAll] at h
    split at h
    · next u hu => exact (refetch_moved hu).trans (refetchAll_moved h)
    · next r hn =>
      rw [h] at hn
      exact absurd rfl (hn _)

/-- Making rows ready changes the rename maps of groups, and memory by spills and refetches (R119 to R122). -/
theorem ensureRows_moved {s t : State} {g : Nat} {reads writes : List VNum} {part : Bool}
    (h : ensureRows s g reads writes part = .ok t) : RowsMoved s t := by
  unfold ensureRows at h
  simp only at h
  split at h
  · next u hu =>
    split at h
    · next v hv =>
      cases h
      exact (refetchAll_moved hu).trans (roomForAll_moved hv)
    · cases h
  · next hn =>
    rw [h] at hn
    exact absurd rfl (hn _)

end Sys2Proof.Machine
end

