-- ==== Sys2Proof/Laws/Lanes.lean ====
section
/-! SUPPORT. What a lane instruction's end can be, once it is ready: retired, waiting, or a cause; one lemma for each shared operation. -/

namespace Sys2Proof.Machine

/-! ### What a lane instruction works on -/

/-- What a ready lane instruction works on: the current group as it stands in the state, its own form and row, the lane PC, and its active
lanes, unless the operand log has them. -/
structure LaneAt (s : State) (i : Instr) (x : LaneIn) (op : Nat) (f : LForm) : Prop where
  parts : laneParts i = some (op, f)
  row : laneRow (op % 512) = some x.row
  group : x.g = s.cur
  form : x.f = f
  here : x.s.group? s.cur = some x.G
  act : loggedOps x.s (.lane s.cur) x.pc = none → x.act = activeMask x.G f.pred
  pc : x.pc = x.G.lane.lpc
  was : ∃ G, s.group? s.cur = some G ∧ RowsMoved (s.setGroup s.cur (G.laneBegin f)) x.s ∧ x.G.lane.lpc = G.lane.lpc

/-- A group that begins a lane instruction stands where it stood. -/
theorem laneBegin_lpc (G : Group) (f : LForm) : (G.laneBegin f).lane.lpc = G.lane.lpc := by
  unfold Group.laneBegin
  simp only
  split
  · obtain ⟨V, h⟩ := foldl_release_eq G.lane.letGo.rel { G with lane := G.lane.letGo }
    rw [h]
    rfl
  · rfl

/-- What the operand log leaves of what an instruction works on (R127). -/
theorem laneIn_eq (s : State) (g : Nat) (G : Group) (w : Who) (run : Run) (row : LaneRow) (f : LForm) :
    (laneIn s g G w run row f).s = s ∧ (laneIn s g G w run row f).g = g ∧ (laneIn s g G w run row f).G = G ∧
    (laneIn s g G w run row f).f = f ∧ (laneIn s g G w run row f).row = row ∧ (laneIn s g G w run row f).pc = G.lane.lpc ∧
    (loggedOps s (.lane g) G.lane.lpc = none → (laneIn s g G w run row f).act = activeMask G f.pred) := by
  unfold laneIn
  simp only
  split
  · next e h => exact ⟨rfl, rfl, rfl, rfl, rfl, rfl, fun n => by rw [n] at h; cases h⟩
  · exact ⟨rfl, rfl, rfl, rfl, rfl, rfl, fun _ => rfl⟩

/-- The end of a lane meaning: what runLane makes of its result. -/
theorem runLane_ready {s : State} {i : Instr} {h : Bool} {x : LaneIn} {op : Nat} {f : LForm} (ready : LaneReady s i h x)
    (parts : laneParts i = some (op, f)) (body : LaneIn → LRes) :
    LaneAt s i x op f ∧ runLane s (op % 512) f h body = match body x with
      | .done s' next => .next (laneRetire x s' next)
      | .wait s' => .next (laneWait x (logsOps i) s')
      | .trap s' r => trapLane s' s.cur x.pc r := by
  obtain ⟨op', f', row, G, run, w, s1, G1, hp, hrow, hG, hrun, hw, hwatch, hcheck, hrows, hG1, hx⟩ := ready.ready
  rw [parts] at hp
  cases hp
  have moved := ensureRows_moved hrows
  have start : (s.setGroup s.cur (G.laneBegin f)).group? s.cur = some (G.laneBegin f) := group?_setGroup_same _ hG
  have lpc : G1.lane.lpc = G.lane.lpc := by
    obtain ⟨V, hV⟩ := moved.groups _ _ start
    rw [hG1] at hV
    cases hV
    exact laneBegin_lpc G f
  obtain ⟨es, eg, eG, ef, er, ep, ea⟩ := laneIn_eq s1 s.cur G1 w run row f
  rw [← hx] at es eg eG ef er ep ea
  refine ⟨⟨parts, by rw [er]; exact hrow, eg, ef, by rw [es, eG]; exact hG1, by rw [es, ep, eG]; exact ea, by rw [ep, eG],
    G, hG, by rw [es]; exact moved, by rw [eG]; exact lpc⟩, ?_⟩
  simp only [runLane, hG, hrow, hrun, hw]
  rw [if_neg (by simp [hwatch]), hcheck]
  simp only
  rw [hrows]
  simp only [hG1, ← hx]
  rw [ep, lpc]
  have log : logsOps i = !isAtom (op % 512) := by simp only [logsOps, parts]
  rw [log]
  all_goals cases body x <;> rfl

/-- A lane meaning that is done retires. -/
theorem laneRetires_of {s s' : State} {i : Instr} {h : Bool} {x : LaneIn} {op : Nat} {f : LForm} {body : LaneIn → LRes} {pc : W64}
    (ready : LaneReady s i h x) (parts : laneParts i = some (op, f)) (ex : exec i s = runLane s (op % 512) f h body)
    (done : body x = .done s' pc) : LaneRetires i s x s' pc := by
  rw [LaneRetires, ex, (runLane_ready ready parts body).2, done]

/-- A lane meaning that waits leaves the state it names, with what the instruction keeps while it waits. -/
theorem laneWaits_of {s s' : State} {i : Instr} {h : Bool} {x : LaneIn} {op : Nat} {f : LForm} {body : LaneIn → LRes}
    (ready : LaneReady s i h x) (parts : laneParts i = some (op, f)) (ex : exec i s = runLane s (op % 512) f h body)
    (wait : body x = .wait s') : LaneWaits i s x s' := by
  rw [LaneWaits, ex, (runLane_ready ready parts body).2, wait]

/-- A cause of the lane stream, with the chain head that its record names. -/
theorem laneTrap_eq (s : State) (g : Nat) (G : Group) (r : Raise) : laneTrap s g G r =
    let K := { G with lane := G.lane.letGo }
    let head := (G.lane.chain.map (·.head)).getD G.lane.lpc
    let N := noteCause K r true G.lane.lpc head G.lane.chain.isSome
    let t := writeCause s K r true G.lane.lpc head G.lane.chain.isSome
    if G.trap.hmode then t.setGroup g { N with lane := { N.lane with lpc := G.lane.lpc + 12, chain := none, rel := [] } }
    else takeCause t g N r.cause := by
  unfold laneTrap
  have e : G.lane.letGo.chain = G.lane.chain := rfl
  simp only [e]
  cases G.lane.chain <;> rfl

/-- A cause of the lane stream on a group is what R330 to R336 say. -/
theorem laneTrap_traps {i : Instr} {s s' : State} {G : Group} {r : Raise} {pc : W64}
    (ex : exec i s = trapLane s' s.cur pc r) (hg : s'.group? s.cur = some G) (here : pc = G.lane.lpc) : TrapsLane i s s' G r := by
  have out : exec i s = .next (laneTrap (clearParty s' (.lane s.cur) pc) s.cur G r) := by
    rw [ex]
    simp only [trapLane, group?_clearParty, hg]
  rw [laneTrap_eq, here] at out
  have eq := noteCause_eq { G with lane := G.lane.letGo } r true G.lane.lpc ((G.lane.chain.map (·.head)).getD G.lane.lpc) G.lane.chain.isSome
  have noted := noteCause_noted { G with lane := G.lane.letGo } r true G.lane.lpc ((G.lane.chain.map (·.head)).getD G.lane.lpc)
    G.lane.chain.isSome
  have outside := writeCause_outside (clearParty s' (.lane s.cur) G.lane.lpc) { G with lane := G.lane.letGo } r true G.lane.lpc
    ((G.lane.chain.map (·.head)).getD G.lane.lpc) G.lane.chain.isSome
  have grps := writeCause_groups (clearParty s' (.lane s.cur) G.lane.lpc) { G with lane := G.lane.letGo } r true G.lane.lpc
    ((G.lane.chain.map (·.head)).getD G.lane.lpc) G.lane.chain.isSome
  simp only at out
  generalize noteCause _ r true G.lane.lpc ((G.lane.chain.map (·.head)).getD G.lane.lpc) G.lane.chain.isSome = N at eq noted out
  by_cases hm : G.trap.hmode = true
  · refine ⟨_, { N with lane := { N.lane with lpc := G.lane.lpc + 12, chain := none, rel := [] } }, out, ?_, ?_,
      by rw [eq], by rw [eq], by rw [eq], ?_, by simp [hm]⟩
    · rw [if_pos hm, causeTold, if_pos hm, State.setGroup, grps]
      rfl
    · unfold Noted at noted ⊢
      exact noted
    · intro _
      rw [eq]
      exact ⟨hm, rfl, rfl, rfl⟩
  · have hf : G.trap.hmode = false := by simpa using hm
    rw [if_neg hm] at out
    obtain ⟨K, e, cause, recs, sr, hr, vec, rest⟩ := takeCause_eq (c := r.cause) s.cur outside (G := G) (H := N) (by rw [eq])
      (by rw [eq]; exact hf)
    refine ⟨_, K, out, ?_, ?_, by rw [sr, eq], by rw [hr, eq], by rw [vec, eq], by simp [hf], ?_⟩
    · rw [e, grps, causeTold, if_neg (by simp [hf])]
      rfl
    · unfold Noted at noted ⊢
      rw [cause, recs]
      exact noted
    · intro _ c hc
      have h := rest c hc
      rw [eq] at h
      split at h
      · next en =>
        rw [if_pos en]
        exact ⟨⟨h.1.1, h.1.2, h.1.3, h.1.4, h.1.5, h.1.6, h.1.7, h.1.8, h.1.9, h.1.10, h.1.11, h.1.12, h.1.13⟩, h.2⟩
      · next en =>
        rw [if_neg en]
        exact h

/-- A lane meaning that raises a cause is what R330 to R336 say. -/
theorem lane_traps {s s' : State} {i : Instr} {h : Bool} {x : LaneIn} {op : Nat} {f : LForm} {body : LaneIn → LRes} {G : Group}
    {r : Raise} (ready : LaneReady s i h x) (parts : laneParts i = some (op, f)) (ex : exec i s = runLane s (op % 512) f h body)
    (trap : body x = .trap s' r) (hg : s'.group? s.cur = some G) (here : G.lane.lpc = x.pc) : TrapsLane i s s' G r :=
  laneTrap_traps (by rw [ex, (runLane_ready ready parts body).2, trap]) hg here.symm

/-! ### Results and their flags (R141, R142) -/

theorem mem_lanesOf {m : Mask} {l : Nat} : l ∈ lanesOf m ↔ l < 32 ∧ m.getLsbD l = true := by
  simp [lanesOf]

/-- Flags of a list of lanes, taken together. -/
theorem foldl_flags (rs : Lanes LaneRes) (n : Nat) : ∀ (ls : List Nat) (z : FFlags),
    (ls.foldl (fun fl i => fl ||| (rs.toList.getD i ⟨0, 0⟩).fl) z).getLsbD n =
      (z.getLsbD n || ls.any fun i => (rs.toList.getD i ⟨0, 0⟩).fl.getLsbD n)
  | [], z => by simp
  | i :: t, z => by
    rw [List.foldl_cons, foldl_flags rs n t]
    simp [Bool.or_assoc]

theorem toList_getD_lane {α : Type} (v : Lanes α) (l : Fin 32) (d : α) : v.toList.getD l d = v[l] := by
  simp [List.getD_eq_getElem?_getD]

/-- A flag is raised when an active lane raises it. -/
theorem flagsOf_getLsbD (m : Mask) (rs : Lanes LaneRes) (n : Nat) :
    (flagsOf m rs).getLsbD n = true ↔ ∃ l : Fin 32, m.getLsbD l = true ∧ (rs[l]).fl.getLsbD n = true := by
  rw [flagsOf, foldl_flags, show BitVec.getLsbD (0 : FFlags) n = false from by simp, Bool.false_or]
  simp only [List.any_eq_true, mem_lanesOf]
  constructor
  · rintro ⟨l, ⟨h, a⟩, b⟩
    exact ⟨⟨l, h⟩, a, by rw [← toList_getD_lane rs ⟨l, h⟩ ⟨0, 0⟩]; exact b⟩
  · rintro ⟨l, a, b⟩
    exact ⟨l, ⟨l.isLt, a⟩, by rw [toList_getD_lane rs l ⟨0, 0⟩]; exact b⟩

/-- The flags of the active lanes are the ones that the active lanes raise. -/
theorem flagsOf_unique {m : Mask} {rs : Lanes LaneRes} {fl : FFlags}
    (h : ∀ n, n < 4 → (fl.getLsbD n = true ↔ ∃ l : Fin 32, m.getLsbD l = true ∧ (rs[l]).fl.getLsbD n = true)) : flagsOf m rs = fl := by
  apply BitVec.eq_of_getLsbD_eq
  intro n hn
  rw [Bool.eq_iff_iff, flagsOf_getLsbD, h n hn]

/-- FPX is raised for the active lanes whose flags are enabled. -/
theorem mem_fpxLanes {m : Mask} {en : BitVec 4} {rs : Lanes LaneRes} {l : Nat} :
    l ∈ fpxLanes m en rs ↔ ∃ h : l < 32, m.getLsbD l = true ∧ (rs[l]).fl &&& en ≠ 0 := by
  simp only [fpxLanes, List.mem_filter, mem_lanesOf, decide_eq_true_eq]
  constructor
  · rintro ⟨⟨h, a⟩, b⟩
    exact ⟨h, a, by have := toList_getD_lane rs ⟨l, h⟩ ⟨0, 0⟩; simp only at this; rw [this] at b; exact b⟩
  · rintro ⟨h, a, b⟩
    exact ⟨⟨h, a⟩, by have := toList_getD_lane rs ⟨l, h⟩ ⟨0, 0⟩; simp only at this; rw [this]; exact b⟩

/-- No FPX where no active lane raises an enabled flag. -/
theorem fpxLanes_nil {m : Mask} {en : BitVec 4} {rs : Lanes LaneRes}
    (h : ∀ l : Fin 32, m.getLsbD l = true → (rs[l]).fl &&& en = 0) : fpxLanes m en rs = [] := by
  rw [List.eq_nil_iff_forall_not_mem]
  intro l hl
  obtain ⟨lt, a, b⟩ := mem_fpxLanes.mp hl
  exact b (h ⟨l, lt⟩ a)

/-- A group with its FPSTAT as it was. -/
theorem fpstat_or_zero (G : Group) : { G with sc := { G.sc with fpstat := G.sc.fpstat ||| 0 } } = G := by
  rw [show G.sc.fpstat ||| 0 = G.sc.fpstat from BitVec.or_zero]

/-- A result that raises no enabled flag: the flags are added, and the destination and L0 written (R39, R41, R47, R141). -/
theorem result_done {x : LaneIn} {t : LTy} {rs : Lanes LaneRes} {fl : FFlags} (nc : x.clash = false) (hf : flagsOf x.act rs = fl)
    (ok : ∀ l : Fin 32, x.act.getLsbD l = true → (rs[l]).fl &&& x.G.sc.fpctl = 0) :
    x.result t rs = .done (x.s.setGroup x.g (x.putL0 (x.putDest { x.G with sc := { x.G.sc with fpstat := x.G.sc.fpstat ||| fl } }
      (rs.map fun r => place t r.val)) t.isPair (rs.map fun r => place t r.val))) (x.pc + 12) := by
  unfold LaneIn.result LaneIn.flagged LaneIn.flags LaneIn.fpx
  simp only [nc, Bool.false_and, Bool.not_false, Bool.true_and]
  rw [if_neg (by rw [fpxLanes_nil ok]; simp), hf]
  rfl

/-- A result without flags: the destination and L0 are written. -/
theorem result_quiet {x : LaneIn} {t : LTy} {rs : Lanes LaneRes} (nc : x.clash = false) (q : ∀ l : Fin 32, (rs[l]).fl = 0) :
    x.result t rs = .done (x.s.setGroup x.g (x.putL0 (x.putDest x.G (rs.map fun r => place t r.val)) t.isPair
      (rs.map fun r => place t r.val))) (x.pc + 12) := by
  have hf : flagsOf x.act rs = 0 := flagsOf_unique fun n _ => by
    constructor
    · intro h
      simp at h
    · rintro ⟨l, -, h⟩
      rw [q] at h
      simp at h
  rw [result_done nc hf fun l _ => by rw [q]; exact BitVec.zero_and]
  rw [fpstat_or_zero]

/-- A result with an enabled flag: the flags are added, and FPX is raised (R142). -/
theorem result_trap {x : LaneIn} {t : LTy} {rs : Lanes LaneRes} {fl : FFlags} (nc : x.clash = false) (hf : flagsOf x.act rs = fl) {l : Fin 32}
    (a : x.act.getLsbD l = true) (b : (rs[l]).fl &&& x.G.sc.fpctl ≠ 0) :
    x.result t rs = .trap (x.s.setGroup x.g { x.G with sc := { x.G.sc with fpstat := x.G.sc.fpstat ||| fl } })
      (fpxRaise x.act x.G.sc.fpctl rs) := by
  have some : (fpxLanes x.act x.G.sc.fpctl rs).isEmpty = false := by
    have := (mem_fpxLanes (m := x.act) (en := x.G.sc.fpctl) (rs := rs) (l := l.val)).mpr ⟨l.isLt, a, b⟩
    cases h : fpxLanes x.act x.G.sc.fpctl rs with
    | nil => rw [h] at this; cases this
    | cons => rfl
  unfold LaneIn.result LaneIn.flagged LaneIn.flags LaneIn.fpx
  simp only [nc, Bool.false_and, Bool.not_false, Bool.true_and]
  rw [if_pos (by rw [some]; rfl), hf]
  rfl

/-- A mask of lanes has the bits of its list. -/
theorem maskOf_getLsbD (l : Nat) : ∀ (ls : List Nat), l < 32 → ((maskOf ls).getLsbD l = true ↔ l ∈ ls) := by
  intro ls h
  have key : ∀ (ls : List Nat) (m : Mask), (ls.foldl (fun m i => m ||| (1#32 <<< i)) m).getLsbD l = (m.getLsbD l || ls.contains l) := by
    intro ls
    induction ls with
    | nil => simp
    | cons i t ih =>
      intro m
      rw [List.foldl_cons, ih]
      have one : (1#32 <<< i).getLsbD l = decide (l = i) := by
        simp only [BitVec.getLsbD_shiftLeft, BitVec.getLsbD_one]
        by_cases c : l = i
        · subst c
          simp [h]
        · by_cases d : l < i
          · simp [d, c]
          · have : l - i ≠ 0 := by omega
            simp [d, c, this]
      rw [BitVec.getLsbD_or, one, List.contains_cons, Bool.or_assoc]
      rfl
  rw [maskOf, key]
  simp

end Sys2Proof.Machine
end

