-- ==== Sys2Proof/Laws/PerInstr.lean ====
section
/-! SUPPORT. Per instruction: the stream whose word it has. A lane instruction has no scalar word and a row of the opcode table;
every other instruction has no lane word, and four bytes where it has a word at all (R23, R33, R36). -/

/-- What every instruction's coding is like. -/
def Sys2Proof.Laws.Coding.Statement (i : Sys2Proof.Instr) : Prop :=
  match laneParts i with
  | some (op, _) => encodeScalar i = none ∧ (laneRow (op % 512)).isSome = true
  | none => encodeLane i = none ∧ ∀ l, encode i = some l → l.length = 4

/-- A lane instruction has the coding of its opcode. -/
theorem Sys2Proof.Laws.Coding.of_lane {i : Instr} {op : Nat} {f : LForm} (h : laneParts i = some (op, f)) (hs : encodeScalar i = none)
    (hr : (laneRow (op % 512)).isSome = true) : Statement i := by
  simp only [Statement, h]; exact ⟨hs, hr⟩

/-- An instruction that is no lane instruction has a scalar word or none. -/
theorem Sys2Proof.Laws.Coding.of_other {i : Instr} (h : laneParts i = none) : Statement i := by
  have hl : encodeLane i = none := by simp only [encodeLane, h]
  simp only [Statement, h]
  refine ⟨hl, fun l hc => ?_⟩
  simp only [encode, hl] at hc
  split at hc
  · cases hc; rfl
  · cases hc

theorem Sys2Proof.Laws.Coding.add (d a b : SReg) : Statement (.add d a b) := of_other rfl
theorem Sys2Proof.Laws.Coding.sub (d a b : SReg) : Statement (.sub d a b) := of_other rfl
theorem Sys2Proof.Laws.Coding.mul (d a b : SReg) : Statement (.mul d a b) := of_other rfl
theorem Sys2Proof.Laws.Coding.mulh (d a b : SReg) : Statement (.mulh d a b) := of_other rfl
theorem Sys2Proof.Laws.Coding.mulhn (d a b : SReg) : Statement (.mulhn d a b) := of_other rfl
theorem Sys2Proof.Laws.Coding.div (d a b : SReg) : Statement (.div d a b) := of_other rfl
theorem Sys2Proof.Laws.Coding.divn (d a b : SReg) : Statement (.divn d a b) := of_other rfl
theorem Sys2Proof.Laws.Coding.rem (d a b : SReg) : Statement (.rem d a b) := of_other rfl
theorem Sys2Proof.Laws.Coding.remn (d a b : SReg) : Statement (.remn d a b) := of_other rfl
theorem Sys2Proof.Laws.Coding.and (d a b : SReg) : Statement (.and d a b) := of_other rfl
theorem Sys2Proof.Laws.Coding.or (d a b : SReg) : Statement (.or d a b) := of_other rfl
theorem Sys2Proof.Laws.Coding.xor (d a b : SReg) : Statement (.xor d a b) := of_other rfl
theorem Sys2Proof.Laws.Coding.shl (d a b : SReg) : Statement (.shl d a b) := of_other rfl
theorem Sys2Proof.Laws.Coding.shr (d a b : SReg) : Statement (.shr d a b) := of_other rfl
theorem Sys2Proof.Laws.Coding.sra (d a b : SReg) : Statement (.sra d a b) := of_other rfl
theorem Sys2Proof.Laws.Coding.min (d a b : SReg) : Statement (.min d a b) := of_other rfl
theorem Sys2Proof.Laws.Coding.max (d a b : SReg) : Statement (.max d a b) := of_other rfl
theorem Sys2Proof.Laws.Coding.minn (d a b : SReg) : Statement (.minn d a b) := of_other rfl
theorem Sys2Proof.Laws.Coding.maxn (d a b : SReg) : Statement (.maxn d a b) := of_other rfl
theorem Sys2Proof.Laws.Coding.slt (d a b : SReg) : Statement (.slt d a b) := of_other rfl
theorem Sys2Proof.Laws.Coding.sltn (d a b : SReg) : Statement (.sltn d a b) := of_other rfl
theorem Sys2Proof.Laws.Coding.clz (d a : SReg) : Statement (.clz d a) := of_other rfl
theorem Sys2Proof.Laws.Coding.popc (d a : SReg) : Statement (.popc d a) := of_other rfl
theorem Sys2Proof.Laws.Coding.sel (d a b : SReg) : Statement (.sel d a b) := of_other rfl
theorem Sys2Proof.Laws.Coding.addi (d a : SReg) (imm : BitVec 13) : Statement (.addi d a imm) := of_other rfl
theorem Sys2Proof.Laws.Coding.andi (d a : SReg) (imm : BitVec 13) : Statement (.andi d a imm) := of_other rfl
theorem Sys2Proof.Laws.Coding.slti (d a : SReg) (imm : BitVec 13) : Statement (.slti d a imm) := of_other rfl
theorem Sys2Proof.Laws.Coding.ori (d a : SReg) (imm : BitVec 13) : Statement (.ori d a imm) := of_other rfl
theorem Sys2Proof.Laws.Coding.xori (d a : SReg) (imm : BitVec 13) : Statement (.xori d a imm) := of_other rfl
theorem Sys2Proof.Laws.Coding.shli (d a : SReg) (n : BitVec 6) : Statement (.shli d a n) := of_other rfl
theorem Sys2Proof.Laws.Coding.shri (d a : SReg) (n : BitVec 6) : Statement (.shri d a n) := of_other rfl
theorem Sys2Proof.Laws.Coding.srai (d a : SReg) (n : BitVec 6) : Statement (.srai d a n) := of_other rfl
theorem Sys2Proof.Laws.Coding.sethi (d : SReg) (imm : BitVec 19) : Statement (.sethi d imm) := of_other rfl
theorem Sys2Proof.Laws.Coding.lds (d a : SReg) (off : BitVec 13) : Statement (.lds d a off) := of_other rfl
theorem Sys2Proof.Laws.Coding.lds32 (d a : SReg) (off : BitVec 13) : Statement (.lds32 d a off) := of_other rfl
theorem Sys2Proof.Laws.Coding.sts (x a : SReg) (off : BitVec 13) : Statement (.sts x a off) := of_other rfl
theorem Sys2Proof.Laws.Coding.sts32 (x a : SReg) (off : BitVec 13) : Statement (.sts32 x a off) := of_other rfl
theorem Sys2Proof.Laws.Coding.amosAdd (d a b : SReg) (sc : Scope) : Statement (.amosAdd d a b sc) := of_other rfl
theorem Sys2Proof.Laws.Coding.amosMin (d a b : SReg) (sc : Scope) : Statement (.amosMin d a b sc) := of_other rfl
theorem Sys2Proof.Laws.Coding.amosMax (d a b : SReg) (sc : Scope) : Statement (.amosMax d a b sc) := of_other rfl
theorem Sys2Proof.Laws.Coding.amosMinn (d a b : SReg) (sc : Scope) : Statement (.amosMinn d a b sc) := of_other rfl
theorem Sys2Proof.Laws.Coding.amosMaxn (d a b : SReg) (sc : Scope) : Statement (.amosMaxn d a b sc) := of_other rfl
theorem Sys2Proof.Laws.Coding.amosAnd (d a b : SReg) (sc : Scope) : Statement (.amosAnd d a b sc) := of_other rfl
theorem Sys2Proof.Laws.Coding.amosOr (d a b : SReg) (sc : Scope) : Statement (.amosOr d a b sc) := of_other rfl
theorem Sys2Proof.Laws.Coding.amosXor (d a b : SReg) (sc : Scope) : Statement (.amosXor d a b sc) := of_other rfl
theorem Sys2Proof.Laws.Coding.amosSwap (d a b : SReg) (sc : Scope) : Statement (.amosSwap d a b sc) := of_other rfl
theorem Sys2Proof.Laws.Coding.amosCas (d a b : SReg) (sc : Scope) : Statement (.amosCas d a b sc) := of_other rfl
theorem Sys2Proof.Laws.Coding.b (off : BitVec 19) : Statement (.b off) := of_other rfl
theorem Sys2Proof.Laws.Coding.beq (a b : SReg) (off : BitVec 13) : Statement (.beq a b off) := of_other rfl
theorem Sys2Proof.Laws.Coding.bne (a b : SReg) (off : BitVec 13) : Statement (.bne a b off) := of_other rfl
theorem Sys2Proof.Laws.Coding.blt (a b : SReg) (off : BitVec 13) : Statement (.blt a b off) := of_other rfl
theorem Sys2Proof.Laws.Coding.bge (a b : SReg) (off : BitVec 13) : Statement (.bge a b off) := of_other rfl
theorem Sys2Proof.Laws.Coding.bltn (a b : SReg) (off : BitVec 13) : Statement (.bltn a b off) := of_other rfl
theorem Sys2Proof.Laws.Coding.bgen (a b : SReg) (off : BitVec 13) : Statement (.bgen a b off) := of_other rfl
theorem Sys2Proof.Laws.Coding.call (l : SReg) (off : BitVec 19) : Statement (.call l off) := of_other rfl
theorem Sys2Proof.Laws.Coding.jr (d a : SReg) : Statement (.jr d a) := of_other rfl
theorem Sys2Proof.Laws.Coding.ret (a : SReg) : Statement (.ret a) := of_other rfl
theorem Sys2Proof.Laws.Coding.run (b : SReg) (off : BitVec 19) : Statement (.run b off) := of_other rfl
theorem Sys2Proof.Laws.Coding.syncq : Statement .syncq := of_other rfl
theorem Sys2Proof.Laws.Coding.takev (d : SReg) : Statement (.takev d) := of_other rfl
theorem Sys2Proof.Laws.Coding.cpyLd (p r b : SReg) : Statement (.cpyLd p r b) := of_other rfl
theorem Sys2Proof.Laws.Coding.cpySt (p r b : SReg) : Statement (.cpySt p r b) := of_other rfl
theorem Sys2Proof.Laws.Coding.closeb (d : SReg) : Statement (.closeb d) := of_other rfl
theorem Sys2Proof.Laws.Coding.waitb (a : SReg) : Statement (.waitb a) := of_other rfl
theorem Sys2Proof.Laws.Coding.rcfence (a : SReg) : Statement (.rcfence a) := of_other rfl
theorem Sys2Proof.Laws.Coding.rcfenceAll : Statement .rcfenceAll := of_other rfl
theorem Sys2Proof.Laws.Coding.gath (p r b : SReg) : Statement (.gath p r b) := of_other rfl
theorem Sys2Proof.Laws.Coding.scat (p r b : SReg) : Statement (.scat p r b) := of_other rfl
theorem Sys2Proof.Laws.Coding.scatAddI32 (p r b : SReg) : Statement (.scatAddI32 p r b) := of_other rfl
theorem Sys2Proof.Laws.Coding.scatAddF32 (p r b : SReg) : Statement (.scatAddF32 p r b) := of_other rfl
theorem Sys2Proof.Laws.Coding.walkCoo (d r b : SReg) : Statement (.walkCoo d r b) := of_other rfl
theorem Sys2Proof.Laws.Coding.walkCsr (d r b : SReg) : Statement (.walkCsr d r b) := of_other rfl
theorem Sys2Proof.Laws.Coding.mmq (d a b : SReg) (ty : MTy) (ck sz hf : Bool) : Statement (.mmq d a b ty ck sz hf) := of_other rfl
theorem Sys2Proof.Laws.Coding.mmqQuad (d a b : SReg) (ty : MTy) (ck sz hf : Bool) : Statement (.mmqQuad d a b ty ck sz hf) := of_other rfl
theorem Sys2Proof.Laws.Coding.orf : Statement .orf := of_other rfl
theorem Sys2Proof.Laws.Coding.mwait (d a : SReg) : Statement (.mwait d a) := of_other rfl
theorem Sys2Proof.Laws.Coding.accst (c r b : SReg) (conv : AccConv) (m : Rnd) : Statement (.accst c r b conv m) := of_other rfl
theorem Sys2Proof.Laws.Coding.had (d a b : SReg) (ty : HTy) : Statement (.had d a b ty) := of_other rfl
theorem Sys2Proof.Laws.Coding.collAllreduce (d a b : SReg) (op : CollOp) (swa : Bool) : Statement (.collAllreduce d a b op swa) := of_other rfl
theorem Sys2Proof.Laws.Coding.collReduceScatter (d a b : SReg) (op : CollOp) (swa : Bool) : Statement (.collReduceScatter d a b op swa) := of_other rfl
theorem Sys2Proof.Laws.Coding.collAllgather (d a b : SReg) : Statement (.collAllgather d a b) := of_other rfl
theorem Sys2Proof.Laws.Coding.collBroadcast (d a b : SReg) : Statement (.collBroadcast d a b) := of_other rfl
theorem Sys2Proof.Laws.Coding.waitc (d a : SReg) : Statement (.waitc d a) := of_other rfl
theorem Sys2Proof.Laws.Coding.erase (d a : SReg) : Statement (.erase d a) := of_other rfl
theorem Sys2Proof.Laws.Coding.xprobe (d a : SReg) : Statement (.xprobe d a) := of_other rfl
theorem Sys2Proof.Laws.Coding.give (d a b : SReg) : Statement (.give d a b) := of_other rfl
theorem Sys2Proof.Laws.Coding.take (d a : SReg) : Statement (.take d a) := of_other rfl
theorem Sys2Proof.Laws.Coding.deedq (d a : SReg) : Statement (.deedq d a) := of_other rfl
theorem Sys2Proof.Laws.Coding.fenceAcq (sc : Scope) : Statement (.fenceAcq sc) := of_other rfl
theorem Sys2Proof.Laws.Coding.fenceRel (sc : Scope) : Statement (.fenceRel sc) := of_other rfl
theorem Sys2Proof.Laws.Coding.fenceAcqrel (sc : Scope) : Statement (.fenceAcqrel sc) := of_other rfl
theorem Sys2Proof.Laws.Coding.fenceSc (sc : Scope) : Statement (.fenceSc sc) := of_other rfl
theorem Sys2Proof.Laws.Coding.bar (a b : SReg) : Statement (.bar a b) := of_other rfl
theorem Sys2Proof.Laws.Coding.arrive (d a b : SReg) : Statement (.arrive d a b) := of_other rfl
theorem Sys2Proof.Laws.Coding.waitbar (a b : SReg) : Statement (.waitbar a b) := of_other rfl
theorem Sys2Proof.Laws.Coding.launch (d a : SReg) : Statement (.launch d a) := of_other rfl
theorem Sys2Proof.Laws.Coding.launchGraph (d a : SReg) : Statement (.launchGraph d a) := of_other rfl
theorem Sys2Proof.Laws.Coding.itemqPut (d a b : SReg) : Statement (.itemqPut d a b) := of_other rfl
theorem Sys2Proof.Laws.Coding.itemqCount (d : SReg) : Statement (.itemqCount d) := of_other rfl
theorem Sys2Proof.Laws.Coding.itemqClose : Statement .itemqClose := of_other rfl
theorem Sys2Proof.Laws.Coding.yield : Statement .yield := of_other rfl
theorem Sys2Proof.Laws.Coding.exit : Statement .exit := of_other rfl
theorem Sys2Proof.Laws.Coding.getc (d : SReg) (sel : BitVec 13) : Statement (.getc d sel) := of_other rfl
theorem Sys2Proof.Laws.Coding.getcFpstat (d : SReg) : Statement (.getcFpstat d) := of_other rfl
theorem Sys2Proof.Laws.Coding.getcXpool (d : SReg) : Statement (.getcXpool d) := of_other rfl
theorem Sys2Proof.Laws.Coding.setc (a : SReg) (sel : BitVec 13) : Statement (.setc a sel) := of_other rfl
theorem Sys2Proof.Laws.Coding.setcFpctl (a : SReg) : Statement (.setcFpctl a) := of_other rfl
theorem Sys2Proof.Laws.Coding.setcFpstat (a : SReg) : Statement (.setcFpstat a) := of_other rfl
theorem Sys2Proof.Laws.Coding.setcXlctl (a : SReg) : Statement (.setcXlctl a) := of_other rfl
theorem Sys2Proof.Laws.Coding.setcDelta (a : SReg) : Statement (.setcDelta a) := of_other rfl
theorem Sys2Proof.Laws.Coding.setcVacate (a : SReg) : Statement (.setcVacate a) := of_other rfl
theorem Sys2Proof.Laws.Coding.setcCause (a : SReg) : Statement (.setcCause a) := of_other rfl
theorem Sys2Proof.Laws.Coding.setcHbase (a : SReg) : Statement (.setcHbase a) := of_other rfl
theorem Sys2Proof.Laws.Coding.setcStepm (a : SReg) : Statement (.setcStepm a) := of_other rfl
theorem Sys2Proof.Laws.Coding.setcWaddr (a : SReg) : Statement (.setcWaddr a) := of_other rfl
theorem Sys2Proof.Laws.Coding.setcWctl (a : SReg) : Statement (.setcWctl a) := of_other rfl
theorem Sys2Proof.Laws.Coding.setcScout (a : SReg) : Statement (.setcScout a) := of_other rfl
theorem Sys2Proof.Laws.Coding.setcEpcl (a : SReg) : Statement (.setcEpcl a) := of_other rfl
theorem Sys2Proof.Laws.Coding.trap (code : BitVec 13) : Statement (.trap code) := of_other rfl
theorem Sys2Proof.Laws.Coding.sret : Statement .sret := of_other rfl
theorem Sys2Proof.Laws.Coding.brk (code : BitVec 13) : Statement (.brk code) := of_other rfl
theorem Sys2Proof.Laws.Coding.injectReg (d a b : SReg) : Statement (.injectReg d a b) := of_other rfl
theorem Sys2Proof.Laws.Coding.injectMem (d a b : SReg) : Statement (.injectMem d a b) := of_other rfl
theorem Sys2Proof.Laws.Coding.injectTrip (d a b : SReg) : Statement (.injectTrip d a b) := of_other rfl
theorem Sys2Proof.Laws.Coding.halt : Statement .halt := of_other rfl
theorem Sys2Proof.Laws.Coding.iadd (f : LForm) : Statement (.iadd f) := of_lane rfl rfl rfl
theorem Sys2Proof.Laws.Coding.iaddImm (f : LForm) : Statement (.iaddImm f) := of_lane rfl rfl rfl
theorem Sys2Proof.Laws.Coding.isub (f : LForm) : Statement (.isub f) := of_lane rfl rfl rfl
theorem Sys2Proof.Laws.Coding.isubImm (f : LForm) : Statement (.isubImm f) := of_lane rfl rfl rfl
theorem Sys2Proof.Laws.Coding.imul (f : LForm) : Statement (.imul f) := of_lane rfl rfl rfl
theorem Sys2Proof.Laws.Coding.imulImm (f : LForm) : Statement (.imulImm f) := of_lane rfl rfl rfl
theorem Sys2Proof.Laws.Coding.imulh (f : LForm) : Statement (.imulh f) := of_lane rfl rfl rfl
theorem Sys2Proof.Laws.Coding.imulhImm (f : LForm) : Statement (.imulhImm f) := of_lane rfl rfl rfl
theorem Sys2Proof.Laws.Coding.imad (f : LForm) : Statement (.imad f) := of_lane rfl rfl rfl
theorem Sys2Proof.Laws.Coding.imadImm (f : LForm) : Statement (.imadImm f) := of_lane rfl rfl rfl
theorem Sys2Proof.Laws.Coding.imin (f : LForm) : Statement (.imin f) := of_lane rfl rfl rfl
theorem Sys2Proof.Laws.Coding.iminImm (f : LForm) : Statement (.iminImm f) := of_lane rfl rfl rfl
theorem Sys2Proof.Laws.Coding.imax (f : LForm) : Statement (.imax f) := of_lane rfl rfl rfl
theorem Sys2Proof.Laws.Coding.imaxImm (f : LForm) : Statement (.imaxImm f) := of_lane rfl rfl rfl
theorem Sys2Proof.Laws.Coding.laneAnd (f : LForm) : Statement (.laneAnd f) := of_lane rfl rfl rfl
theorem Sys2Proof.Laws.Coding.laneAndImm (f : LForm) : Statement (.laneAndImm f) := of_lane rfl rfl rfl
theorem Sys2Proof.Laws.Coding.laneOr (f : LForm) : Statement (.laneOr f) := of_lane rfl rfl rfl
theorem Sys2Proof.Laws.Coding.laneOrImm (f : LForm) : Statement (.laneOrImm f) := of_lane rfl rfl rfl
theorem Sys2Proof.Laws.Coding.laneXor (f : LForm) : Statement (.laneXor f) := of_lane rfl rfl rfl
theorem Sys2Proof.Laws.Coding.laneXorImm (f : LForm) : Statement (.laneXorImm f) := of_lane rfl rfl rfl
theorem Sys2Proof.Laws.Coding.laneShl (f : LForm) : Statement (.laneShl f) := of_lane rfl rfl rfl
theorem Sys2Proof.Laws.Coding.laneShlImm (f : LForm) : Statement (.laneShlImm f) := of_lane rfl rfl rfl
theorem Sys2Proof.Laws.Coding.laneShr (f : LForm) : Statement (.laneShr f) := of_lane rfl rfl rfl
theorem Sys2Proof.Laws.Coding.laneShrImm (f : LForm) : Statement (.laneShrImm f) := of_lane rfl rfl rfl
theorem Sys2Proof.Laws.Coding.laneSra (f : LForm) : Statement (.laneSra f) := of_lane rfl rfl rfl
theorem Sys2Proof.Laws.Coding.laneSraImm (f : LForm) : Statement (.laneSraImm f) := of_lane rfl rfl rfl
theorem Sys2Proof.Laws.Coding.laneClz (f : LForm) : Statement (.laneClz f) := of_lane rfl rfl rfl
theorem Sys2Proof.Laws.Coding.lanePopc (f : LForm) : Statement (.lanePopc f) := of_lane rfl rfl rfl
theorem Sys2Proof.Laws.Coding.brev (f : LForm) : Statement (.brev f) := of_lane rfl rfl rfl
theorem Sys2Proof.Laws.Coding.bfe (f : LForm) : Statement (.bfe f) := of_lane rfl rfl rfl
theorem Sys2Proof.Laws.Coding.bfeImm (f : LForm) : Statement (.bfeImm f) := of_lane rfl rfl rfl
theorem Sys2Proof.Laws.Coding.bfi (f : LForm) : Statement (.bfi f) := of_lane rfl rfl rfl
theorem Sys2Proof.Laws.Coding.bfiImm (f : LForm) : Statement (.bfiImm f) := of_lane rfl rfl rfl
theorem Sys2Proof.Laws.Coding.bswz (f : LForm) : Statement (.bswz f) := of_lane rfl rfl rfl
theorem Sys2Proof.Laws.Coding.bswzImm (f : LForm) : Statement (.bswzImm f) := of_lane rfl rfl rfl
theorem Sys2Proof.Laws.Coding.icmp (f : LForm) : Statement (.icmp f) := of_lane rfl rfl rfl
theorem Sys2Proof.Laws.Coding.icmpImm (f : LForm) : Statement (.icmpImm f) := of_lane rfl rfl rfl
theorem Sys2Proof.Laws.Coding.laneSel (f : LForm) : Statement (.laneSel f) := of_lane rfl rfl rfl
theorem Sys2Proof.Laws.Coding.laneSelImm (f : LForm) : Statement (.laneSelImm f) := of_lane rfl rfl rfl
theorem Sys2Proof.Laws.Coding.mov (f : LForm) : Statement (.mov f) := of_lane rfl rfl rfl
theorem Sys2Proof.Laws.Coding.movi (f : LForm) : Statement (.movi f) := of_lane rfl rfl rfl
theorem Sys2Proof.Laws.Coding.fadd (f : LForm) : Statement (.fadd f) := of_lane rfl rfl rfl
theorem Sys2Proof.Laws.Coding.faddImm (f : LForm) : Statement (.faddImm f) := of_lane rfl rfl rfl
theorem Sys2Proof.Laws.Coding.fsub (f : LForm) : Statement (.fsub f) := of_lane rfl rfl rfl
theorem Sys2Proof.Laws.Coding.fsubImm (f : LForm) : Statement (.fsubImm f) := of_lane rfl rfl rfl
theorem Sys2Proof.Laws.Coding.fmul (f : LForm) : Statement (.fmul f) := of_lane rfl rfl rfl
theorem Sys2Proof.Laws.Coding.fmulImm (f : LForm) : Statement (.fmulImm f) := of_lane rfl rfl rfl
theorem Sys2Proof.Laws.Coding.ffma (f : LForm) : Statement (.ffma f) := of_lane rfl rfl rfl
theorem Sys2Proof.Laws.Coding.ffmaImm (f : LForm) : Statement (.ffmaImm f) := of_lane rfl rfl rfl
theorem Sys2Proof.Laws.Coding.fmin (f : LForm) : Statement (.fmin f) := of_lane rfl rfl rfl
theorem Sys2Proof.Laws.Coding.fminImm (f : LForm) : Statement (.fminImm f) := of_lane rfl rfl rfl
theorem Sys2Proof.Laws.Coding.fmax (f : LForm) : Statement (.fmax f) := of_lane rfl rfl rfl
theorem Sys2Proof.Laws.Coding.fmaxImm (f : LForm) : Statement (.fmaxImm f) := of_lane rfl rfl rfl
theorem Sys2Proof.Laws.Coding.fcmp (f : LForm) : Statement (.fcmp f) := of_lane rfl rfl rfl
theorem Sys2Proof.Laws.Coding.fcmpImm (f : LForm) : Statement (.fcmpImm f) := of_lane rfl rfl rfl
theorem Sys2Proof.Laws.Coding.frcp (f : LForm) : Statement (.frcp f) := of_lane rfl rfl rfl
theorem Sys2Proof.Laws.Coding.frsq (f : LForm) : Statement (.frsq f) := of_lane rfl rfl rfl
theorem Sys2Proof.Laws.Coding.fsqrt (f : LForm) : Statement (.fsqrt f) := of_lane rfl rfl rfl
theorem Sys2Proof.Laws.Coding.fexp2 (f : LForm) : Statement (.fexp2 f) := of_lane rfl rfl rfl
theorem Sys2Proof.Laws.Coding.flog2 (f : LForm) : Statement (.flog2 f) := of_lane rfl rfl rfl
theorem Sys2Proof.Laws.Coding.fsin (f : LForm) : Statement (.fsin f) := of_lane rfl rfl rfl
theorem Sys2Proof.Laws.Coding.fcos (f : LForm) : Statement (.fcos f) := of_lane rfl rfl rfl
theorem Sys2Proof.Laws.Coding.frnd (f : LForm) : Statement (.frnd f) := of_lane rfl rfl rfl
theorem Sys2Proof.Laws.Coding.fclass (f : LForm) : Statement (.fclass f) := of_lane rfl rfl rfl
theorem Sys2Proof.Laws.Coding.cvt (f : LForm) : Statement (.cvt f) := of_lane rfl rfl rfl
theorem Sys2Proof.Laws.Coding.cvtq (f : LForm) : Statement (.cvtq f) := of_lane rfl rfl rfl
theorem Sys2Proof.Laws.Coding.pack (f : LForm) : Statement (.pack f) := of_lane rfl rfl rfl
theorem Sys2Proof.Laws.Coding.unpack (f : LForm) : Statement (.unpack f) := of_lane rfl rfl rfl
theorem Sys2Proof.Laws.Coding.kand (f : LForm) : Statement (.kand f) := of_lane rfl rfl rfl
theorem Sys2Proof.Laws.Coding.kor (f : LForm) : Statement (.kor f) := of_lane rfl rfl rfl
theorem Sys2Proof.Laws.Coding.kxor (f : LForm) : Statement (.kxor f) := of_lane rfl rfl rfl
theorem Sys2Proof.Laws.Coding.knot (f : LForm) : Statement (.knot f) := of_lane rfl rfl rfl
theorem Sys2Proof.Laws.Coding.movem (f : LForm) : Statement (.movem f) := of_lane rfl rfl rfl
theorem Sys2Proof.Laws.Coding.popk (f : LForm) : Statement (.popk f) := of_lane rfl rfl rfl
theorem Sys2Proof.Laws.Coding.ffsk (f : LForm) : Statement (.ffsk f) := of_lane rfl rfl rfl
theorem Sys2Proof.Laws.Coding.brl (f : LForm) : Statement (.brl f) := of_lane rfl rfl rfl
theorem Sys2Proof.Laws.Coding.brc (f : LForm) : Statement (.brc f) := of_lane rfl rfl rfl
theorem Sys2Proof.Laws.Coding.join : Statement .join := of_lane rfl rfl rfl
theorem Sys2Proof.Laws.Coding.stop : Statement .stop := of_lane rfl rfl rfl
theorem Sys2Proof.Laws.Coding.item (f : LForm) : Statement (.item f) := of_lane rfl rfl rfl
theorem Sys2Proof.Laws.Coding.voteBallot (f : LForm) : Statement (.voteBallot f) := of_lane rfl rfl rfl
theorem Sys2Proof.Laws.Coding.voteAny (f : LForm) : Statement (.voteAny f) := of_lane rfl rfl rfl
theorem Sys2Proof.Laws.Coding.voteAll (f : LForm) : Statement (.voteAll f) := of_lane rfl rfl rfl
theorem Sys2Proof.Laws.Coding.elect (f : LForm) : Statement (.elect f) := of_lane rfl rfl rfl
theorem Sys2Proof.Laws.Coding.ldw (f : LForm) : Statement (.ldw f) := of_lane rfl rfl rfl
theorem Sys2Proof.Laws.Coding.ldwImm (f : LForm) : Statement (.ldwImm f) := of_lane rfl rfl rfl
theorem Sys2Proof.Laws.Coding.ldh (f : LForm) : Statement (.ldh f) := of_lane rfl rfl rfl
theorem Sys2Proof.Laws.Coding.ldhImm (f : LForm) : Statement (.ldhImm f) := of_lane rfl rfl rfl
theorem Sys2Proof.Laws.Coding.ldb (f : LForm) : Statement (.ldb f) := of_lane rfl rfl rfl
theorem Sys2Proof.Laws.Coding.ldbImm (f : LForm) : Statement (.ldbImm f) := of_lane rfl rfl rfl
theorem Sys2Proof.Laws.Coding.ldd (f : LForm) : Statement (.ldd f) := of_lane rfl rfl rfl
theorem Sys2Proof.Laws.Coding.lddImm (f : LForm) : Statement (.lddImm f) := of_lane rfl rfl rfl
theorem Sys2Proof.Laws.Coding.stw (f : LForm) : Statement (.stw f) := of_lane rfl rfl rfl
theorem Sys2Proof.Laws.Coding.sth (f : LForm) : Statement (.sth f) := of_lane rfl rfl rfl
theorem Sys2Proof.Laws.Coding.stb (f : LForm) : Statement (.stb f) := of_lane rfl rfl rfl
theorem Sys2Proof.Laws.Coding.std (f : LForm) : Statement (.std f) := of_lane rfl rfl rfl
theorem Sys2Proof.Laws.Coding.ldx (f : LForm) : Statement (.ldx f) := of_lane rfl rfl rfl
theorem Sys2Proof.Laws.Coding.ldxImm (f : LForm) : Statement (.ldxImm f) := of_lane rfl rfl rfl
theorem Sys2Proof.Laws.Coding.ldp (f : LForm) : Statement (.ldp f) := of_lane rfl rfl rfl
theorem Sys2Proof.Laws.Coding.ldpImm (f : LForm) : Statement (.ldpImm f) := of_lane rfl rfl rfl
theorem Sys2Proof.Laws.Coding.stp (f : LForm) : Statement (.stp f) := of_lane rfl rfl rfl
theorem Sys2Proof.Laws.Coding.pref (f : LForm) : Statement (.pref f) := of_lane rfl rfl rfl
theorem Sys2Proof.Laws.Coding.prefImm (f : LForm) : Statement (.prefImm f) := of_lane rfl rfl rfl
theorem Sys2Proof.Laws.Coding.atomAdd (f : LForm) : Statement (.atomAdd f) := of_lane rfl rfl rfl
theorem Sys2Proof.Laws.Coding.atomMin (f : LForm) : Statement (.atomMin f) := of_lane rfl rfl rfl
theorem Sys2Proof.Laws.Coding.atomMax (f : LForm) : Statement (.atomMax f) := of_lane rfl rfl rfl
theorem Sys2Proof.Laws.Coding.atomAnd (f : LForm) : Statement (.atomAnd f) := of_lane rfl rfl rfl
theorem Sys2Proof.Laws.Coding.atomOr (f : LForm) : Statement (.atomOr f) := of_lane rfl rfl rfl
theorem Sys2Proof.Laws.Coding.atomXor (f : LForm) : Statement (.atomXor f) := of_lane rfl rfl rfl
theorem Sys2Proof.Laws.Coding.atomSwap (f : LForm) : Statement (.atomSwap f) := of_lane rfl rfl rfl
theorem Sys2Proof.Laws.Coding.atomCas (f : LForm) : Statement (.atomCas f) := of_lane rfl rfl rfl
theorem Sys2Proof.Laws.Coding.eopAdd (f : LForm) : Statement (.eopAdd f) := of_lane rfl rfl rfl
theorem Sys2Proof.Laws.Coding.eopMin (f : LForm) : Statement (.eopMin f) := of_lane rfl rfl rfl
theorem Sys2Proof.Laws.Coding.eopMax (f : LForm) : Statement (.eopMax f) := of_lane rfl rfl rfl
theorem Sys2Proof.Laws.Coding.eopAnd (f : LForm) : Statement (.eopAnd f) := of_lane rfl rfl rfl
theorem Sys2Proof.Laws.Coding.eopOr (f : LForm) : Statement (.eopOr f) := of_lane rfl rfl rfl
theorem Sys2Proof.Laws.Coding.eopXor (f : LForm) : Statement (.eopXor f) := of_lane rfl rfl rfl
theorem Sys2Proof.Laws.Coding.isect (f : LForm) : Statement (.isect f) := of_lane rfl rfl rfl
theorem Sys2Proof.Laws.Coding.scankIncl (f : LForm) : Statement (.scankIncl f) := of_lane rfl rfl rfl
theorem Sys2Proof.Laws.Coding.scankExcl (f : LForm) : Statement (.scankExcl f) := of_lane rfl rfl rfl
theorem Sys2Proof.Laws.Coding.segredAdd (f : LForm) : Statement (.segredAdd f) := of_lane rfl rfl rfl
theorem Sys2Proof.Laws.Coding.segredMin (f : LForm) : Statement (.segredMin f) := of_lane rfl rfl rfl
theorem Sys2Proof.Laws.Coding.segredMax (f : LForm) : Statement (.segredMax f) := of_lane rfl rfl rfl
theorem Sys2Proof.Laws.Coding.segredAnd (f : LForm) : Statement (.segredAnd f) := of_lane rfl rfl rfl
theorem Sys2Proof.Laws.Coding.segredOr (f : LForm) : Statement (.segredOr f) := of_lane rfl rfl rfl
theorem Sys2Proof.Laws.Coding.segredXor (f : LForm) : Statement (.segredXor f) := of_lane rfl rfl rfl
theorem Sys2Proof.Laws.Coding.callv (f : LForm) : Statement (.callv f) := of_lane rfl rfl rfl
theorem Sys2Proof.Laws.Coding.replaceSupply (f : LForm) : Statement (.replaceSupply f) := of_lane rfl rfl rfl
theorem Sys2Proof.Laws.Coding.replaceStore (f : LForm) : Statement (.replaceStore f) := of_lane rfl rfl rfl
theorem Sys2Proof.Laws.Coding.runStart (g : Nat) : Statement (.runStart g) := of_other rfl
theorem Sys2Proof.Laws.Coding.itemRetry (g : Nat) : Statement (.itemRetry g) := of_other rfl
theorem Sys2Proof.Laws.Coding.yieldResume (g : Nat) : Statement (.yieldResume g) := of_other rfl
theorem Sys2Proof.Laws.Coding.brcAdmissionClose (m : Nat) : Statement (.brcAdmissionClose m) := of_other rfl
theorem Sys2Proof.Laws.Coding.queueCause (g : Nat) : Statement (.queueCause g) := of_other rfl
theorem Sys2Proof.Laws.Coding.copyComplete (n : Nat) : Statement (.copyComplete n) := of_other rfl
theorem Sys2Proof.Laws.Coding.clearingComplete (n : Nat) (done : List Nat) : Statement (.clearingComplete n done) := of_other rfl
theorem Sys2Proof.Laws.Coding.matrixOpComplete (g : Nat) (token : BitVec 8) : Statement (.matrixOpComplete g token) := of_other rfl
theorem Sys2Proof.Laws.Coding.hadComplete (g : Nat) (token : BitVec 8) : Statement (.hadComplete g token) := of_other rfl
theorem Sys2Proof.Laws.Coding.collectiveComplete (g : Nat) (num : BitVec 8) (end_ : CollEnd) : Statement (.collectiveComplete g num end_) := of_other rfl
theorem Sys2Proof.Laws.Coding.recordCacheDrop (cluster : Nat) (asid : BitVec 16) (addr : W64) : Statement (.recordCacheDrop cluster asid addr) := of_other rfl
theorem Sys2Proof.Laws.Coding.teamCommit (launch : Nat) (team : Nat) (p : Placement) : Statement (.teamCommit launch team p) := of_other rfl
theorem Sys2Proof.Laws.Coding.launchComplete (launch : Nat) : Statement (.launchComplete launch) := of_other rfl
theorem Sys2Proof.Laws.Coding.graphComplete (inst : Nat) : Statement (.graphComplete inst) := of_other rfl
theorem Sys2Proof.Laws.Coding.dependencePoll (launch dep : Nat) : Statement (.dependencePoll launch dep) := of_other rfl
theorem Sys2Proof.Laws.Coding.dependenceWriteReport (launch dep : Nat) : Statement (.dependenceWriteReport launch dep) := of_other rfl
theorem Sys2Proof.Laws.Coding.launchQueueWatch (ctx q : Nat) : Statement (.launchQueueWatch ctx q) := of_other rfl
theorem Sys2Proof.Laws.Coding.translationMiss (asid : BitVec 16) (va : W64) (k : AccKind) : Statement (.translationMiss asid va k) := of_other rfl
theorem Sys2Proof.Laws.Coding.faultResolve (n : Nat) (leaf : W64) : Statement (.faultResolve n leaf) := of_other rfl
theorem Sys2Proof.Laws.Coding.faultDeliver (n : Nat) (frame : Bool) : Statement (.faultDeliver n frame) := of_other rfl
theorem Sys2Proof.Laws.Coding.faultHostTimeout (n : Nat) : Statement (.faultHostTimeout n) := of_other rfl
theorem Sys2Proof.Laws.Coding.pageMigrate (ctx : Nat) (va : W64) (frame : W64) : Statement (.pageMigrate ctx va frame) := of_other rfl
theorem Sys2Proof.Laws.Coding.cacheEvict (core : Option Nat) (tag : BitVec 16) (block : Nat) : Statement (.cacheEvict core tag block) := of_other rfl
theorem Sys2Proof.Laws.Coding.pchBurst (pch : Nat) (isWrite : Bool) (pat : BurstPattern) : Statement (.pchBurst pch isWrite pat) := of_other rfl
theorem Sys2Proof.Laws.Coding.scrubWrite (pch : Nat) : Statement (.scrubWrite pch) := of_other rfl
theorem Sys2Proof.Laws.Coding.refreshDue (stack die : Nat) : Statement (.refreshDue stack die) := of_other rfl
theorem Sys2Proof.Laws.Coding.refreshAhead (stack die : Nat) : Statement (.refreshAhead stack die) := of_other rfl
theorem Sys2Proof.Laws.Coding.cbEvaluate (stack : Nat) (below10 : Bool) : Statement (.cbEvaluate stack below10) := of_other rfl
theorem Sys2Proof.Laws.Coding.pcctlWrite (pch : Nat) (v : W32) : Statement (.pcctlWrite pch v) := of_other rfl
theorem Sys2Proof.Laws.Coding.strandDrainEnd (pch : Nat) : Statement (.strandDrainEnd pch) := of_other rfl
theorem Sys2Proof.Laws.Coding.rdstrDeferred (pch : Nat) : Statement (.rdstrDeferred pch) := of_other rfl
theorem Sys2Proof.Laws.Coding.sliceEnd (tenant : Nat) : Statement (.sliceEnd tenant) := of_other rfl
theorem Sys2Proof.Laws.Coding.preemption (tenant : Nat) : Statement (.preemption tenant) := of_other rfl
theorem Sys2Proof.Laws.Coding.waysDrainEnd (tenant : Nat) : Statement (.waysDrainEnd tenant) := of_other rfl
theorem Sys2Proof.Laws.Coding.vacateRequest (tenant : Nat) (r : VacateReq) : Statement (.vacateRequest tenant r) := of_other rfl
theorem Sys2Proof.Laws.Coding.vacateConvert (tenant q : Nat) : Statement (.vacateConvert tenant q) := of_other rfl
theorem Sys2Proof.Laws.Coding.vacateRunTimeout (tenant q : Nat) : Statement (.vacateRunTimeout tenant q) := of_other rfl
theorem Sys2Proof.Laws.Coding.checkpointCommit (tenant q : Nat) : Statement (.checkpointCommit tenant q) := of_other rfl
theorem Sys2Proof.Laws.Coding.checkpointAck (tenant q : Nat) : Statement (.checkpointAck tenant q) := of_other rfl
theorem Sys2Proof.Laws.Coding.tenantVacant (tenant : Nat) : Statement (.tenantVacant tenant) := of_other rfl
theorem Sys2Proof.Laws.Coding.launchPacket (h : Hdr) (words : Vector W32 32) : Statement (.launchPacket h words) := of_other rfl
theorem Sys2Proof.Laws.Coding.launchg (h : Hdr) (addr : W64) : Statement (.launchg h addr) := of_other rfl
theorem Sys2Proof.Laws.Coding.read (h : Hdr) (addr : W64) (count : Nat) : Statement (.read h addr count) := of_other rfl
theorem Sys2Proof.Laws.Coding.write (h : Hdr) (addr : W64) (count : Nat) (en : W64) (data : List W32) : Statement (.write h addr count en data) := of_other rfl
theorem Sys2Proof.Laws.Coding.atomic (h : Hdr) (addr : W64) (op : BitVec 7) (operand compare : W32) : Statement (.atomic h addr op operand compare) := of_other rfl
theorem Sys2Proof.Laws.Coding.qreg (h : Hdr) (base : W64) (size : W32) : Statement (.qreg h base size) := of_other rfl
theorem Sys2Proof.Laws.Coding.comm (h : Hdr) (c : CommReg) : Statement (.comm h c) := of_other rfl
theorem Sys2Proof.Laws.Coding.tenant (h : Hdr) (tid : Nat) (r : TenantRec) : Statement (.tenant h tid r) := of_other rfl
theorem Sys2Proof.Laws.Coding.vacatePacket (h : Hdr) (tenant : Nat) (r : VacateReq) : Statement (.vacatePacket h tenant r) := of_other rfl
theorem Sys2Proof.Laws.Coding.faultr (h : Hdr) (n : Nat) (ans : FaultAnswer) : Statement (.faultr h n ans) := of_other rfl
theorem Sys2Proof.Laws.Coding.callr (h : Hdr) (n : Nat) (seq : W32) (reps : Lanes W32) : Statement (.callr h n seq reps) := of_other rfl
theorem Sys2Proof.Laws.Coding.drainStart (h : Hdr) : Statement (.drainStart h) := of_other rfl
theorem Sys2Proof.Laws.Coding.drainCancel (h : Hdr) : Statement (.drainCancel h) := of_other rfl
theorem Sys2Proof.Laws.Coding.peermap (h : Hdr) (p : PeerReg) : Statement (.peermap h p) := of_other rfl
theorem Sys2Proof.Laws.Coding.contextCreate (h : Hdr) (c : CtxCreate) : Statement (.contextCreate h c) := of_other rfl
theorem Sys2Proof.Laws.Coding.contextDestroy (h : Hdr) : Statement (.contextDestroy h) := of_other rfl
theorem Sys2Proof.Laws.Coding.contextSetFlags (h : Hdr) (priv : Bool) : Statement (.contextSetFlags h priv) := of_other rfl
theorem Sys2Proof.Laws.Coding.contextChangePte (h : Hdr) (level : BitVec 8) (va entry : W64) : Statement (.contextChangePte h level va entry) := of_other rfl
theorem Sys2Proof.Laws.Coding.contextSetRegion (h : Hdr) (index : BitVec 8) (d : RegionSet) : Statement (.contextSetRegion h index d) := of_other rfl
theorem Sys2Proof.Laws.Coding.unassignedRequest (h : Hdr) (kind : BadKind) : Statement (.unassignedRequest h kind) := of_other rfl
theorem Sys2Proof.Laws.Coding.reply (h : Hdr) (kind : BitVec 8) (p : ReplyData) : Statement (.reply h kind p) := of_other rfl
theorem Sys2Proof.Laws.Coding.noticeAck (h : Hdr) : Statement (.noticeAck h) := of_other rfl
theorem Sys2Proof.Laws.Coding.noticeResend (n : Nat) : Statement (.noticeResend n) := of_other rfl
theorem Sys2Proof.Laws.Coding.colld (h : Hdr) (c : CollData) : Statement (.colld h c) := of_other rfl
theorem Sys2Proof.Laws.Coding.colldAck (h : Hdr) : Statement (.colldAck h) := of_other rfl
theorem Sys2Proof.Laws.Coding.colldResend (n : Nat) : Statement (.colldResend n) := of_other rfl
theorem Sys2Proof.Laws.Coding.packetCrcFail (port : Nat) (h : Hdr) (kind : BitVec 8) : Statement (.packetCrcFail port h kind) := of_other rfl
theorem Sys2Proof.Laws.Coding.peerTimeout (n : Nat) : Statement (.peerTimeout n) := of_other rfl
theorem Sys2Proof.Laws.Coding.callServiceSplit (ctx n : Nat) : Statement (.callServiceSplit ctx n) := of_other rfl
theorem Sys2Proof.Laws.Coding.callServiceRefill (ctx n : Nat) (frames : List (BitVec 27)) : Statement (.callServiceRefill ctx n frames) := of_other rfl
theorem Sys2Proof.Laws.Coding.callTimeout (ctx n : Nat) : Statement (.callTimeout ctx n) := of_other rfl
theorem Sys2Proof.Laws.Coding.quiesceComplete : Statement .quiesceComplete := of_other rfl
theorem Sys2Proof.Laws.Coding.quiesceTimeout (n : Nat) : Statement (.quiesceTimeout n) := of_other rfl
theorem Sys2Proof.Laws.Coding.withdrawRetry : Statement .withdrawRetry := of_other rfl
theorem Sys2Proof.Laws.Coding.withdrawConfirm (plane : Nat) : Statement (.withdrawConfirm plane) := of_other rfl
theorem Sys2Proof.Laws.Coding.i3cRead (count : Nat) : Statement (.i3cRead count) := of_other rfl
theorem Sys2Proof.Laws.Coding.i3cWrite (offset : BitVec 24) (data : List Byte) : Statement (.i3cWrite offset data) := of_other rfl
theorem Sys2Proof.Laws.Coding.pcmdColdReset : Statement .pcmdColdReset := of_other rfl
theorem Sys2Proof.Laws.Coding.pcmdWarmReset : Statement .pcmdWarmReset := of_other rfl
theorem Sys2Proof.Laws.Coding.watchdogExpire : Statement .watchdogExpire := of_other rfl
theorem Sys2Proof.Laws.Coding.powerOn : Statement .powerOn := of_other rfl
theorem Sys2Proof.Laws.Coding.bootComplete (f : FabricIds) : Statement (.bootComplete f) := of_other rfl
theorem Sys2Proof.Laws.Coding.currentLimitExceeded (block : Nat) : Statement (.currentLimitExceeded block) := of_other rfl
theorem Sys2Proof.Laws.Coding.currentRecovery (block : Nat) : Statement (.currentRecovery block) := of_other rfl
theorem Sys2Proof.Laws.Coding.thermalThrottle (block : Nat) : Statement (.thermalThrottle block) := of_other rfl
theorem Sys2Proof.Laws.Coding.thermalTrip (block : Nat) : Statement (.thermalTrip block) := of_other rfl
theorem Sys2Proof.Laws.Coding.lifetimeSnapshot : Statement .lifetimeSnapshot := of_other rfl
theorem Sys2Proof.Laws.Coding.unassignedInstruction : Statement .unassignedInstruction := of_other rfl
theorem Sys2Proof.Laws.Coding.groupResume (g : Nat) (hbase : Option W64) : Statement (.groupResume g hbase) := of_other rfl
theorem Sys2Proof.Laws.Coding.softError (t : SoftTarget) : Statement (.softError t) := of_other rfl
theorem Sys2Proof.Laws.Coding.powerFail : Statement .powerFail := of_other rfl
theorem Sys2Proof.Laws.Coding.refreshEnd (stack die : Nat) : Statement (.refreshEnd stack die) := of_other rfl
theorem Sys2Proof.Laws.Coding.accessPerformed (g n : Nat) : Statement (.accessPerformed g n) := of_other rfl
theorem Sys2Proof.Laws.Coding.flitRetry (port lane : Nat) : Statement (.flitRetry port lane) := of_other rfl
theorem Sys2Proof.Laws.Coding.viaductLaneRetrain (lane : Nat) : Statement (.viaductLaneRetrain lane) := of_other rfl
theorem Sys2Proof.Laws.Coding.strandRetrain (pch : Nat) : Statement (.strandRetrain pch) := of_other rfl
theorem Sys2Proof.Laws.Coding.routesRestored : Statement .routesRestored := of_other rfl
theorem Sys2Proof.Laws.Coding.linksRetrained : Statement .linksRetrained := of_other rfl
theorem Sys2Proof.Laws.Coding.checkpointSection (src : Nat) (s : CkptSection) : Statement (.checkpointSection src s) := of_other rfl
theorem Sys2Proof.Laws.Coding.preCopyRound (ctx : Nat) : Statement (.preCopyRound ctx) := of_other rfl
end

