-- ==== Sys2Proof/Tests/Slice0.lean ====
section
/-! SUPPORT. The model's own tests: ill-formed terms, words of the spec, one-step effects from the spec's worked examples, and for
each statement's hypotheses a state that meets them. -/

namespace Sys2Proof.Tests

open Sys2Proof Sys2Proof.Machine

-- Each test is decided by the kernel, one after another, so that the compile keeps few threads.
set_option Elab.async false

/-! ### Ill-formed terms (R33 to R46, R58, R65 to R67) -/

/-- A form with the fields that a test does not look at. -/
def form (ty : LTy) (d : Dest) (a b c : Opnd) : LForm := ⟨ty, d, .always, 0, a, b, c⟩
/-- A mask operand, a constant, an immediate and a number as source fields. -/
def msrc (k : BitVec 3) : Opnd := ⟨.mask k, false, .none, .none⟩
def csrc (n : BitVec 6) : Opnd := ⟨.const n, false, .none, .none⟩
def rsrc (x : BitVec 9) : Opnd := ⟨.raw x, false, .none, .none⟩
def lane : Opnd := ⟨.lane, false, .none, .none⟩
def latch0 : Opnd := ⟨.latch 0, false, .none, .none⟩

theorem test_wf_accepts : (Instr.iadd (form .i32 (.v 1) (vsrc 2) (csrc 47) .unused)).wf = true := by decide
theorem test_wf_constant_above_47 : (Instr.iadd (form .i32 (.v 1) (vsrc 2) (csrc 48) .unused)).wf = false := by decide
theorem test_wf_type : (Instr.iadd (form .f32 (.v 1) (vsrc 2) (vsrc 3) .unused)).wf = false := by decide
theorem test_wf_odd_pair : (Instr.iadd (form .i64 (.v 1) (vsrc 2) (vsrc 4) .unused)).wf = false ∧
    (Instr.iadd (form .i64 (.v 2) (vsrc 3) (vsrc 4) .unused)).wf = false := by decide
theorem test_wf_var : (Instr.iadd ⟨.i32, .v 1, .always, 1, vsrc 2, vsrc 3, .unused⟩).wf = false := by decide
theorem test_wf_predicate : (Instr.iadd ⟨.i32, .v 1, .on 7 false, 0, vsrc 2, vsrc 3, .unused⟩).wf = false := by decide
theorem test_wf_destination : (Instr.iadd (form .i32 .em (vsrc 2) (vsrc 3) .unused)).wf = false ∧
    (Instr.stp (form .x32 (.v 1) (vsrc 2) (vsrc 3) .unused)).wf = false ∧
    (Instr.icmp (form .i32 (.k 7) (vsrc 2) (vsrc 3) .unused)).wf = false := by decide
theorem test_wf_unused_field : (Instr.iadd (form .i32 (.v 1) (vsrc 2) (vsrc 3) (vsrc 4))).wf = false := by decide
theorem test_wf_modifier : (Instr.iadd (form .n32 (.v 1) ⟨.v 2, false, .none, .neg⟩ (vsrc 3) .unused)).wf = false ∧
    (Instr.iadd (form .i32 (.v 1) ⟨.v 2, false, .rot 5 0, .none⟩ (vsrc 3) .unused)).wf = false ∧
    (Instr.iadd (form .i32 (.v 1) ⟨.v 2, false, .bfly 5 3, .none⟩ (vsrc 3) .unused)).wf = false := by decide
theorem test_wf_mark_on_a_scalar : (Instr.iadd (form .i32 (.v 1) ⟨.s 2, true, .none, .none⟩ (vsrc 3) .unused)).wf = false := by decide
theorem test_wf_immediate : (Instr.iaddImm (form .i8 (.v 1) (vsrc 2) (isrc 256) .unused)).wf = false ∧
    (Instr.iadd (form .i32 (.v 1) (vsrc 2) (isrc 1) .unused)).wf = false := by decide
theorem test_wf_reduction : (Instr.segredAnd (⟨.f32, .v 5, .always, 3, vsrc 4, .unused, rsrc 4⟩)).wf = false ∧
    (Instr.segredAdd (form .f32 (.v 5) (vsrc 4) .unused (rsrc 6))).wf = false := by decide
theorem test_wf_vote_code : (Instr.voteAny (form .i32 .none (vsrc 1) .unused .unused)).wf = false := by decide
theorem test_wf_scalar : (Instr.mmq 1 2 3 .b16 false false false).wf = false ∧ (Instr.collAllreduce 1 2 3 .min true).wf = false ∧
    (Instr.getc 1 0x21).wf = false ∧ (Instr.setc 1 0x12).wf = false ∧ (Instr.getc 1 0x20).wf = true := by decide

/-! ### Words that the spec assembles -/

theorem test_decode_scalar_alu : decodeTableWord 32 0x0238A300 = some (.add 7 5 6) ∧ decodeTableWord 32 0x20285FF4 = some (.addi 5 2 (-12)) ∧
    decodeTableWord 32 0x02188285 = some (.div 3 4 5) ∧ decodeTableWord 32 0x2E30E003 = some (.srai 6 7 3) := by decide
theorem test_decode_scalar_memory : decodeTableWord 32 0x40210010 = some (.lds 4 8 16) ∧
    decodeTableWord 32 0x44210010 = some (.sts 4 8 16) ∧
    -- AMOS.add.device s1, s2, s3: op 0x24, func 0x03 (R61, R62)
    decodeTableWord 32 (0x24#7 ++ 1#6 ++ 2#6 ++ 3#6 ++ 0x03#7).toNat = some (.amosAdd 1 2 3 .device) := by decide
theorem test_decode_branches : decodeTableWord 32 0x54189FFB = some (.bne 3 4 (-5)) ∧ decodeTableWord 32 0x5FF00014 = some (.call 62 20) ∧
    decodeTableWord 32 0x6007C001 = some (.ret 62) := by decide
theorem test_decode_streams : decodeTableWord 32 (0x38#7 ++ 5#6 ++ 7#19).toNat = some (.run 5 7) ∧
    decodeTableWord 32 (0x3A#7 ++ 5#6 ++ 0#19).toNat = some (.takev 5) ∧ decodeTableWord 32 (0x3A#7 ++ 5#6 ++ 1#19).toNat = some .unassignedInstruction := by decide
theorem test_decode_engines : decodeTableWord 32 0x80516600 = some (.cpyLd 10 11 12) ∧ decodeTableWord 32 0x82680000 = some (.closeb 13) ∧
    decodeTableWord 32 0x8401A000 = some (.waitb 13) ∧ decodeTableWord 32 0x8A516600 = some (.scat 10 11 12) ∧
    decodeTableWord 32 0x8CA2AB00 = some (.walkCoo 20 21 22) := by decide
theorem test_decode_matrix : decodeTableWord 32 0x8EF3E000 = some (.mmq 30 31 0 .b16 false false false) ∧
    decodeTableWord 32 0x8EF3F0AC = some (.mmqQuad 30 31 33 .t8 true false false) ∧ decodeTableWord 32 0x96A2AB00 = some (.had 20 21 22 .f32) ∧
    decodeTableWord 32 0x95453510 = some (.accst 40 41 42 .b16 .rne) ∧ decodeTableWord 32 0x92EBC000 = some (.mwait 29 30) := by decide
theorem test_decode_tiles_and_deeds : decodeTableWord 32 0xA0314000 = some (.erase 6 10) ∧ decodeTableWord 32 0xA2394000 = some (.xprobe 7 10) ∧
    decodeTableWord 32 0xA4A2AB00 = some (.give 20 21 22) ∧ decodeTableWord 32 0xA6A00000 = some (.take 20 0) ∧
    decodeTableWord 32 0xA8BA8000 = some (.deedq 23 20) := by decide
theorem test_decode_barriers : decodeTableWord 32 0xB2004180 = some (.bar 2 3) ∧ decodeTableWord 32 0xB4284180 = some (.arrive 5 2 3) ∧
    decodeTableWord 32 0xB6004280 = some (.waitbar 2 5) := by decide
theorem test_decode_launch : decodeTableWord 32 0xC0290000 = some (.launch 5 8) ∧ decodeTableWord 32 0xC0290001 = some (.launchGraph 5 8) ∧
    decodeTableWord 32 0xC4000000 = some .yield ∧ decodeTableWord 32 0xC6000000 = some .exit := by decide
theorem test_decode_system : decodeTableWord 32 0xD0200030 = some (.getc 4 0x30) ∧ decodeTableWord 32 0xD0480033 = some (.getc 9 0x33) ∧
    decodeTableWord 32 0xD200E031 = some (.setcXlctl 7) ∧ decodeTableWord 32 0xD2010032 = some (.setcDelta 8) := by decide
theorem test_decode_traps : decodeTableWord 32 0xD4000005 = some (.trap 5) ∧ decodeTableWord 32 0xD8000000 = some (.brk 0) ∧
    decodeTableWord 32 0xD6000000 = some .sret := by decide

theorem test_decode_lane_integer :
    decodeTableWord 96 0x804015C001800000003E8E14 = some (.iaddImm ⟨.i32, .v 5, .always, 0, ⟨.v 6, false, .bcast 4 5, .none⟩, isrc 1000, .unused⟩) ∧
    decodeTableWord 96 0x845009C04000000000408000 = some (.bfeImm (form .n32 (.v 2) latch0 (isrc 0x0408) .unused)) ∧
    decodeTableWord 96 0x051205D40099000000000000 = some (.icmp ⟨.n32, .k 1, .always, 5, vsrc 2, csrc 8, .unused⟩) := by decide
theorem test_decode_lane_float :
    decodeTableWord 96 0x10E029C1008060A000000000 = some (.ffma (form .f32 (.v 10) (vsrc 2) ⟨.v 3, true, .none, .none⟩ (vsrc 10))) ∧
    decodeTableWord 96 0x102002A44000E0000068D000 =
      some (.fadd ⟨.f32, .l0, .on 2 true, 1, latch0, ⟨.v 7, false, .rot 5 3, .neg⟩, .unused⟩) ∧
    decodeTableWord 96 0x11E015CA0100000000000000 = some (.frcp ⟨.f32, .v 5, .always, 2, ⟨.v 4, true, .none, .none⟩, .unused, .unused⟩) := by decide
theorem test_decode_conversions :
    decodeTableWord 96 0x182011C20080004000000000 = some (.cvt (form .f32 (.v 4) ⟨.v 2, true, .none, .none⟩ .unused (rsrc 4))) ∧
    decodeTableWord 96 0x18EC21C801C0000000000000 = some (.unpack ⟨.t8, .v 8, .always, 2, vsrc 7, .unused, .unused⟩) := by decide
theorem test_decode_masks : decodeTableWord 96 0x1D400DC00040000000000000 = some (.popk (form .i32 (.v 3) (msrc 1) .unused .unused)) := by decide
theorem test_decode_lane_control :
    decodeTableWord 96 0x200000400000000000007000 = some (.brl ⟨.i32, .none, .on 1 false, 0, .unused, .unused, isrc 7⟩) ∧
    decodeTableWord 96 0x210001C0000000000000A000 = some (.item (form .i32 (.v 0) .unused .unused (isrc 10))) ∧
    decodeTableWord 96 0x214001C04000000000000000 = some (.voteBallot (form .i32 .none latch0 .unused .unused)) ∧
    decodeTableWord 96 0x208001C00000000000000000 = some .join ∧ decodeTableWord 96 0x20C001C00000000000000000 = some .stop := by decide
theorem test_decode_lane_memory :
    decodeTableWord 96 0x283415C12040C00000000000 = some (.ldw (form .x32 (.v 5) (ssrc 1) ⟨.v 6, true, .none, .none⟩ .unused)) ∧
    decodeTableWord 96 0xAAC001C42A00000001000000 = some (.prefImm ⟨.i32, .none, .always, 1, ssrc 40, isrc 4096, .unused⟩) ∧
    decodeTableWord 96 0x2A3421C02A00400000000000 = some (.ldx (form .x32 (.v 8) (ssrc 40) (vsrc 2) .unused)) := by decide
theorem test_decode_atomics :
    decodeTableWord 96 0x2C2011CC2A00406000000000 = some (.atomAdd ⟨.f32, .v 4, .always, 3, ssrc 40, vsrc 2, vsrc 6⟩) ∧
    decodeTableWord 96 0x2E0001C1A040202000000000 =
      some (.eopAdd (form .i32 .none (ssrc 1) ⟨.v 1, true, .none, .none⟩ ⟨.v 2, true, .none, .none⟩)) := by decide
theorem test_decode_cross_lane : decodeTableWord 96 0x304019C40040005000000000 =
    some (.scankExcl ⟨.i32, .v 6, .always, 1, msrc 1, .unused, rsrc 5⟩) := by decide
theorem test_decode_call : decodeTableWord 96 0x380015C00100000000000000 = some (.callv (form .i32 (.v 5) (vsrc 4) .unused .unused)) := by decide
theorem test_decode_refused : decodeTableWord 32 0 = some .unassignedInstruction ∧ decodeTableWord 96 0 = some .unassignedInstruction ∧
    (decodeScalar (0x50#7 ++ 6#6 ++ 10#6 ++ 1#6 ++ 0#7)).toOption = none := by decide

/-! ### Small states -/

/-- A state with one group, which a placed instruction binds, at a scalar or a lane instruction. -/
def one : State := { placeInstr State.reset false 4 0 with curLane := false }
def oneL : State := { placeInstr State.reset true 12 0 with curLane := true }
/-- Its group and context. -/
def G0 : Group := placeGroup 0 0 0 false
def L0 : Group := placeGroup 0 0 0 true
/-- A state with that group as given. -/
def withG (G : Group) : State := { one with groups := [G] }
/-- The group with scalar registers. -/
def sg (l : List (SReg × W64)) : Group := l.foldl (fun G p => G.setS p.1 p.2) G0
/-- What a step answers about a group. -/
def after (i : Instr) (s : State) (f : Group → W64) : Option W64 :=
  match exec i s with
  | .next t => (t.groups[0]?).map f
  | _ => none

/-- What an access gives. -/
def okOf {α : Type} (r : MemRes α) : Option α := match r with
  | .ok x => some x
  | _ => none

def okSt {α : Type} (r : MemRes α × State) : Option (α × State) := (okOf r.1).map fun x => (x, r.2)

/-! ### One instruction on small states (the values are the spec's worked examples) -/

theorem test_division : after (.div 3 4 5) (withG (sg [(4, -7), (5, 2)])) (·.sreg 3) = some (-3) ∧
    after (.rem 3 4 5) (withG (sg [(4, -7), (5, 2)])) (·.sreg 3) = some (-1) ∧
    after (.divn 3 4 5) (withG (sg [(4, -7), (5, 2)])) (·.sreg 3) = some 0x7FFFFFFFFFFFFFFC ∧
    after (.remn 3 4 5) (withG (sg [(4, -7), (5, 2)])) (·.sreg 3) = some 1 := by decide +kernel
theorem test_division_of_the_least : after (.div 3 4 5) (withG (sg [(4, 1#64 <<< 63), (5, -1)])) (·.sreg 3) = some (1#64 <<< 63) ∧
    after (.rem 3 4 5) (withG (sg [(4, 1#64 <<< 63), (5, -1)])) (·.sreg 3) = some 0 := by decide +kernel
theorem test_sethi_ori : after (.sethi 9 0x12345) one (·.sreg 9) = some 0x2468A000 ∧
    after (.ori 9 9 0x1BC) (withG (sg [(9, 0x2468A000)])) (·.sreg 9) = some 0x2468A1BC := by decide +kernel
theorem test_jump_reads_before_it_links : after (.jr 5 5) (withG (sg [(5, 0x20000)])) (·.sc.spc) = some 0x20000 ∧
    after (.jr 5 5) (withG (sg [(5, 0x20000)])) (·.sreg 5) = some 0x10004 := by decide +kernel
theorem test_s0_stays_zero : after (.addi 0 0 1) one (·.sreg 0) = some 0 := by decide +kernel
theorem test_divide_by_zero_traps : after (.div 0 0 0) one (fun G => G.trap.cause) = some (1#64 <<< 10) := by decide +kernel


/-! ### States that meet the statements' hypotheses: scalar instructions -/

theorem turn (G : Group) (h : G.dbg.stepm = 1#2 → G.trap.hmode = true) : ScalarTurn (withG G) G := ⟨rfl, h⟩

theorem wit_ScalarAluResult : ScalarTurn (withG (sg [(1, 5)])) (sg [(1, 5)]) ∧ aluValue (sg [(1, 5)]).sreg (.add 3 1 2) = some (3, 5) ∧
    divValue (sg [(1, 5)]).sreg (.div 3 2 1) = some (3, 1, 0) ∧ (sg [(1, 5)]).sreg 1 ≠ 0 := ⟨turn _ (by decide +kernel), by decide +kernel⟩
theorem wit_DivisionByZeroTraps : one.group? one.cur = some G0 ∧ divValue G0.sreg (.divn 3 1 2) = some (3, 2, 0) ∧ G0.sreg 2 = 0 :=
  ⟨rfl, by decide +kernel⟩
theorem wit_ScalarBranchTarget : ScalarTurn (withG (sg [])) (sg []) ∧ branchPc (sg []).sreg (sg []).sc.spc (.beq 1 2 (-1)) = some 0xFFFC :=
  ⟨turn _ (by decide +kernel), by decide +kernel⟩
theorem wit_IndirectJumpTraps : ScalarTurn (withG (sg [(1, 0x20000), (2, 6), (3, 1#64 <<< 56)])) (sg [(1, 0x20000), (2, 6), (3, 1#64 <<< 56)]) ∧
    ((sg [(1, 0x20000), (2, 6), (3, 1#64 <<< 56)]).sreg 1).toNat % 4 = 0 ∧ ((sg [(1, 0x20000), (2, 6), (3, 1#64 <<< 56)]).sreg 1).toNat < 2 ^ 56 ∧
    ((sg [(1, 0x20000), (2, 6), (3, 1#64 <<< 56)]).sreg 2).toNat % 4 ≠ 0 ∧ 2 ^ 56 ≤ ((sg [(1, 0x20000), (2, 6), (3, 1#64 <<< 56)]).sreg 3).toNat :=
  ⟨turn _ (by decide +kernel), by decide +kernel⟩
/-- The group with STEPM 1, in a context with an enabled handler. -/
def stepG : Group := { G0 with dbg := { G0.dbg with stepm := 1 } }
def hb (s : State) : State := { s with contexts := s.contexts.map fun c => { c with hbaseEn := true, hbase := 0x8000 } }
theorem wit_ScalarRetirement : (hb (withG stepG)).group? 0 = some stepG ∧ stepG.trap.hmode = false ∧ stepG.running = true ∧
    ((hb (withG stepG)).ctxOf stepG).map (·.hbaseEn) = some true := ⟨rfl, by decide +kernel⟩

/-- The group with runs in its decision queue, and one in a lane run. -/
def dqG (n : Nat) : Group := { G0 with lane := { G0.lane with dq := List.replicate n ⟨0, 0, Vector.replicate 4 0⟩ } }
def vpG (l : List W64) : Group := { G0 with lane := { G0.lane with vp := l } }
/-- A group whose lane stream can never end: eight runs wait behind an append to a full vote port. -/
def stuckG : Group := { dqG 8 with lane := { (dqG 8).lane with run := some ⟨0, 0, Vector.replicate 4 0⟩, vp := List.replicate 4 0, stall := .port } }
theorem wit_RunAppendsSnapshot : ScalarTurn (withG (dqG 7)) (dqG 7) ∧ (dqG 7).lane.dq.length < 8 ∧ ScalarTurn (withG (dqG 8)) (dqG 8) ∧
    8 ≤ (dqG 8).lane.dq.length ∧ laneStuck (withG (dqG 8)) 0 (dqG 8) = false ∧ ScalarTurn (withG stuckG) stuckG ∧
    8 ≤ stuckG.lane.dq.length ∧ laneStuck (withG stuckG) 0 stuckG = true :=
  ⟨turn _ (by decide +kernel), by decide +kernel, turn _ (by decide +kernel), by decide +kernel, by decide +kernel, turn _ (by decide +kernel),
    by decide +kernel⟩
theorem wit_TakevTakesHead : ScalarTurn (withG (vpG [7])) (vpG [7]) ∧ (vpG [7]).lane.vp = [7] ∧ G0.lane.vp = [] ∧ G0.laneIdle = true ∧
    (dqG 1).lane.vp = [] ∧ (dqG 1).laneIdle = false ∧ laneStuck (withG (dqG 1)) 0 (dqG 1) = false :=
  ⟨turn _ (by decide +kernel), by decide +kernel⟩
/-- A store that waits in a queue of group 0. -/
def pw (stage : Nat) : PWrite := ⟨0, 0, 0, 0x5000, 0xF, 1, 0x30000, none, ⟨true, true, false⟩, 0, stage, 0⟩
theorem wit_FencesWaitForTheirScope : ScalarTurn one G0 ∧ G0.laneIdle = true ∧ visibleAt one 0 .device = true ∧
    visibleAt { one with sq := [pw 0] } 0 .cluster = false ∧ (dqG 1).laneIdle = false ∧ stuckG.laneIdle = false ∧
    laneStuck (withG stuckG) 0 stuckG = true := ⟨turn _ (by decide +kernel), by decide +kernel⟩
/-- The state with its team as given. -/
def withT (G : Group) (f : Team → Team) : State := { withG G with teams := one.teams.map f }
/-- A barrier 0 that one lane has opened. -/
def openB (t : Team) : Team := { t with barriers := t.barriers.set 0 ⟨3, true, 32, 1, 0, [(0, 1)]⟩ }
theorem wit_ArriveCountsThreads : visibleAt one 0 .team = true ∧ visibleAt { one with sq := [pw 0] } 0 .team = false ∧ ScalarTurn (withT (sg [(1, 15), (2, 32)]) id) (sg [(1, 15), (2, 32)]) ∧
    (∃ t, (withT (sg [(1, 15), (2, 32)]) id).teamOf (sg [(1, 15), (2, 32)]) = some t ∧ ((sg [(1, 15), (2, 32)]).sreg 2).toNat ≤ 32 * t.atCommit ∧
      (barOf t 15).isOpen = false) ∧
    ((sg [(1, 15), (2, 32)]).sreg 1).toNat < 16 ∧ (sg [(1, 15), (2, 32)]).laneIdle = true ∧
    (∃ t, (withT (sg []) openB).teamOf (sg []) = some t ∧ (barOf t ((sg []).sreg 1).toNat).isOpen = true ∧
      (sg []).sreg 2 = (barOf t ((sg []).sreg 1).toNat).count) :=
  ⟨by decide +kernel, by decide +kernel, ⟨rfl, by decide +kernel⟩, ⟨_, rfl, by decide +kernel⟩, by decide +kernel, by decide +kernel,
    ⟨_, rfl, by decide +kernel⟩⟩
theorem wit_BarrierOperandTraps : (withT (sg [(1, 16), (2, 33), (3, 1)]) openB).group? 0 = some (sg [(1, 16), (2, 33), (3, 1)]) ∧
    (∃ t, (withT (sg [(1, 16), (2, 33), (3, 1)]) openB).teamOf (sg [(1, 16), (2, 33), (3, 1)]) = some t ∧
      16 ≤ ((sg [(1, 16), (2, 33), (3, 1)]).sreg 1).toNat ∧ 32 * t.atCommit < ((sg [(1, 16), (2, 33), (3, 1)]).sreg 2).toNat ∧
      (sg [(1, 16), (2, 33), (3, 1)]).wait.barTok = none ∧ (sg [(1, 16), (2, 33), (3, 1)]).laneIdle = true ∧ (barOf t 0).isOpen = true ∧
      (sg [(1, 16), (2, 33), (3, 1)]).sreg 3 ≠ (barOf t 0).count) := ⟨rfl, _, rfl, by decide +kernel⟩
theorem wit_BarrierWaits : ∃ t, (withT (sg []) openB).teamOf (sg []) = some t ∧ (3#16 = (barOf t 0).phase) ∧
    (3#16 ≠ (2#64).setWidth 16 ∧ (3#16 - (2#64).setWidth 16).toNat < 2 ^ 15) ∧ 3#16 = (3#64).setWidth 16 ∧
    2 ^ 15 ≤ (3#16 - (4#64).setWidth 16).toNat ∧ (∀ tok, tok = 2#16 → (barOf t 0).phase ≠ tok ∧ ((barOf t 0).phase - tok).toNat < 2 ^ 15) :=
  ⟨_, rfl, by decide +kernel, by decide, by decide, by decide, fun _ h => by subst h; decide +kernel⟩

/-! ### Scalar accesses -/

/-- A state that caches the words at 0x20000 and 0x20004, clean, writable and held by core 0. -/
def lineAt (k : Nat) (x : W32) : Line := ⟨lineKey 0 (0x8000 + k), .clean x [0], some (0x30000 + 4 * k), none, ⟨true, true, false⟩, none⟩
def cached (G : Group) : State := { withG G with lines := [lineAt 0 5, lineAt 1 6], shUse := [((lineAt 0 5).key / 32, 0)] }
/-- The scalar stream of the group. -/
def me : Who := ⟨.scalar 0, 0, 0, 0, placeCtx, none, none⟩
theorem cached_word (G : Group) (k : Nat) (x : W32) (h : hitLine (cached G) 0 (0x8000 + k) = some (lineAt k x)) (hk : k < 2)
    (hb : (lineAt 0 5).key / 32 = (lineAt k x).key / 32) (hr : coreRivals (cached G) 0 ((lineAt k x).key / 32) = []) :
    CachedWord (cached G) me (4 * (0x8000 + k)) (lineAt k x) where
  below := by omega
  notRecord := fun _ _ h => by cases h
  notPeer := rfl
  hit := by rw [Nat.mul_div_cancel_left _ (by decide)]; exact h
  settled := fun _ _ _ h => by cases h
  quiet := fun _ h => by cases h
  shared := ⟨_, List.mem_singleton.2 rfl, hb⟩
  core := by rw [show (me.core) = 0 from rfl, hr]; decide
  notEarly := fun _ h => by cases h
  plain := fun _ h => by cases h
theorem wit_ScalarLoadOfCachedWords : ScalarTurn (cached (sg [(1, 0x20000)])) (sg [(1, 0x20000)]) ∧
    whoScalar (cached (sg [(1, 0x20000)])) 0 (sg [(1, 0x20000)]) = some me ∧ Unwatched (sg [(1, 0x20000)]) ∧
    (BitVec.ofInt 64 (((sg [(1, 0x20000)]).sreg 1).toNat + (0#13).toInt)).toNat = 0x20000 ∧
    CachedWord (cached (sg [(1, 0x20000)])) me 0x20000 (lineAt 0 5) ∧ CachedWord (cached (sg [(1, 0x20000)])) me 0x20004 (lineAt 1 6) ∧
    (lineAt 0 5).st = .clean 5 [0] ∧ me.core ∈ [0] ∧ (lineAt 0 5).perm.w = true ∧ (lineAt 1 6).key = (lineAt 0 5).key + 1 ∧ (lineAt 1 6).pa = some 0x30004 :=
  ⟨⟨rfl, by decide +kernel⟩, rfl, .inr (.inr (by decide +kernel)), by decide +kernel,
    cached_word _ 0 5 (by decide +kernel) (by decide) rfl rfl, cached_word _ 1 6 (by decide +kernel) (by decide) (by decide +kernel) rfl,
    by decide +kernel⟩
theorem wit_ScalarAtomicOnCachedWord : amosValue (.amosAdd 2 1 0 .device) (lineAt 0 5).value ((0#64).setWidth 32) ((0#64).setWidth 32) =
    some (2, 1, 0, .device, 5) ∧ ((sg [(1, 0x20000)]).sreg 1).toNat % 4 = 0 ∧ ((sg [(1, 0x20000)]).sreg 1).toNat = 0x20000 := by decide +kernel
theorem wit_ScalarAccessTraps : (withG (sg [(1, 1#64 <<< 56), (2, 4), (3, 2)])).group? 0 = some (sg [(1, 1#64 <<< 56), (2, 4), (3, 2)]) ∧
    ((withG (sg [(1, 1#64 <<< 56), (2, 4), (3, 2)])).ctxOf (sg [(1, 1#64 <<< 56), (2, 4), (3, 2)])).isSome = true ∧
    2 ^ 56 ≤ ((sg [(1, 1#64 <<< 56), (2, 4), (3, 2)]).sreg 1).toNat ∧ ((sg [(1, 1#64 <<< 56), (2, 4), (3, 2)]).sreg 2).toNat % 8 ≠ 0 ∧
    ((sg [(1, 1#64 <<< 56), (2, 4), (3, 2)]).sreg 3).toNat % 4 ≠ 0 := ⟨rfl, by decide +kernel⟩
theorem wit_CommittedStoreIsSeenByItsGroup : (pw 0).stage = 0 ∧ (pw 0).key = lineKey 0 0x5000 := by decide +kernel
theorem wit_ScalarAccessRetires :
    (okOf (loadLanes (cached (sg [(1, 0x20000)])) me (scalarDbg (sg [(1, 0x20000)])) 0x10000 8 false [⟨0, 0x20000, 8⟩]).1).map (·.1) =
      some [(0, [5, 6])] ∧
    okOf (storeLanes (cached (sg [(1, 0x20000)])) me (scalarDbg (sg [(1, 0x20000)])) 0x10000 4 [⟨0, 0x20000, 9⟩]).1 = some () := by
  decide +kernel


/-! ### Engine commands, the matrix unit, collectives. (r.any p: the operation answers something of which p holds.) -/

/-- A state that caches a record's words at 0x20000. -/
def withR (G : Group) (ws : List W32) : State :=
  { withG G with lines := (List.range 32).map fun k => lineAt k (ws.getD k 0) }
/-- A record of n words in one dimension, and one of n pairs. -/
def rec1 (n : W32) : List W32 := [0x40000, 0, 0x84688, 0, n, 1, 1, 1, 1, 4, 0, 0, 0, 0]
def rec2 (n : W32) : List W32 := [0x40000, 0, 0x104688, 0, 2, n, 1, 1, 1, 4, 8, 0, 0, 0]
/-- Registers of a copy: scratchpad address, record, origin, size. -/
def cpyG : Group := sg [(1, 0), (2, 0x20000), (4, 0), (5, 0x0001000100010004)]
/-- The record that an instruction of group G reads at 0x20000. -/
def recOf (G : Group) (ws : List W32) : Option (ShapeRec × State) := okSt (useRecord (withR G ws) me G.sc.spc 0x20000)
theorem wit_CopyIsQueued : (withR cpyG (rec1 4)).group? 0 = some cpyG ∧ whoScalar (withR cpyG (rec1 4)) 0 cpyG = some me ∧
    (recOf cpyG (rec1 4)).any (fun p => ((halves (cpyG.sreg 5)).all fun n => n != 0) && !viewBad p.1 (cpyG.sreg 4) (cpyG.sreg 5) &&
      !blockBad p.1 false 0 (cpyG.sreg 4) (cpyG.sreg 5) && !blockBad p.1 true 0 (cpyG.sreg 4) (cpyG.sreg 5) && p.1.nwin == 0 &&
      decide (copiesHeld p.2 0 < 32) && p.2.cur == 0 &&
      (spadCheck p.2 0 0 0 (boxBytes p.1 (cpyG.sreg 5)) (esz p.1.elem)).toOption.isSome) = true := ⟨rfl, rfl, by decide +kernel⟩
/-- The engine already holds all that it can. -/
def busy (s : State) (k : CmdKind) : State :=
  { s with cmds := List.replicate 32 ⟨0, 0, 0, k, 0, ⟨0, 0, 0, 1, 0, false, [], [], [], []⟩, 0, 0, 0, [], [], none, none, false, none⟩ }
theorem wit_copy_engine_full : copiesHeld (busy one (.copyLd 0 0 0)) 0 = 32 := by decide +kernel
theorem wit_GatherAndScatterAreQueued : (recOf cpyG (rec2 4)).any (fun p => !p.1.described && tableGood p.1 false && tableGood p.1 true &&
      decide (clearingsHeld p.2 0 < 32) && p.2.cur == 0 && (spadCheck p.2 0 0 0 (4 * rowBytes p.1) (esz p.1.elem)).toOption.isSome &&
      (spadCheck p.2 0 0 64 (4 * 4) 4).toOption.isSome) = true := by decide +kernel
/-- Registers of a walk: capacity 4, share 0 of 1. -/
def walkG (rows : W64) (ptr : W64) : Group := sg [(2, 0x20000), (4, 4#64 <<< 32), (5, rows <<< 16 ||| 1), (6, ptr)]
theorem wit_WalkTakesItsShare : (recOf (walkG 0 0) (rec2 4)).any (fun p => p.1.elem == 0 && p.1.rank == 2 && p.1.extOf 0 == 2 && p.1.extOf 1 == 4 &&
      decide ((0 + 1) * 4 / 1 - 0 * 4 / 1 ≤ 4) && (spadCheck p.2 0 0 0 (8 * 4) 4).toOption.isSome) = true ∧
    (recOf (walkG 3 0x40000) (rec1 4)).any (fun p => p.1.elem == 0 && p.1.rank == 1 && p.1.extOf 0 == 4) = true ∧
    ((walkG 3 0x40000).sreg 4).toNat = 4 * 2 ^ 32 ∧ ((walkG 3 0x40000).sreg 5).toNat = 3 * 2 ^ 16 + 0 * 2 ^ 8 + 1 := by decide +kernel
/-- Registers of an ACCST of one tile at v0. -/
def accG : Group := sg [(1, 0), (2, 0x20000), (4, 0), (5, 0x0001000100010100)]
theorem wit_AccumulatorStoreIsQueued : accBad .f32 (accG.sreg 1) = false ∧ (recOf accG (rec1 256)).any (fun p => p.1.nwin == 0 &&
      p.1.elem == convElem .f32 && prod (boxSizes p.1 (accG.sreg 5)) == 256 * 1 && !blockBad p.1 true 0 (accG.sreg 4) (accG.sreg 5) &&
      !reserveShort p.2 0 ((regsFrom 0 8).filter fun x => !accG.pinned.contains x).length && decide (copiesHeld p.2 0 < 32) &&
      match refetchEach p.2 0 (regsFrom 0 8) with
      | .ok s => (s.group? 0).isSome
      | _ => false) = true := by decide +kernel
/-- A command of group 0 in batch b. -/
def cmdOf (b : Nat) (ended : Bool) (f : Option CmdFail) : Cmd :=
  ⟨0, 0, 0, .copyLd 0 0 0, 0, ⟨0, 0, 0, 1, 0, false, [], [], [], []⟩, b, 0, 0, [], [], none, none, ended, f⟩
def batG (n : Nat) (l : List (SReg × W64)) : Group := { sg l with eng := { (sg l).eng with batchCtr := n } }
theorem wit_Batches : ScalarTurn (withG (batG 64 [(1, 63)])) (batG 64 [(1, 63)]) ∧
    ((batchesBelow one 0 0).filter (outstanding one 0 G0)).length < 64 ∧
    64 ≤ ((batchesBelow { withG (batG 64 []) with cmds := (List.range 64).map fun b => cmdOf b false none } 0 64).filter
      (outstanding { withG (batG 64 []) with cmds := (List.range 64).map fun b => cmdOf b false none } 0 (batG 64 []))).length ∧
    covers (2 ^ 16) 63 (batG 64 [(1, 63)]).eng.batchCtr = false ∧ ((batG 64 [(1, 63)]).sreg 1).toNat = 63 ∧ covers (2 ^ 16) 63 0 = true ∧
    ((batchesBelow { one with cmds := [cmdOf 0 true (some ⟨cXLAT, 1, 0, 0, 0⟩)] } 0 64).findSome? fun b =>
      (batchFail { one with cmds := [cmdOf 0 true (some ⟨cXLAT, 1, 0, 0, 0⟩)] } 0 b).map fun p => (b, p)).isSome = true ∧
    covers (2 ^ 16) ((batG 64 [(1, 64)]).sreg 1).toNat 64 = true := ⟨turn _ (by decide +kernel), by decide +kernel⟩
theorem wit_RecordFencesDropEntries : ScalarTurn (withG (sg [(1, 0x20000), (2, 64)])) (sg [(1, 0x20000), (2, 64)]) ∧
    (sg [(1, 0x20000), (2, 64)]).laneIdle = true ∧ visibleAt (withG (sg [(1, 0x20000), (2, 64)])) 0 .cluster = true ∧
    ((sg [(1, 0x20000), (2, 64)]).sreg 1).toNat % 128 = 0 ∧ ((sg [(1, 0x20000), (2, 64)]).sreg 2).toNat % 128 ≠ 0 :=
  ⟨turn _ (by decide +kernel), by decide +kernel⟩
theorem wit_SpillsKeepValues : (match ensureRows one 0 [1, 2] [3] true with
      | .ok _ => true
      | _ => false) = true ∧ (match refetchEach one 0 [1, 2] with
      | .ok _ => true
      | _ => false) = true ∧ (match pinRows one 0 [1, 2] with
      | .ok _ => true
      | _ => false) = true := by decide +kernel
/-- An MMQ of .b16 with A at v16, B at v24 and C at v0, all in one group. -/
def mmqG : Group := sg [(1, 1#64 <<< 32 ||| 24 <<< 16 ||| 16 <<< 8)]
theorem wit_MatrixOperationIsQueued : descBad .b16 false false 0 (mmqG.sreg 1) = false ∧ tileRaise (withG mmqG) mmqG .b16 0 = none ∧
    inFlight mmqG < 4 ∧ quadFlight (withG mmqG) 0 < 8 ∧
    (match refetchEach (withG mmqG) 0 [0, 1] with
      | .ok s => !reserveShort s 0 2 && decide (quadPinned s 0 + 2 ≤ 672) && (match pinRows s 0 [0, 1] with
        | .ok _ => true
        | _ => false)
      | _ => false) = true := by decide +kernel
theorem wit_HadamardIsQueued : ScalarTurn (withG (sg [(2, 0x102)])) (sg [(2, 0x102)]) ∧ ((sg [(2, 0x102)]).sreg 2).toNat = 1 * 2 ^ 8 + 2 ∧
    (spadCheck (withG (sg [(2, 0x102)])) 0 0 0 (1 * (16 * 2 ^ 2) * hadEsz .f32) 16).toOption.isSome = true ∧
    inFlight (sg [(2, 0x102)]) < 4 := ⟨turn _ (by decide +kernel), by decide +kernel⟩
/-- A group with an operation numbered 0 that stands as given. -/
def opG (st : MOpSt) (l : List (SReg × W64)) : Group :=
  { sg l with eng := { (sg l).eng with tokCtr := 1, mops := [⟨0, 0, .had .f32 0 1 16, st, [], [], [], [], false, false, ⟨0, 0x100, 2⟩⟩] } }
theorem wit_MwaitReportsItsOperations : ScalarTurn (withG (opG .flight [])) (opG .flight []) ∧ ((opG .flight []).sreg 1).toNat = 0 ∧
    covers 256 0 0 = true ∧ covers 256 0 (opG .flight []).eng.tokCtr = false ∧
    ((opG (.failed 4 9) []).eng.mops.find? fun m => covers 256 0 m.num && !m.reported && match m.st with
      | .failed _ _ => true
      | _ => false).isSome = true ∧ ((opG .done []).eng.mops.all fun m => m.reported || m.st == .done) = true ∧
    covers 256 ((opG .done [(1, 1)]).sreg 1).toNat (opG .done [(1, 1)]).eng.tokCtr = true ∧ 256 ≤ ((opG .done [(1, 256)]).sreg 1).toNat :=
  ⟨turn _ (by decide +kernel), by decide +kernel⟩
/-- A communicator of two members, in the context of the group. -/
def comm2 : Comm := ⟨0, [1025, 1026], 0, 0x100000, 0x100000, false, 0, none⟩
def withC (s : State) (f : Context → Context) : State := { s with contexts := s.contexts.map f }
def collS : State := withC (withR (sg [(1, 0x20000)]) ((rec1 64).set 9 0)) fun c => { c with comms := [comm2] }
theorem wit_CollectiveIsIssued : collParts (.collAllreduce 3 1 2 .add false) = some (3, 1, 2, 0, 0, false) ∧
    (collS.contexts[0]?).any (fun c => decide (commOf c 0 = some comm2)) = true ∧ collBad 0 0 false ((sg []).sreg 2) comm2 = false ∧
    (whoScalar collS 0 (sg [(1, 0x20000)])).any (fun w => (okSt (useRecord collS w 0x10000 0x20000)).any fun p =>
      !collRecordBad 0 0 false 0 comm2 p.1) = true := by decide +kernel
/-- A group with collective 0 that stands as given. -/
def collG (st : Option W64) (l : List (SReg × W64)) : Group :=
  { sg l with eng := { (sg l).eng with collCtr := 1, colls := [⟨0, 0, 0, 0, 0, false, 0, 0, 0, 0, 64, none, [], [], none, 0, st, false⟩] } }
theorem wit_WaitcReportsItsCollectives : ScalarTurn (withG (collG none [])) (collG none []) ∧ ((collG none []).sreg 1).toNat = 0 ∧
    covers 256 0 (collG none []).eng.collCtr = false ∧ (∃ c ∈ (collG none []).eng.colls, covers 256 0 c.num = true ∧ c.status = none) ∧
    ((collG (some 0) []).eng.colls.all fun c => c.status.isSome) = true ∧
    ((collG (some 0) []).eng.colls.reverse.find? fun c => decide (c.num % 256 = 0)).isSome = true ∧
    ((collG (some 1) []).eng.colls.find? fun c => covers 256 0 c.num && !c.reported && c.status.any collFailed).isSome = true ∧
    ((collG (some 0) []).eng.colls.find? fun c => covers 256 0 c.num && !c.reported && c.status.any collFailed) = none ∧
    (covers 256 ((collG (some 0) [(1, 200)]).sreg 1).toNat (collG (some 0) [(1, 200)]).eng.collCtr = false ∧
      ∀ c ∈ (collG (some 0) [(1, 200)]).eng.colls, c.num % 256 ≠ 200 ∧ c.status.isSome = true ∧ c.status.any collFailed = false) ∧
    covers 256 ((collG none [(1, 1)]).sreg 1).toNat (collG none [(1, 1)]).eng.collCtr = true :=
  ⟨turn _ (by decide +kernel), by decide +kernel⟩


/-! ### Deeds, tiles, launches, items, system registers, traps -/

/-- A deed of group 0's core. -/
def deed0 (st : DeedState) : Deed := ⟨0, 0, 1, 0, 4, 0, 0, st⟩
/-- Registers of a GIVE of banks 0 to 3 of core 0 to core 1, and of deed 1. -/
def giveG : Group := sg [(1, 4 <<< 7), (2, 1), (3, 1#64 <<< 24 ||| 4 <<< 7), (4, 64), (5, 0x2A00), (6, 1#64 <<< 18 ||| 4 <<< 7)]
theorem wit_GiveTransfersBanks : ScalarTurn (withG giveG) giveG ∧ (∃ t, (withG giveG).teamOf giveG = some t ∧
      hFirst (giveG.sreg 1) + hCount (giveG.sreg 1) ≤ (teamBanks t 0).length ∧
      copiesMeet (withG giveG) 0 0 (bankRanges t 0 (hFirst (giveG.sreg 1)) (hCount (giveG.sreg 1))) = false) ∧
    bitsOf (giveG.sreg 1).toNat 63 32 = 0 ∧ bitsOf (giveG.sreg 1).toNat 6 0 = 0 ∧ hCount (giveG.sreg 1) ≠ 0 ∧ coreOn (withG giveG) 1 = true ∧
    hSeq (giveG.sreg 1) = 0 ∧ hOrigin (giveG.sreg 1) = 0 ∧ hOrigin (giveG.sreg 6) ≠ 0 ∧ hSeq (giveG.sreg 3) ≠ 0 ∧ 64 ≤ (giveG.sreg 4).toNat ∧
    giveG.laneIdle = true ∧ visibleAt (withG giveG) 0 .cluster = true ∧
    (([deed0 (.held 0 0)].find? fun e => e.named 0 0 (giveG.sreg 3) && e.st == .held 0 0).isSome) = true :=
  ⟨turn _ (by decide +kernel), ⟨_, rfl, by decide +kernel, by decide +kernel⟩, by decide +kernel⟩
/-- A state with a deed. -/
def withD (st : DeedState) : State := { withG (sg [(3, 1#64 <<< 24 ||| 4 <<< 7)]) with deeds := [deed0 st] }
theorem wit_TakeAcceptsDeeds : takeFind one G0 (G0.sreg 1) = none ∧ takeFind (withD (.transit 0)) G0 (G0.sreg 1) = some (deed0 (.transit 0)) ∧
    takeFind { withD (.transit 0) with deeds := [{ deed0 (.transit 0) with creator := 1 }] } G0 0 =
      some { deed0 (.transit 0) with creator := 1 } := by decide +kernel
theorem wit_DeedqReportsDeeds : ((withD (.held 0 0)).deeds.find? fun e => e.named 0 0 (1#64 <<< 24 ||| 4 <<< 7)) = some (deed0 (.held 0 0)) ∧
    ((withD (.held 0 0)).deeds.find? fun e => e.named 0 0 0) = none := by decide +kernel

/-- A state in which the page at 0x20000 is sparse, with tile 0 present in region 0 or every tile absent. -/
def sparse (present : Bool) : State :=
  { withG (sg [(1, 0x20000)]) with
    tlb := [⟨0, 2, false, 0x8097⟩]
    dram := [(0x4004, 1)] ++ if present then [(0x8001, 0), (0x8002, 5), (0x8007, 0x80)].filter (fun p => p.2 != 0) else [] }
theorem wit_ExistenceTiles : (match (xlate (sparse true) placeCtx 0x20000 .write).1 with
      | .ok l big => leafSparse l && !big && mapEntry l big 0x20000 == 0x8000
      | _ => false) = true ∧
    (readExist (sparse true) placeCtx 0x8000 false).1 = .present 0x50000 0 ∧ (readExist (sparse false) placeCtx 0x8000 false).1 = .absent 0 ∧
    (poolReturn (sparse true) placeCtx 0 0x50).1 = true ∧ tileHeld (sparse true) (lineKey 0 0x8000) 0x8000 = false ∧
    (match (xlate one placeCtx 0x10000 .read).1, (xlate one placeCtx 0x10000 .write).1 with
      | .ok l _, .ok m _ => !leafSparse l && !leafSparse m
      | _, _ => false) = true := by decide +kernel

/-- A tenant that holds the first four cores, and its state. -/
def ten0 : Tenant := ⟨0, ⟨List.range 16, 32, 0xFFFF, 0, 10, 1, 0, 0, false⟩, 0, none, none, 0, none, 0, [], Vector.replicate 8 8⟩
def withTen (s : State) : State := { s with tenants := [ten0] }
/-- A launch record of one group, and a graph header with that one node. -/
def launchWords : List W32 :=
  [1#32 <<< 24, 1, (1#32 <<< 28) ||| (1#32 <<< 19), 128#32 <<< 22, 8#32 <<< 26, 0, 0x10000, 0, 0x10000, 0, 0, 0, 0, 0, 0, 0] ++ List.replicate 16 0
def graphWords : List W32 := [2#32 <<< 24, 1, 0, 0, 0x20080, 0, 0x20100] ++ List.replicate 25 0
def launchS (ws : List W32) : State :=
  withTen { withG (sg [(1, 0x20000)]) with lines := (List.range ws.length).map fun k => lineAt k (ws.getD k 0) }
/-- The words that LAUNCH reads. -/
def readWs (ws : List W32) : Option (List W32 × State) :=
  okSt (readWordsAt (launchS ws) me (scalarDbg (sg [(1, 0x20000)])) 0x10000 0x20000 32)
theorem wit_Launches : (launchS launchWords).group? 0 = some (sg [(1, 0x20000)]) ∧ ((sg [(1, 0x20000)]).sreg 1).toNat % 128 = 0 ∧
    (sg [(1, 0x20000)]).laneIdle = true ∧ visibleAt (launchS launchWords) 0 .device = true ∧
    (readWs launchWords).any (fun p => launchCode p.2 0 p.1 1 == 0 && (p.2.contexts[0]?).isSome) = true ∧
    (readWs (launchWords.set 1 0)).any (fun p => launchCode p.2 0 p.1 1 == 2) = true ∧
    (readWs (graphWords ++ launchWords)).any (fun p => (submitGraph none p.2 0 0x20000 p.1).1 == 0) = true := ⟨rfl, by decide +kernel⟩

/-- A state whose launch has items, with an open or closed queue on core 0. -/
def itemS (G : Group) (q : ItemQueue) : State :=
  { withT G (fun t => { t with queues := [q] }) with launches := one.launches.map fun l => { l with rcd := { l.rcd with items := 8 } } }
def q0 (c : Bool) : ItemQueue := ⟨0, [(0, 8)], c⟩
def putG : Group := sg [(1, 0xFFFFFFFF), (2, 1), (3, 2), (4, 1#64 <<< 32)]
theorem wit_ItemQueueInstructions : ScalarTurn (itemS putG (q0 false)) putG ∧ hasItems (itemS putG (q0 false)) putG = true ∧
    (∃ t, (itemS putG (q0 false)).teamOf putG = some t ∧ itemQueue t 0 = some (q0 false)) ∧ (putG.sreg 1).toNat + (putG.sreg 2).toNat ≤ 2 ^ 32 ∧
    2 ^ 32 < (putG.sreg 1).toNat + (putG.sreg 3).toNat ∧ 2 ^ 32 ≤ (putG.sreg 4).toNat ∧ (q0 false).ranges.length < 16 :=
  ⟨⟨rfl, by decide +kernel⟩, by decide +kernel, ⟨_, rfl, by decide +kernel⟩, by decide +kernel⟩
/-- A meeting that group 0 is in. -/
def meet0 (admitting : Bool) (members : List MMember) : Meet := ⟨0, false, 0, 0x10000, 0x10054, admitting, false, members, [], none⟩
theorem wit_ExitEndsTheGroup : one.group? one.cur = some G0 ∧ (one.teamOf G0).isSome = true ∧ meetOf one 0 = none ∧
    (meetOf { one with meets := [meet0 false [⟨0, 1, 1, false⟩]] } 0).isSome = true := ⟨rfl, by decide +kernel⟩

theorem wit_SystemRegisterRead : ScalarTurn (withTen one) G0 ∧ ((withTen one).ctxOf G0) = some placeCtx ∧ tenantOf (withTen one) 0 = some ten0 ∧
    (systemValue (withTen one) G0 placeCtx ten0 0x51).isSome = true ∧ mayRead G0 placeCtx 0x51 ∧ mayRead G0 placeCtx 0x15 ∧ G0.laneIdle = true :=
  ⟨⟨rfl, by decide +kernel⟩, rfl, by decide +kernel, by decide +kernel, ⟨by decide, fun _ => rfl⟩, ⟨by decide, fun _ => rfl⟩, by decide +kernel⟩
/-- A group in its handler with cause c current, that set nothing aside but an idle lane stream. -/
def inH (G : Group) (c : Cause) (cause : W64) : Group :=
  { G with trap := { G.trap with cause := cause, cur := c, hmode := true, epcs := 0x10010, epcl := 1#64 <<< 63
                                 aside := some ⟨none, 0x10000, 0xFFFFFFFF, [], [], 0, .none, none, none, 0x10000⟩ } }
theorem wit_SystemRegisterWrite : ScalarTurn (withG (inH (sg [(1, 63), (2, 64), (3, 3)]) 0 1)) (inH (sg [(1, 63), (2, 64), (3, 3)]) 0 1) ∧
    (withG (inH (sg [(1, 63), (2, 64), (3, 3)]) 0 1)).ctxOf (inH (sg [(1, 63), (2, 64), (3, 3)]) 0 1) = some placeCtx ∧
    (inH (sg [(1, 63), (2, 64), (3, 3)]) 0 1).trap.hmode = true ∧ placeCtx.priv = true ∧ (inH (sg [(1, 63), (2, 64), (3, 3)]) 0 1).laneIdle = true ∧
    ((inH (sg [(1, 63), (2, 64), (3, 3)]) 0 1).sreg 1).toNat ≤ 63 ∧ 63 < ((inH (sg [(1, 63), (2, 64), (3, 3)]) 0 1).sreg 2).toNat ∧
    ((inH (sg [(1, 63), (2, 64), (3, 3)]) 0 1).sreg 3).extractLsb' 0 2 = 3#2 := ⟨turn _ (by decide +kernel), rfl, by decide +kernel⟩
/-- A state whose context has no privilege. -/
def userS : State := withC one fun c => { c with priv := false }
theorem wit_SystemRegisterTraps : userS.group? userS.cur = some G0 ∧ userS.ctxOf G0 = some { placeCtx with priv := false } ∧ 0x1FFF ∉ selectors ∧
    0x10 ∈ selectors ∧ ¬ mayRead G0 { placeCtx with priv := false } 0x10 ∧ ¬ mayWrite G0 { placeCtx with priv := false } 0x31 :=
  ⟨rfl, rfl, by decide, by decide, fun h => absurd (h.1 (by decide)) (by decide +kernel), fun h => absurd (h.2 (by decide)) (by decide +kernel)⟩
theorem wit_BreakpointsAndUnassignedWordsTrap : one.group? one.cur = some G0 ∧ one.curLane = false ∧ oneL.group? oneL.cur = some L0 ∧
    oneL.curLane = true ∧ L0.lane.run.isSome = true := ⟨rfl, rfl, rfl, rfl, rfl⟩
theorem wit_ReturnFromTrap : (withG (inH G0 1 6)).group? 0 = some (inH G0 1 6) ∧ (inH G0 1 6).trap.hmode = true ∧ (inH G0 1 6).laneIdle = true ∧
    (inH G0 1 6).trap.aside.isSome = true ∧ ((withG (inH G0 1 6)).ctxOf (inH G0 1 6)).isSome = true ∧
    ((inH G0 1 6).trap.cause &&& ~~~(1#64 <<< (inH G0 1 6).trap.cur)).setWidth 21 ≠ 0 ∧
    ((inH G0 1 2).trap.cause &&& ~~~(1#64 <<< (inH G0 1 2).trap.cur)).setWidth 21 = 0 := ⟨rfl, by decide +kernel⟩
/-- A group with v1 mapped. -/
def mapped1 (G : Group) : Group :=
  { G with vec := { G.vec with vregs := G.vec.vregs.set 1 { VReg.none with st := .mapped } } }
theorem wit_InjectFlipsBits : one.ctxOf G0 = some placeCtx ∧ placeCtx.priv = true ∧ G0.laneIdle = true ∧ G0.sreg 2 = 0 ∧
    (G0.vreg 1).st = .unmapped ∧ ((mapped1 G0).vreg 1).st ≠ .unmapped ∧ (match ensureRows (withG (mapped1 G0)) 0 [1] [] false with
      | .ok _ => true
      | _ => false) = true ∧
    (match (locateMapped one me 0x10000 .write).1 with
      | .ok (.mem _ _ _ _) => true
      | _ => false) = true := ⟨rfl, by decide +kernel⟩
theorem wit_PrivilegedInstructionsTrap : G0.trap.hmode = false ∧ userS.ctxOf G0 = some { placeCtx with priv := false } := by decide +kernel
theorem wit_TrapRetiresThenTraps : (hb one).ctxOf G0 = some { placeCtx with hbaseEn := true, hbase := 0x8000 } ∧ (inH G0 1 2).trap.hmode = true := by
  decide +kernel
theorem wit_HaltAndYield : ScalarTurn one G0 ∧ one.ctxOf G0 = some placeCtx := ⟨turn _ (by decide +kernel), rfl⟩


/-! ### Lane instructions -/

/-- What a lane instruction works on, where it is ready, whether or not it touches a pinned register. -/
def onX (s : State) (i : Instr) (handler : Bool) : Option LaneIn :=
  if i.wf = false then none else match laneParts i with
  | none => none
  | some (op, f) => match laneRow (op % 512), s.group? s.cur with
    | some row, some G => match G.lane.run, whoLane s s.cur G with
      | some run, some w =>
        if fetchWatched (G.laneBegin f) G.lane.lpc then none
        else match laneCheck (s.setGroup s.cur (G.laneBegin f)) s.cur (G.laneBegin f) run (op % 512) f handler with
          | some _ => none
          | none => match ensureRows (s.setGroup s.cur (G.laneBegin f)) s.cur
              (rowReads (s.setGroup s.cur (G.laneBegin f)) s.cur G.lane.lpc row f) (destRegs row f)
              (activeMask (G.laneBegin f) f.pred != 0xFFFFFFFF#32 || op % 512 == 0x084) with
            | .ok s1 => (s1.group? s.cur).bind fun G1 =>
                some (laneIn s1 s.cur G1 w run row f)
            | _ => none
      | _, _ => none
    | _, _ => none

theorem on_of {s : State} {i : Instr} {hd : Bool} {x : LaneIn} (h : onX s i hd = some x) : LaneOn s i hd x := by
  unfold onX at h
  split at h
  · cases h
  next wf =>
  split at h
  · cases h
  · next op f hp =>
    split at h
    · next row G hr hg =>
      split at h
      · next run w hrun hw =>
        split at h
        · cases h
        · next hf =>
          split at h
          · cases h
          · next hc =>
            split at h
            · next s1 he =>
              cases hG : s1.group? s.cur with
              | none => rw [hG] at h; cases h
              | some G1 =>
                rw [hG] at h
                injection h with h
                refine ⟨by simpa using wf, ⟨op, f, row, G, run, w, s1, G1, hp, hr, hg, hrun, hw, ?_, hc, he, hG, ?_⟩⟩
                · simpa using hf
                · exact h.symm
            · cases h
      · cases h
    · cases h

def readyX (s : State) (i : Instr) (handler : Bool) : Option LaneIn := (onX s i handler).filter fun x => !x.clash

theorem ready_of {s : State} {i : Instr} {hd : Bool} {x : LaneIn} (h : readyX s i hd = some x) : LaneReady s i hd x := by
  obtain ⟨h, c⟩ := Option.filter_eq_some_iff.1 h
  exact ⟨on_of h, by simpa using c⟩

theorem on_any {s : State} {i : Instr} {hd : Bool} {p : LaneIn → Bool} (h : (onX s i hd).any p = true) : ∃ x, LaneOn s i hd x ∧ p x = true := by
  cases hx : onX s i hd with
  | none => rw [hx] at h; cases h
  | some x => rw [hx] at h; exact ⟨x, on_of hx, h⟩

theorem ready_any {s : State} {i : Instr} {hd : Bool} {p : LaneIn → Bool} (h : (readyX s i hd).any p = true) :
    ∃ x, LaneReady s i hd x ∧ p x = true := by
  cases hx : readyX s i hd with
  | none => rw [hx] at h; cases h
  | some x => rw [hx] at h; exact ⟨x, ready_of hx, h⟩

/-- A state in which a lane instruction stands, with the group as given. -/
def withGL (G : Group) : State := { oneL with groups := [G] }
/-- A group in a lane run with mask registers. -/
def kG (k : Vector Mask 7) : Group := { L0 with vec := { L0.vec with kregs := k } }

theorem wit_LaneIntegerResult : ∃ x, LaneReady oneL (.iadd (form .i32 (.v 1) lane (csrc 47) .unused)) false x ∧
    (decide (∀ l, (laneIntValue (.iadd (form .i32 (.v 1) lane (csrc 47) .unused)) x l).isSome) && (x.act == 0xFFFFFFFF#32)) = true :=
  ready_any (by decide +kernel)
/-- A group whose v1 an operation of the matrix unit in flight pins. -/
def pinG : Group :=
  { L0 with eng := { L0.eng with tokCtr := 1, mops := [⟨0, 0, .had .f32 0 1 16, .flight, [1], [], [], [], false, false, ⟨0, 0x100, 2⟩⟩] } }
theorem wit_PinnedRegisters : ∃ x, LaneOn (withGL pinG) (.iadd (form .i32 (.v 1) lane (csrc 47) .unused)) false x ∧
    (x.clash && decide (∀ l, (laneIntValue (.iadd (form .i32 (.v 1) lane (csrc 47) .unused)) x l).isSome)) = true := on_any (by decide +kernel)
theorem wit_LaneCompareResult : ∃ x, LaneReady oneL (.icmp ⟨.i32, .k 1, .always, 5, lane, csrc 16, .unused⟩) false x ∧
    decide (x.f = ⟨.i32, .k 1, .always, 5, lane, csrc 16, .unused⟩) = true := ready_any (by decide +kernel)
theorem wit_LaneFloatResult : ∃ x, LaneReady oneL (.fmul (form .f32 (.v 1) (csrc 33) (csrc 34) .unused)) false x ∧
    (decide (∀ l, (laneFloatValue (.fmul (form .f32 (.v 1) (csrc 33) (csrc 34) .unused)) x l).isSome) && (x.G.sc.fpctl == 0)) = true :=
  ready_any (by decide +kernel)
/-- The inexact 1 / 3 in every lane, with every trap enabled. -/
def nxG : Group :=
  { L0 with
    sc := { L0.sc with fpctl := 0xF }
    vec := { L0.vec with vregs := L0.vec.vregs.set 2 { VReg.none with st := .mapped, val := splat 0x40400000, undef := 0 } } }
theorem wit_float_trap : ∃ x, LaneReady (withGL nxG) (.frcp (form .f32 (.v 1) (vsrc 2) .unused .unused)) false x ∧
    ((laneFloatValue (.frcp (form .f32 (.v 1) (vsrc 2) .unused .unused)) x 0).any fun r => (r.2.fl &&& x.G.sc.fpctl) != 0) = true :=
  ready_any (by decide +kernel)
theorem wit_LaneFloatCompareResult : ∃ x, LaneReady oneL (.fcmp ⟨.f32, .k 1, .always, 2, csrc 33, csrc 34, .unused⟩) false x ∧
    ((fcmpOne .f32 2 x.a[0] x.b[0]).2 &&& x.G.sc.fpctl == 0) = true := ready_any (by decide +kernel)
theorem wit_MaskInstructions : (∃ x, LaneReady oneL (.kand (form .i32 (.k 1) (msrc 2) (msrc 7) .unused)) false x ∧
      decide (x.f.dest = .k 1) = true) ∧
    (∃ x, LaneReady oneL (.movem (form .i32 .em (msrc 7) .unused .unused)) false x ∧ decide (x.f.dest = .em) = true) ∧
    (∃ x, LaneReady oneL (.elect (form .i32 (.k 6) .unused .unused .unused)) false x ∧ decide (x.f.dest = .k 6) = true) :=
  ⟨ready_any (by decide +kernel), ready_any (by decide +kernel), ready_any (by decide +kernel)⟩
def vpL (n : Nat) : Group := { L0 with lane := { L0.lane with vp := List.replicate n 0 } }
theorem wit_VoteAppendsToThePort : (∃ x, LaneReady (withGL (vpL 3)) (.voteBallot (form .i32 .none lane .unused .unused)) false x ∧
      decide (x.G.lane.vp.length < 4) = true) ∧
    (∃ x, LaneReady (withGL (vpL 4)) (.voteBallot (form .i32 .none lane .unused .unused)) false x ∧ decide (4 ≤ x.G.lane.vp.length) = true) :=
  ⟨ready_any (by decide +kernel), ready_any (by decide +kernel)⟩
/-- A conditional branch, and stacks. -/
def brlF : LForm := ⟨.i32, .none, .on 1 false, 0, .unused, .unused, isrc 7⟩
def ent (k : StackKind) (p : Mask) : StackEntry := ⟨k, 1, 0, false, p, 0xFFFFFFFF⟩
def stkG (l : List StackEntry) : Group := { kG (Vector.replicate 7 3) with lane := { L0.lane with stack := l } }
theorem wit_LaneBranchSplitsLanes : (∃ x, LaneReady (withGL (stkG [])) (.brl brlF) false x ∧
      (brlFlow x.G true x.act (laneOff x.G x.pc) (targetOf x.f)).isSome = true) ∧
    (∃ x, LaneReady (withGL (stkG (List.replicate 32 (ent .item 0)))) (.brl brlF) false x ∧
      (brlFlow x.G true x.act (laneOff x.G x.pc) (targetOf x.f)).isNone = true) ∧
    (∃ x, LaneReady (withGL (stkG [ent .compaction 0])) (.brc brlF) false x ∧ x.G.hasCompaction = true) :=
  ⟨ready_any (by decide +kernel), ready_any (by decide +kernel), ready_any (by decide +kernel)⟩
theorem wit_JoinAndStop : (∃ x, LaneReady (withGL (stkG [ent .branch 3])) .join false x ∧ decide (x.G.lane.stack = [ent .branch 3]) = true) ∧
    (∃ x, LaneReady (withGL (stkG [ent .branch 0])) .join false x ∧ decide (x.G.lane.stack = [ent .branch 0]) = true) ∧
    (∃ x, LaneReady (withGL (stkG [ent .item 3])) .join false x ∧ decide (x.G.lane.stack = [ent .item 3]) = true) ∧
    (∃ x, LaneReady (withGL (stkG [])) .stop false x ∧ decide (x.G.hasCompaction = false) = true) ∧
    (∃ x, LaneReady (withGL (stkG [ent .compaction 3])) .stop false x ∧ x.G.hasCompaction = true) :=
  ⟨ready_any (by decide +kernel), ready_any (by decide +kernel), ready_any (by decide +kernel), ready_any (by decide +kernel),
    ready_any (by decide +kernel)⟩
/-- A second group that has opened a meeting at the same BRC. -/
def twoS (m : List Meet) (G H : Group) : State := { oneL with groups := [G, H], meets := m }
def brcF : LForm := ⟨.i32, .none, .on 1 false, 0, .unused, .unused, isrc 7⟩
theorem wit_BrcOpensOrJoinsMeetings : (∃ x, LaneReady (withGL (stkG [])) (.brc brcF) false x ∧
      ((openMeet x.s x.G x.pc).isNone && ([false, true].any fun b => !(slotsUsed x.s x.G.loc.quadId).contains b) && !x.G.trap.hmode && !x.G.hasCompaction) = true) ∧
    (∃ x, LaneReady (twoS [meet0 true [⟨1, 3, 3, false⟩]] (stkG []) (stkG [])) (.brc brcF) false x ∧
      ((openMeet x.s x.G x.pc).any fun n => n == 0 && (x.s.meets[0]?).any fun m =>
        ((m.members.filter fun b => b.group != x.g).head?).any fun b => (x.s.group? b.group).any fun H => sameSnap x.G H) = true) :=
  ⟨ready_any (by decide +kernel), ready_any (by decide +kernel)⟩
theorem wit_JoinClosesMeetings : (∃ x, LaneReady (twoS [{ meet0 false [⟨0, 3, 3, false⟩, ⟨1, 3, 3, false⟩] with closeAt := some 8 }] (stkG [ent .compaction 0])
      (stkG [])) .join false x ∧ ((meetOf x.s x.g).any fun p => p.2.closeAt.any fun a => a != x.pc) = true) ∧
    (∃ x, LaneReady (twoS [meet0 false [⟨0, 3, 3, false⟩, ⟨1, 3, 3, false⟩]] (stkG [ent .compaction 0]) (stkG [])) .join false x ∧
      ((meetOf x.s x.g).any fun p => p.2.closeAt.isNone && p.2.members.any fun b => b.group != x.g && !b.parked) = true) ∧
    (∃ x, LaneReady (twoS [meet0 false [⟨0, 3, 3, false⟩, ⟨1, 3, 3, true⟩]] (stkG [ent .compaction 0]) (stkG [])) .join false x ∧
      ((meetOf x.s x.g).any fun p => p.2.members.all fun b => b.group == x.g || b.parked) = true) :=
  ⟨ready_any (by decide +kernel), ready_any (by decide +kernel), ready_any (by decide +kernel)⟩
/-- ITEM with target 10, on a team with a queue of two items, or a closed empty one. -/
def itemF : LForm := form .i32 (.v 0) .unused .unused (isrc 10)
def itemL (G : Group) (q : ItemQueue) : State := { itemS G q with curLane := true }
theorem wit_ItemRefillsLanes : (∃ x, LaneReady (itemL (stkG []) ⟨0, [(5, 2)], false⟩) (.item itemF) false x ∧
      (hasItems x.s x.G && !x.G.trap.hmode && x.G.lane.stack.isEmpty && (giveItems ⟨0, [(5, 2)], false⟩ (lanesOf x.act)).2.length == 2) = true) ∧
    (∃ x, LaneReady (itemL (stkG []) ⟨0, [], true⟩) (.item itemF) false x ∧ (x.s.teamOf x.G).any (fun t => decide (itemQueue t 0 = some ⟨0, [], true⟩)) = true) ∧
    (∃ x, LaneReady { withT (stkG []) (fun t => { t with queues := [⟨0, [], true⟩] }) with curLane := true } (.item itemF) false x ∧
      (!hasItems x.s x.G) = true) := ⟨ready_any (by decide +kernel), ready_any (by decide +kernel), ready_any (by decide +kernel)⟩
theorem wit_ItemsAreGivenInOrder : ((⟨0, [(0xFFFFFFFF, 1), (4, 2)], false⟩ : ItemQueue).ranges.all fun r => r.2 != 0 && (r.1.toNat + r.2.toNat).ble 0x100000000) = true ∧
    giveItems ⟨0, [(0xFFFFFFFF, 1), (4, 2)], false⟩ [3, 7] = (⟨0, [(5, 1)], false⟩, [(3, 0xFFFFFFFF), (7, 4)]) := by decide +kernel
theorem wit_LaneRetirement : ∃ x, LaneReady oneL (.iadd (form .i32 (.v 1) lane ⟨.v 3, true, .none, .none⟩ .unused)) false x ∧
    ((x.s.group? x.g).isSome && !x.clash && x.G.dbg.stepm != 2#2 && decide (3 ∈ markedRegs x.row x.f) && decide (destRegs x.row x.f = [1])) = true :=
  ready_any (by decide +kernel)


/-! ### Lane memory, scratchpad, atomics, cross-lane instructions, calls, repairs -/

/-- A group in a run whose snapshot names 0x20000 as s1, 2^56 as s2 and an odd address as s3, over cached words. -/
def runG : Group :=
  { L0 with lane := { L0.lane with run := some ⟨0x10000, 1, #v[0x20000, 1#64 <<< 56, 0x20002, 0]⟩ } }
def cachedL : State := { withGL runG with lines := [lineAt 0 5, lineAt 1 6] }
def ldF (s : SReg) (off : W32) : LForm := form .x32 (.v 4) (ssrc s) (isrc off) .unused
/-- The same word on a sparse page, its tile present. -/
def sparseL : State := { sparse true with groups := [runG], curLane := true, lines := [{ lineAt 0 5 with ex := some 0x8000 }] }
theorem wit_LaneLoads : (∃ x, LaneReady cachedL (.ldwImm (ldF 1 4)) false x ∧
      ((okSt (loadLanes x.s x.w x.dbg x.pc 4 false (x.fetching.map fun l => ⟨l, laneEa x l, 4⟩))).any fun p => p.1.1.length == 32) = true) ∧
    (∃ x, LaneReady cachedL (.lddImm (ldF 1 0)) false x ∧
      ((okSt (loadRead x.s x.w x.dbg x.pc 8 false [] (x.lanes.filterMap x.pairAcc))).any fun p => p.1.1.fails.isEmpty) = true) ∧
    (∃ x, LaneReady sparseL (.ldxImm (ldF 1 0)) false x ∧ ((okSt (loadRead x.s x.w x.dbg x.pc 4 true (x.given.map (·.1)) (x.lanes.map fun l =>
      ⟨l, laneEa x l, 4⟩))).any fun p => p.1.1.fails.isEmpty) = true) :=
  ⟨ready_any (by decide +kernel), ready_any (by decide +kernel), ready_any (by decide +kernel)⟩
/-- The same with four lanes in EM. -/
def prefL : State := { cachedL with groups := [{ runG with lane := { runG.lane with em := 0xF } }] }
theorem wit_LaneStoresAndPrefetch : (∃ x, LaneReady cachedL (.stw (form .x32 .none (ssrc 1) (csrc 0) (csrc 7))) false x ∧
      (okSt (storeLanes x.s x.w x.dbg x.pc 4 (x.lanes.map fun l => ⟨l, laneEa x l, x.c.toList.getD l 0⟩))).isSome = true) ∧
    (∃ x, LaneReady prefL (.prefImm ⟨.i32, .none, .always, 1, ssrc 2, isrc 0, .unused⟩) false x ∧
      (x.s.synd.isEmpty && x.s.tenants.isEmpty && decide (x.s.shUse.length + x.lanes.length ≤ 16)) = true) :=
  ⟨ready_any (by decide +kernel), ready_any (by decide +kernel)⟩
theorem wit_pref_ways (s : State) (h : s.tenants = []) (t : Nat) : waysOf s t = 16 := by simp [waysOf, h]
theorem wit_pref_no_bad_word (s : State) (h : s.synd = []) : ∀ pa, wordFate (wordSyn s pa) ≠ .bad := by
  intro pa
  simp [wordSyn, h, memGet, wordFate]
theorem wit_LaneScratchpadAccess : (∃ x, LaneReady cachedL (.ldpImm (form .x32 (.v 4) (ssrc 4) (isrc 12284) .unused)) false x ∧
      (x.lanes.all fun l => (spadCheck x.s x.G.bind.team x.G.loc.coreId ((x.a.toList.getD l 0 + x.b.toList.getD l 0).setWidth 32) 4 4).toOption.isSome &&
        !underHad x.s [(12284, 12288)]) = true) ∧
    (∃ x, LaneReady cachedL (.stp (form .x32 .none (ssrc 4) (csrc 7) .unused)) false x ∧
      (x.lanes.all fun l => (spadCheck x.s x.G.bind.team x.G.loc.coreId ((x.a.toList.getD l 0).setWidth 32) 4 4).toOption.isSome &&
        !underHad x.s [(0, 4)]) = true) :=
  ⟨ready_any (by decide +kernel), ready_any (by decide +kernel)⟩
theorem wit_LaneAccessTraps : (∃ x, LaneReady cachedL (.ldwImm (ldF 2 0)) false x ∧ ((accessParts (.ldwImm (ldF 2 0)) x).any fun p =>
      p.any fun a => decide (2 ^ 56 ≤ a.va)) = true) ∧
    (∃ x, LaneReady cachedL (.ldwImm (ldF 3 0)) false x ∧ ((accessParts (.ldwImm (ldF 3 0)) x).any fun p =>
      p.all (fun a => decide (a.va < 2 ^ 56)) && p.any fun a => a.va % a.size != 0) = true) :=
  ⟨ready_any (by decide +kernel), ready_any (by decide +kernel)⟩
def atF : LForm := ⟨.i32, .v 4, .always, 3, ssrc 1, csrc 0, csrc 7⟩
theorem wit_LaneAtomicsAndEscrow : (∃ x, LaneReady cachedL (.atomAdd atF) false x ∧ ((accessParts (.atomAdd atF) x).any fun p =>
      (okSt (atomLanes x.s x.w x.dbg x.pc .device (p.map fun a => ⟨a.lane, a.va, ⟨fun o => o + 7, 0, 7, 0, false⟩⟩))).isSome) = true) ∧
    (∃ x, LaneReady cachedL (.eopAdd { atF with dest := .none, var := 0 }) false x ∧ ((accessParts (.eopAdd { atF with dest := .none, var := 0 }) x).any fun p =>
      (okSt (escrowLanes x.s x.w x.dbg x.pc .addI (p.map fun a => ⟨a.lane, a.va, ⟨id, 0, 7, 0, false⟩⟩))).isSome) = true) :=
  ⟨ready_any (by decide +kernel), ready_any (by decide +kernel)⟩
theorem wit_SegmentInstructions : (∃ x, LaneReady oneL (.segredAdd (form .i32 (.v 5) lane .unused (rsrc 5))) false x ∧
      decide (x.f.c.src = .raw (BitVec.ofNat 9 5)) = true) ∧
    (∃ x, LaneReady oneL (.scankIncl (form .i32 (.v 6) (msrc 7) .unused (rsrc 1))) false x ∧ decide (x.f.c.src = .raw (BitVec.ofNat 9 1)) = true) :=
  ⟨ready_any (by decide +kernel), ready_any (by decide +kernel)⟩
theorem wit_IntersectionInstruction : ∃ x, LaneReady oneL (.isect (form .n32 (.v 10) lane lane .unused)) false x ∧
    decide (x.G.lane.vp.length < 4) = true := ready_any (by decide +kernel)
/-- A call of function 1 on a state whose context has no open call, or has one that the group waits for. -/
def callF : LForm := form .i32 (.v 5) (vsrc 4) .unused .unused
def callS (r : List CallRec) (w : Option (W64 × Nat)) : State :=
  withC (withGL { L0 with
    wait := { L0.wait with call := w }
    vec := { L0.vec with vregs := L0.vec.vregs.set 4 { VReg.none with st := .mapped, val := splat 0x01000000, undef := 0 } } }) fun c => { c with calls := r }
def callR (answered : Bool) : CallRec := ⟨3, 0, 0xFFFFFFFF, splat 0x01000000, 0, 0, 0, splat 7, answered, false, false⟩
theorem wit_CallsPostAndReturn : (∃ x, LaneReady (callS [] none) (.callv callF) false x ∧ (x.act != 0 && (x.s.ctxOf x.G).any fun c =>
      (waitingCall x.G c x.pc).isNone && (freeCall c).isSome && visibleAt x.s x.g .domain && decide (callFn ((x.a.toList.getD 0 0).setWidth 32) < 0x22)) = true) ∧
    (∃ x, LaneReady (callS [callR false] (some (0x10000, 3))) (.callv callF) false x ∧ ((x.s.ctxOf x.G).any fun c =>
      (waitingCall x.G c x.pc).any fun r => !r.answered && !r.timeout) = true) ∧
    (∃ x, LaneReady (callS [callR true] (some (0x10000, 3))) (.callv callF) false x ∧ ((x.s.ctxOf x.G).any fun c =>
      (waitingCall x.G c x.pc).any fun r => r.answered) = true) :=
  ⟨ready_any (by decide +kernel), ready_any (by decide +kernel), ready_any (by decide +kernel)⟩
/-- A group in its handler with a run of the lane stream, its current cause UE of a load in lanes 0 and 1. -/
def ueG : Group :=
  let G := inH runG cUE 0x20
  { G with trap := { G.trap with recs := G.trap.recs.setIfInBounds cUE (some ⟨3#64 <<< 32, 0, 0, 0, 0, splat 0⟩) } }
theorem wit_ReplaceSuppliesOrStores : (∃ x, LaneReady { cachedL with groups := [ueG] } (.replaceSupply (form .x32 .none (ssrc 0) (vsrc 7) .unused)) true x ∧
      ((x.G.trap.recs.toList.getD x.G.trap.cur none).any fun r => r.aux0 == 0 && r.info.getLsbD 32) = true) ∧
    (∃ x, LaneReady { cachedL with groups := [ueG] } (.replaceStore (form .x32 .none (ssrc 1) (vsrc 7) .unused)) true x ∧
      (okSt (storeLanes x.s x.w x.dbg x.pc 4 (x.lanes.map fun l => ⟨l, (x.a.toList.getD l 0).toNat, x.b.toList.getD l 0⟩))).isSome = true) :=
  ⟨ready_any (by decide +kernel), ready_any (by decide +kernel)⟩


/-! ### The part's own steps on streams, stores, engines and calls -/

/-- The part is ready, with its fabric numbers and one tenant. -/
def rdy : State := { withTen one with
  power := { one.power with st := .ready }, fab := { one.fab with pid := 7, manager := 9, hosts := [1025] } }
def stalled : Group := { G0 with lane := { G0.lane with stall := .item } }
theorem wit_StreamsGoOn : ((dqG 1).running && (dqG 1).lane.run.isNone && !(dqG 1).lane.dq.isEmpty) = true ∧
    (stalled.running && stalled.lane.stall == .item && match (itemS stalled (q0 false)).teamOf stalled with
      | some t => (itemQueue t stalled.loc.coreId).any fun q => q.closed || !q.ranges.isEmpty
      | none => false) = true ∧
    ({ G0 with wait := { G0.wait with paused := true } } : Group).wait.paused = true := by decide +kernel
theorem wit_AdmissionCloses : ∃ m, (twoS [meet0 true [⟨0, 3, 3, false⟩, ⟨1, 3, 3, false⟩]] L0 L0).meets[0]? = some m ∧ m.admitting = true ∧
    m.closed = false ∧ anyHalted (twoS [meet0 true []] L0 L0) (m.members.map (·.group)) = false := ⟨_, rfl, by decide +kernel⟩
def queueG (G : Group) : Group := { G with queueDue := [0x100] }
theorem wit_QueueIsTaken : (queueG G0).running = true ∧ (queueG G0).queueDue ≠ [] ∧ (queueG (inH G0 1 6)).running = true ∧
    (queueG (inH G0 1 6)).trap.hmode = true ∧ ((hb one).ctxOf (queueG G0)).any (·.hbaseEn) = true ∧
    (one.ctxOf (queueG G0)).any (fun c => !c.hbaseEn) = true := by decide +kernel
def storeS (k : Nat) : State := { one with sq := [pw k] }
theorem wit_StoresArePerformed : (∀ k, k < 3 → (writesOf (storeS k) 0)[0]? = some 0 ∧ (storeS k).sq[0]? = some (pw k) ∧
      mayPerform (storeS k) 0 (pw k) = true) ∧ findLine (storeS 1) (pw 1).key = none ∧ (pw 1).en = 0xF#4 ∧
    ((findLine { storeS 1 with lines := [⟨lineKey 0 0x5000, .clean 5 [1], some 0x30000, none, ⟨true, true, false⟩, none⟩] } (pw 1).key).any fun l =>
      l.st == .clean 5 [1]) = true := by decide +kernel
theorem wit_HaltedGroupsResume : one.ctxOf G0 = some placeCtx ∧ ({ G0 with status := .stopped } : Group).status = .stopped ∧
    ({ G0 with status := .trapped 3 } : Group).status = .trapped 3 ∧ ((hb one).ctxOf G0).any (·.hbaseEn) = true := by decide +kernel
theorem wit_RecordsLeaveTheCache : ∃ e ∈ ({ one with rcache := [⟨0, 0, 0x20000, []⟩] } : State).rcache, e.cluster = 0 ∧ e.tag = 0 ∧
    e.addr = 0x20000 := ⟨_, .head _, rfl, rfl, rfl⟩
def gathOf : Cmd := { cmdOf 0 false none with kind := .gath 0 64 4 }
theorem wit_EngineCommandsRun : cmdsRun one G0 = true ∧ (cmdOf 0 false none).kind.isCopy = true ∧ (cmdOf 0 false none).ended = false ∧
    startable { one with cmds := List.replicate 8 (cmdOf 0 false none) } 7 (cmdOf 0 false none) = true ∧ gathOf.kind.isCopy = false ∧
    startable { one with cmds := List.replicate 4 gathOf } 3 gathOf = true := by decide +kernel
/-- A group with an MMQ of .b16 that is its next operation: with C at v120 and checks at v112, alone or in a quad meeting. -/
def mmqOp (meet : Option Nat) : MOp :=
  ⟨0, 0, .mmq .b16 true false ((112 <<< 24) ||| (if meet.isSome then 96 else 120)) 0 meet, .flight, [], [], [], [], false, false, ⟨0, 0, 0⟩⟩
def mmqRun (meet : Option Nat) : Group := { G0 with eng := { G0.eng with tokCtr := 1, mops := [mmqOp meet] } }
def mmqQuad : State := { one with groups := List.replicate 4 (mmqRun (some 0))
                                  qmeets := [⟨0, 0, .b16, true, false, false, [(1, 1, 0), (0, 0, 0), (3, 3, 0), (2, 2, 0)], true, false⟩] }
theorem wit_MatrixOperationsComplete : ((partsOf (withG (mmqRun none)) 0 (mmqOp none)).any fun p => p.1.length == 1 &&
      decide ((p.1.map (·.g)).Nodup)) = true ∧ (mmqRun none).eng.mops.find? (fun o => o.st == .flight) = some (mmqOp none) ∧
    ((partsOf mmqQuad 0 (mmqOp (some 0))).any fun p => p.1.map (·.g) == [0, 1, 2, 3]) = true ∧ badScale mmqQuad (mmqRun (some 0)) .b16 0 = none ∧
    tileClosed mmqQuad (mmqRun (some 0)) .b16 0 = false ∧ isTurn mmqQuad 0 (mmqOp (some 0)) = true ∧ isTurn (withG (mmqRun none)) 0 (mmqOp none) = true ∧
    (mmqRun none).gone = false ∧ (mmqRun none).eng.flips = [] ∧ dCreg ((112 <<< 24) ||| 120) + 8 * 1 ≤ 128 ∧
    dKreg ((112 <<< 24) ||| 120) + 1 ≤ dCreg ((112 <<< 24) ||| 120) ∧ dCreg ((112 <<< 24) ||| 96) + 8 * 4 ≤ 128 := by decide +kernel
theorem wit_HadamardCompletes : ((opG .flight []).eng.mops.find? fun o => o.st == .flight).isSome = true ∧ cmdsRun one (opG .flight []) = true ∧
    ((opG .flight []).eng.mops.all fun m => isTurn (withG (opG .flight [])) 0 m) = true ∧
    (spadView (withG (opG .flight [])) 0 0 0 (1 * 16 * hadEsz .f32)).isSome = true := by decide +kernel
theorem wit_CollectivesEnd : (runningColl (collG none []) 0).isSome = true ∧
    (collS.ctxOf (collG none [])).any (fun c => decide (commOf c 0 = some comm2)) = true ∧
    (engWho collS (.coll 0 0) 0 0 0).isSome = true := by decide +kernel
def fwCall (q : W32) : CallRec := { callR false with mask := 1, req := splat q }
def callC (q : W32) : State := withC one fun c => { c with calls := [fwCall q] }
theorem wit_CallsAreServed : ((callC 0x01000000).contexts[0]?).any (fun c => (openCall c 3).isSome) = true ∧
    ((callC 0x200000FF).contexts[0]?).any (fun c => (openCall c 3).isSome) = true ∧ callFn 0x01000000 < 0x20 ∧ callFn 0x200000FF = 0x20 ∧ lanesOf (fwCall 0).mask = [0] ∧ splitStacks 0x200000FF = [0, 1, 2, 3] ∧
    callFn 0x21000000 = 0x21 ∧ (takeGiven (callC 0x21000000) []).isSome = true ∧
    (callLanes (refillLane 0 placeCtx) (fwCall 0x21000000) 0x21 ([], callC 0x21000000)).2.1 = [] := by decide +kernel

/-! ### Steps of the memory side -/

/-- A context whose page table maps the page of 0x20000 to the frame 0x500000, or maps nothing there; the frame 0x510000 is free. -/
def treeCtx : Context := { placeCtx with root := 0x400000 }
def tree (mapped : Bool) : State :=
  { withC one fun c => { c with root := 0x400000 } with
    dram := [(0x400000, 1), (0x400002, 0x41), (0x410000, 1), (0x410002, 0x42), (0x420000, 1), (0x420002, 0x43)] ++
      if mapped then [(0x430010, 0x1F), (0x430012, 0x50)] else []
    frames := one.frames.set 0 [0x510000] }
/-- What a translation of it answers: 0 for a leaf, or the subcode. -/
def xlateSub (s : State) : Nat := match (xlate s treeCtx 0x20000 .read).1 with
  | .ok _ _ => 0
  | .fault f => f.sub
theorem wit_MissesAreWalked : ctxByAsid (tree true) 0 = some 0 ∧ (tree true).contexts[0]? = some treeCtx ∧ (0x20000#64).toNat < 2 ^ 56 ∧
    xlateSub (tree true) = 0 ∧ xlateSub (tree false) = 1 ∧ treeCtx.nosvc = false ∧ (tree false).faults = [] :=
  ⟨by decide +kernel, rfl, by decide +kernel⟩
/-- A fault on that page, which a scalar access has met. -/
def faultOf (host : Bool) : OpenFault := ⟨0, 2, false, 1, [(.scalar 0, 1)], host, 0, false⟩
def faultS (host : Bool) (x : BitVec 7) : State := { (tree false) with
  faults := [faultOf host], contexts := [{ treeCtx with xlctl := x }] }
theorem wit_FaultsAreServed : openFault (faultS false 0x10) 0 = some (faultOf false) ∧ openFault (faultS true 0x10) 0 = some (faultOf true) ∧
    (serveFault (faultS false 0x10) 0 (faultOf false) 0x510097).isSome = true ∧ ({ treeCtx with xlctl := 0x10 } : Context).fsvc ≠ 1#2 ∧
    ({ treeCtx with xlctl := 0x14 } : Context).fsvc = 1#2 := by decide +kernel
theorem wit_PagesMigrate : ((leafPlace (tree true) treeCtx 0x20000).any fun p => p.1 == 0x430010 && p.2.1 == 0 && !leafPin p.2.2 && !leafSparse p.2.2 &&
      paStack 0x510000 == paStack (leafAddr p.2.2)) = true ∧ 0x510000 % leafBytes 0 = 0 ∧ pageFrames 0x510000 0 = [0x510000] ∧
    framesOf (tree true) 0 = [0x510000] ∧ wordExists (tree true) 0x510000 = true ∧ treeCtx.xlctl.getLsbD 4 = true ∧ (tree true).memOk = true := by decide +kernel
theorem wit_BlocksAreEvicted : ((cached G0).lines.any fun l => (lineKey 0 (32 * 0x400)).ble l.key && (l.key + 1).ble (lineKey 0 (32 * 0x400) + 32)) =
    true := by decide +kernel
/-- A read of word 0 that waits for its burst. -/
def req0 : WordReq := ⟨0, lineKey 0 0x5000, none, ⟨true, true, false⟩, none, false⟩
theorem wit_BurstsCheckAndScrub : pchOpen one 0 = true ∧ diesOf (patMask (.linear 1 0 0 0)) = [0] ∧ patMask (.linear 1 0 0 0) &&& refreshing one 0 = 0 ∧
    burstWord one 0 (.linear 1 0 0 0) 0 = some 0 ∧ (one.scrubs).isEmpty = true ∧ wordSyn one 0 = 0 ∧
    (({ one with scrubs := [(0, 7)] } : State).scrubs.find? fun q => wordPch one q.1 == 0) = some (0, 7) ∧ dieBusy one 0 = false ∧
    (wordValue one 0).isSome = true ∧ reqsAt { one with reqs := [req0] } 0 = [req0] ∧ (findLine one req0.key).isNone = true ∧
    ({ one with scrubs := [(0, 7)] } : State).memOk = true := by decide +kernel
def stkOf (cb : Bool) (n : Nat) (r : BitVec 16) : Stk := ⟨cb, Vector.replicate 16 n, r⟩
theorem wit_DiesRefresh : (stkOf true 7 0).refreshing.getLsbD 0 = false ∧ (stkOf true 7 0).cb = true ∧ (stkOf true 7 0).resvOf 15 < 8 ∧
    (stkOf true 8 0x8000).refreshing.getLsbD 15 = true ∧ (stkOf true 0 0).resvOf 0 = 0 ∧ boundHints one = [0] := by decide +kernel
theorem wit_StrandsSplit : pchEnabled one 0 = true ∧ one.pchs.toList[0]? = some ⟨12, false, false, none⟩ ∧ ((3#32).setWidth 4 : BitVec 4).toNat = 3 ∧
    ((4#32).setWidth 4 : BitVec 4).toNat = 4 ∧ ((12#32).setWidth 4 : BitVec 4).toNat = 12 ∧ ((13#32).setWidth 4 : BitVec 4).toNat = 13 ∧
    (⟨12, true, true, some 4⟩ : Pch).held = true ∧ (⟨4, false, true, none⟩ : Pch).drain = false := by decide +kernel
theorem wit_SoftErrorsAreSilent : ((mapped1 G0).vreg 1).st = .mapped ∧ 511 < 512 ∧ bankBytes - 1 < bankBytes := by decide +kernel

/-! ### Launches, queues and tenants -/

/-- A launch of one group of context 0, of which no team is bound. -/
def launchOf (next : Nat) (donea : W64) (deps : List (W64 × W32)) : Launch :=
  ⟨0, 0, 0, { placeLaunch with donea := donea, donev := 1, deps := deps }, deps.map fun _ => false, deps.map fun _ => false, none, next, 0, 0, .accepted, false⟩
/-- Room for its team: tenant 0 holds the quad, and context 0 an area. -/
def bindS : State := { rdy with groups := [], teams := [], launches := [launchOf 0 0 []], tenants := [{ ten0 with rcd := { ten0.rcd with mindl := 3600 } }] }
def place1 : Placement := ⟨[(0, 0xFF)], [⟨0, 0, 0, 0⟩]⟩
theorem wit_TeamsBindWhole : (bindS.launches[0]?).any (fun l => (bindS.contexts[l.ctx]?).any fun c => (tenantOf bindS l.ctx).any fun t =>
    c.live && nextReady bindS l.ctx == some 0 && !t.vacating && t.running.isNone && slotsGood t l.rcd place1 && slotsNamed l.rcd place1 && (boundGroups bindS c l 0 place1).all (fun G => !entryRefused bindS G) && areasGood bindS l.ctx c place1 &&
    banksGood l.rcd place1 && boundOk bindS t l.ctx l.rcd && l.rcd.items == 0 && (claimAll bindS place1).any fun s1 =>
      (placeCores place1).all fun k => (tenantBanks s1 t k + l.rcd.banks).ble t.rcd.banks) = true := by decide +kernel
def overS (l : Launch) (c : Context → Context) : State :=
  { withC (cached G0) c with launches := [l], teams := [], groups := [] }
/-- What a write of firmware to an address of context 0 answers. -/
def doneOk (s : State) (a : Nat) : Option Bool := ((s.contexts[0]?).map fun c => (engWrite s (fwService c 0) false a 0xF#4 1).1).bind fun r => match r with
  | .ok b => some b
  | _ => none
def graphOf (done : W64) (nodes : List Nat) : GraphInst := ⟨0, 1, 0, false, nodes, [], done, 1, false, false⟩
theorem wit_LaunchesComplete : launchOver (overS (launchOf 1 0 []) id) 0 (launchOf 1 0 []) = true ∧
    launchOver (overS (launchOf 1 0x20000 []) id) 0 (launchOf 1 0x20000 []) = true ∧ doneOk (overS (launchOf 1 0x20000 []) id) 0x20000 = some true ∧
    (match (engWrite (overS (launchOf 1 0 []) id) (fwService placeCtx 0) false 0x30000 0xF#4 1).1 with
      | .park => true
      | _ => false) = true ∧
    (match (engWrite { overS (launchOf 1 0 []) id with verdicts := [⟨.firmware, 3, false, cXLAT, 9⟩] } (fwService placeCtx 0) false 0x30000 0xF#4 1).1 with
      | .fail _ _ => true
      | _ => false) = true ∧
    (graphOf 0 [0]).ended = false ∧ launchDone (overS { launchOf 1 0 [] with st := .completed } id) 0 = true := by decide +kernel
theorem wit_DependencesAreRead : (launchOf 0 0 [(0x20000, 5)]).rcd.deps[0]? = some (0x20000, 5) ∧ (launchOf 0 0 [(0x20000, 5)]).sat[0]? = some false ∧
    (launchOf 0 0 [(0x20000, 5)]).told[0]? = some false ∧
    (∀ a x, (a, x) = (0x20000, 5#32) ∨ (a, x) = (0x20000, 6#32) → (match (engRead (overS (launchOf 0 0 []) id) (fwService placeCtx 0) a).1 with
      | .ok (some v) => v == 5#32 && (decide ((v - x).toNat < 2 ^ 31) == decide (x = 5))
      | _ => false) = true) ∧
    (match (engRead (overS (launchOf 1 0 []) id) (fwService placeCtx 0) 0x30000).1 with
      | .park => true
      | _ => false) = true ∧
    (match (engRead { overS (launchOf 1 0 []) id with verdicts := [⟨.firmware, 3, false, cXLAT, 9⟩] } (fwService placeCtx 0) 0x30000).1 with
      | .fail _ _ => true
      | _ => false) = true := by
  refine ⟨by decide +kernel, by decide +kernel, by decide +kernel, ?_, by decide +kernel, by decide +kernel⟩
  rintro a x (h | h) <;> cases h <;> decide +kernel
/-- A launch queue of two slots at 0x20000, with the TAIL that memory holds there. -/
def lq (head t0 : W32) : LaunchQueue := ⟨0x20000, 2, head, t0, none⟩
def watchS (tail : W32) (q : LaunchQueue) : State :=
  withC { cached G0 with lines := [lineAt 0 tail] } fun c => { c with queues := [q] }
def tailOf (s : State) : Option W32 := match (queueWords s ((s.contexts[0]?).getD placeCtx) 0 0x20000 1).1 with
  | .inl ws => ws[0]?
  | .inr _ => none
theorem wit_QueuesAreWatched : tailOf (watchS 0x7FFFFFFF (lq 0 0xFFFFFFFF)) = some 0x7FFFFFFF ∧ 2 ^ 31 ≤ (0x7FFFFFFF#32 - 0xFFFFFFFF#32).toNat ∧
    tailOf (watchS 3 (lq 0 0)) = some 3 ∧ (lq 0 0).size < (3#32 - (lq 0 0).head).toNat ∧ tailOf (watchS 2 (lq 0 0)) = some 2 ∧
    (2#32 - (lq 0 0).head).toNat ≤ (lq 0 0).size ∧ (match (queueWords one placeCtx 0 0x20000 1).1 with
      | .inr _ => true
      | .inl _ => false) = true ∧ lowestBound (watchS 0 (lq 0 0)) 0 = some 0 ∧ lowestBound { watchS 0 (lq 0 0) with groups := [] } 0 = none := by
  decide +kernel
/-- Two contexts of one tenant: the first runs, and the second has a launch of a higher priority. -/
def twoCtx : State := { rdy with
  contexts := [placeCtx, { placeCtx with asid := 1 }], launches := [launchOf 0 0 [], { launchOf 0 0 [] with ctx := 1, rcd := { placeLaunch with prio := 3 } }]
  tenants := [{ ten0 with running := some 0 }] }
theorem wit_SlicesEnd : twoCtx.tenant? 0 = some { ten0 with running := some 0 } ∧ preempts twoCtx { ten0 with running := some 0 } = true ∧
    sliceOver { twoCtx with cycle := 1#64 <<< 40 } { ten0 with running := some 0 } = true ∧
    pickContext twoCtx { ten0 with running := some 0 } = some 1 := by decide +kernel
theorem wit_DrainsEnd : ({ rdy with tenants := [{ ten0 with losing := 3 }] } : State).tenant? 0 = some { ten0 with losing := 3 } ∧
    ({ ten0 with losing := 3 } : Tenant).losing ≠ 0 ∧ ({ ten0 with losing := 3 } : Tenant).nextWays = none := by decide +kernel
def reqT (p : BitVec 3) (plan : List QPlan) : Tenant := { ten0 with req := some ⟨1#64 <<< 40, p, 9, 0⟩, phase := 1, plan := plan }
theorem wit_VacateRequestsMerge : rdy.ready = true ∧ rdy.tenant? 0 = some ten0 ∧ ten0.req = none ∧
    ({ rdy with tenants := [reqT 3 []] } : State).tenant? 0 = some (reqT 3 []) := by decide +kernel
def plan1 (c : Choice) (d settled committed : Bool) : QPlan := ⟨0, 0, c, d, committed, false, settled, 0, 0, 0, none⟩
def planS (p : QPlan) (deadline : W64) : State :=
  { rdy with tenants := [{ reqT 3 [p] with req := some ⟨deadline, 3, 9, 0⟩ }] }
/-- What holds of the planned queue and its tenant. -/
def planIs (s : State) (f : Tenant → QPlan → Bool) : Bool := (planned s 0 0).any fun x => f x.1 x.2
theorem wit_PlannedQueuesGo : planIs (planS (plan1 .run false false false) 0) (fun t p => p.choice == .run && !p.disc && p.outcome.isNone &&
      (remainOf (planS (plan1 .run false false false) 0) t * microsecond * t.rcd.vrate).ble (unsentCost (planS (plan1 .run false false false) 0) t)) = true ∧
    planIs (planS (plan1 .run true false false) 0) (fun t p => p.choice == .run && p.disc && p.outcome.isNone &&
      (remainOf (planS (plan1 .run true false false) 0) t).ble 1010000) = true ∧
    planIs (planS (plan1 .checkpoint false true false) 0) (fun t p => p.streams && streamTurn t p) = true ∧
    planIs (planS (plan1 .run false true false) 0) (fun t p => p.streams && streamTurn t p) = true ∧
    (1).ble (ckptSections (planS (plan1 .checkpoint false true false) 0) 0 0 0).length = true ∧
    planIs (planS (plan1 .checkpoint false true true) 0) (fun _ p => p.committed && !p.acked) = true := by decide +kernel
def endedPlan (o : Nat) : QPlan := ⟨0, 0, .checkpoint, false, true, true, true, 0, 0, 0, some o⟩
/-- What is left to do of a plan on a state with no group. -/
def vacantOk (o : Nat) : Bool :=
  let s : State := { rdy with groups := [], teams := [], tenants := [reqT 3 [endedPlan o]] }
  let r := closeQueues s (remainOf s (reqT 3 [endedPlan o]) == 0) (reqT 3 [endedPlan o]).plan
  (r.1.all fun p => p.outcome.isSome) && tenantEmpty r.2 (reqT 3 [endedPlan o])
theorem wit_TenantsBecomeVacant : vacantOk 1 = true ∧ vacantOk 3 = true ∧ (reqT 3 []).req.isSome = true := by decide +kernel
theorem wit_ImagesAreSentAndKept : (({ placeCtx with xlctl := 0x30 } : Context).tracking && placeCtx.live) = true ∧
    tenantOf (withTen one) 0 = some ten0 ∧ rdy.ready = true ∧ ckptTypes.contains 1 = true ∧ ckptTypes.contains 0x0F = true ∧
    ckptTypes.contains 0 = false := by decide +kernel

/-! ### Packets and contexts -/

/-- A packet to this part, of the host node that has created context 0. -/
def hdr (asid : BitVec 16) : Hdr := ⟨false, 1025, 7, asid, 0, 5, false⟩
def hosted (f : State → State) : State := f { rdy with lines := [lineAt 0 5, lineAt 1 6] }
theorem hdr_arrives (asid : BitVec 16) (ord : Bool) (a : W64) (n : Nat) (h : pktReady rdy (hdr asid) ord (pktSpan rdy asid a n) = true) :
    Arrives rdy (hdr asid) ord a n := ⟨by decide +kernel, h, rfl, .inl (by decide +kernel)⟩
/-- A packet held from before the drain goes on (R394). -/
theorem held_arrives : Arrives { rdy with fab := { rdy.fab with drain := .quiesce, inbound := [⟨1025, 0, 0, 0, 0⟩] } } (hdr 0) false 0 0 :=
  ⟨by decide +kernel, by decide +kernel, rfl, by decide +kernel⟩
theorem hdr_creator : FromCreator rdy (hdr 0) 0 placeCtx := ⟨by decide +kernel, rfl, by decide +kernel, rfl⟩
theorem wit_LaunchPacketsSubmit : Arrives rdy (hdr 0) true 0 0 ∧ FromCreator rdy (hdr 0) 0 placeCtx ∧
    (match (fwWords (hosted id) (firmware placeCtx 0) 0x30000 32).1 with
      | none => true
      | some _ => false) = true ∧
    (match (fwWords (launchS graphWords) (firmware placeCtx 0) 0x20000 32).1 with
      | some ws => ws.length == 32
      | none => false) = true := ⟨hdr_arrives _ _ _ _ (by decide +kernel), hdr_creator, by decide +kernel⟩
/-- What READ of two words finds, and what one place of a WRITE is. -/
def foundAt (s : State) (a n : Nat) : Nat := match (pktWords s (fwService placeCtx 0) a n).1 with
  | .ok _ => 0
  | .park => 1
  | .fail _ _ => 2
theorem wit_MemoryPacketsAccess : FromParty rdy (hdr 0) 0 placeCtx ∧ (hdr 0).asid ≠ 0xFFFF#16 ∧
    pktReady (hosted id) (hdr 0) false (pktSpan (hosted id) 0 0x20000 2) = true ∧ foundAt (hosted id) 0x20000 2 = 0 ∧
    foundAt (hosted id) 0x30000 64 = 1 ∧ foundAt (hosted fun s => { s with verdicts := [⟨.firmware, 3, false, cXLAT, 9⟩] }) 0x30000 1 = 2 ∧
    (match (pktPlaces (hosted id) (fwService placeCtx 0) 0x20000 [(0, 1), (1, 2)]).1 with
      | .ok l => l.length == 2
      | _ => false) = true ∧
    (match (engPlace (hosted id) (fwService placeCtx 0) 0x20000) with
      | (.ok l, s1) => (devReadLoc s1 0x8000 l).1 == some 5 && (atomicNew 9 5 1 5).isSome
      | _ => false) = true := ⟨⟨by decide +kernel, rfl, .inl ⟨by decide +kernel, rfl⟩⟩, by decide +kernel⟩
/-- What keeps a packet waiting: it has been performed, it is ordered behind another, or an earlier one that touches its words is held, or a
later one that touched them has been performed. -/
def keptS : State := { rdy with fab := { rdy.fab with
  inbound := [⟨1025, 0, 0, 0x20000, 2⟩], seqs := [⟨1025, 0, [(3, []), (7, pktSpan rdy 0 0x30000 1)]⟩] } }
theorem wit_PacketsKeepOrder : (seqRec keptS 1025).has 3 = true ∧ (hdr 0).src = 1025 ∧ 4 ≠ (seqRec keptS 1025).low ∧
    (keptS.fab.inbound.any fun p => p.src == 1025 && seqBefore p.seq 4 && (pktSpan keptS 0 0x20004 1).any (pktSpan keptS p.asid p.addr p.count).contains) = true ∧
    ((seqRec keptS 1025).above.any fun x => seqBefore 4 x.1 && (pktSpan keptS 0 0x30000 1).any x.2.contains) = true := by decide +kernel
theorem wit_PhysicalPackets : Arrives rdy (hdr 0xFFFF) false 0x100 64 ∧
    rdy.fab.hosts.contains (hdr 0xFFFF).src = true ∧ rdy.fab.hosts.contains 3 = false ∧ ((List.range 64).all fun k => wordExists rdy (0x100 + 4 * k) &&
      wordSyn rdy (0x100 + 4 * k) == 0) = true ∧ wordExists rdy 0x7FFFFFFFFC = false ∧ rdy.memOk = true :=
  ⟨hdr_arrives _ _ _ _ (by decide +kernel), by decide +kernel⟩
theorem wit_Registrations : Arrives rdy (hdr 0) false 0 0 ∧ commOk rdy ⟨63, [7, 8], 0, 0, 16, true⟩ = true ∧ commOk rdy ⟨64, [7, 8], 0, 0, 16, true⟩ = false ∧
    peerOk rdy placeCtx ⟨0x40000000, 0x200000, 8, 0, 0⟩ = true ∧ peerOk rdy placeCtx ⟨0x40000000, 0, 8, 0, 0⟩ = false ∧
    queueOk rdy placeCtx 0x20000 0 = false ∧ queueOk (tree true) treeCtx 0x20000 2 = true := ⟨hdr_arrives _ _ _ _ (by decide +kernel), by decide +kernel⟩

def regionSet (flags : W32) : RegionSet := ⟨0, flags, 0x80000, 16, 0, 1, []⟩
def tenRec : TenantRec := { ten0.rcd with bws := 8, vrate := 10, mindl := 30, slice := 50 }
theorem wit_HostRequests : Arrives rdy (hdr 0) false 0 0 ∧ FromCreator rdy (hdr 0) 0 placeCtx ∧
    recordRefused { rdy with tenants := [] } 0 tenRec = false ∧ recordRefused rdy 16 tenRec = true ∧
    (postVacate rdy 0 30000 3 (some 9)).1 = true ∧ (postVacate { rdy with tenants := [reqT 3 []] } 0 30000 3 (some 8)).1 = false ∧
    ((openFault (faultS true 0x10) 0).any fun f => f.ctx == 0 && f.toHost) = true ∧
    (serveFault (faultS true 0x10) 0 (faultOf true) 0x510097).isSome = true ∧ (openFault rdy 0).isNone = true ∧
    (((callC 0x01000000).contexts[0]?).any fun c => (openCall c 3).any fun r => r.seq == 0) = true ∧ (openCall placeCtx 3).isNone = true :=
  ⟨hdr_arrives _ _ _ _ (by decide +kernel), hdr_creator, by decide +kernel⟩
theorem wit_RequestsRefused : rdy.online = true ∧ pktReady rdy (hdr 1) false [] = true ∧ pktReady rdy { hdr 0 with bad := true, src := 3 } false [] = true ∧
    (hdr 0).bad = false ∧ ({ rdy with fab := { rdy.fab with drain := .quiesce } } : State).online = true ∧ (ctxByAsid rdy 1).isNone = true ∧
    ctxByAsid rdy 0 = some 0 ∧ rdy.fab.hosts.contains 3 = false := by decide +kernel
/-- A context to create, in tenant 0: large pages map its call area at 0 and its spill range at 0x200000, as the checks ask. -/
def newCtx : CtxCreate := ⟨true, 0, 0x400000, 0x4000, 0, 0x200000, 1⟩
def newS : State := { rdy with
  dram := [(0x400000, 1), (0x400002, 0x41), (0x410000, 1), (0x410002, 0x42), (0x420000, 0x13), (0x420004, 0x90), (0x420008, 7), (0x42000A, 0x60),
    (0x42000C, 0x80)]
  frames := Vector.replicate 8 (List.range 17) }
theorem wit_ContextCommands : Arrives rdy (hdr 1) false 0 0 ∧ (hdr 1).src ∈ rdy.fab.hosts ∧ (ctxByAsid rdy 0).isSome = true ∧ (ctxByAsid rdy 1).isNone = true ∧
    createArgBad rdy (hdr 1) { newCtx with spillCount := 0 } = true ∧ createArgBad rdy (hdr 1) newCtx = false ∧
    createAddrBad rdy (makeContext (hdr 1) { newCtx with root := 0x400001 } rdy) = true ∧
    FromCreator rdy (hdr 0) 0 placeCtx ∧ entryPlace (tree true) 0x20000 0 0x400000 3 = some 0x430010 ∧ (entryPlace rdy 0x20000 0 0 3).isNone = true ∧
    fixedRange treeCtx 0x20000 (leafBytes 0) = false ∧ fixedRange treeCtx 0x2000000 (leafBytes 0) = true ∧
    createAddrBad newS (makeContext (hdr 1) newCtx newS) = false ∧ ((List.range 8).all fun k => (17).ble (framesOf newS k).length) = true ∧
    entryClash (tree true) 0 0x20000 0 0 = false ∧ (tree true).memOk = true ∧ entryClash (tree true) 0 0x30000 0 0x50001F = true ∧ regionArgBad (regionSet 8) = true ∧ regionArgBad (regionSet 1) = false ∧
    regionArgBad (regionSet 0) = false ∧ (match setValid rdy placeCtx 1 (regionSet 1) with
      | .reply _ 0 _ _ => true
      | _ => false) = true ∧ (match setInvalid rdy 0 placeCtx 1 (regionSet 0) with
      | .reply _ 0 _ _ => true
      | _ => false) = true :=
  ⟨hdr_arrives _ _ _ _ (by decide +kernel), by decide +kernel, by decide +kernel, by decide +kernel, by decide +kernel, by decide +kernel,
    by decide +kernel, hdr_creator, by decide +kernel⟩

/-! ### Replies, losses, drains, boots, resets, the keystone -/

def fabS (f : Fabric → Fabric) : State := { rdy with fab := f rdy.fab }
/-- A request to a peer, a NOTICE and collective data that wait for their answers. -/
def peer0 : PeerReq := ⟨.scalar 0, 0x10000, 0, 0x8000, 5, 1025, 3, none, false⟩
def notice0 : Packet := ⟨0x40, 1025, 0, 0, 5, .ready 0⟩
def colld0 : CollData := ⟨0, 0, 0, 0, false, 0, 0, 0, 0, 0, []⟩
def coll0 : Packet := ⟨0x41, 1025, 0, 0, 5, .colld colld0⟩
def waiting : State := fabS fun f => { f with peers := [peer0], notices := [notice0], colldOut := [coll0] }
theorem wit_RepliesAreMatched : ArrivesReply waiting (hdr 0) ∧ peerOf waiting (hdr 0) (0x83#8 &&& 0x7F#8) = some 0 ∧ waiting.fab.peers[0]? = some peer0 ∧
    peerOf waiting (hdr 0) (0x80#8 &&& 0x7F#8) = none ∧ peerOf rdy (hdr 0) (0xFF#8 &&& 0x7F#8) = none ∧ 0x80 ≤ (0x80#8).toNat ∧
    (waiting.fab.notices.any fun x => x.dst == (hdr 0).src && x.tag == (hdr 0).tag) = true ∧ rdy.fab.notices = [] ∧
    (waiting.fab.colldOut.any fun x => x.dst == (hdr 0).src && x.tag == (hdr 0).tag) = true ∧ rdy.fab.colldOut = [] ∧ (planesOn rdy).length = 36 :=
  ⟨⟨by decide +kernel, by decide +kernel, rfl⟩, by decide +kernel⟩
def commS : State := { withC rdy fun c => { c with comms := [comm2] } with fab := { rdy.fab with seqs := [⟨1025, 1, [(3, [])]⟩] } }
theorem wit_PacketsAreResentHeldAndLost : waiting.online = true ∧ waiting.fab.notices[0]? = some notice0 ∧ waiting.fab.colldOut[0]? = some coll0 ∧
    (seqRec commS 1025).has (hdr 0).seq = true ∧ (seqRec commS 1025).has 3 = true ∧
    Arrives commS { hdr 0 with seq := 1 } false 0 0 ∧ ctxByAsid commS (hdr 0).asid = some 0 ∧
    (commS.contexts[0]?).any (fun c => (c.comms.find? fun m => m.idx == colld0.comm) == some comm2) = true ∧ comm2.members.contains 1025 = true ∧
    waiting.fab.peers[0]? = some peer0 ∧ peer0.answer.isNone = true ∧ peer0.late = false ∧ portOn rdy 35 = true ∧ vlaneOn rdy 143 = true ∧ rdy.ready = true :=
  ⟨by decide +kernel, by decide +kernel, by decide +kernel, by decide +kernel, by decide +kernel,
    ⟨by decide +kernel, by decide +kernel, by decide +kernel, by decide +kernel⟩, by decide +kernel⟩
def drainS (d : DrainSt) (ret : Bool) (conf : List Nat) : State := fabS fun f => { f with drain := d, returning := ret, confirmed := conf }
theorem wit_RoutesDrain : Arrives (fabS id) { hdr 0 with src := 9 } false 0 0 ∧ (hdr 0).src ≠ (fabS id).fab.manager ∧
    ((fabS id).tenants.any fun t => (t.phase.toNat + 1).ble 2) = true ∧
    ({ rdy with tenants := [{ ten0 with phase := 2 }] } : State).tenants.all (fun t => (2).ble t.phase.toNat) = true ∧
    ((drainS .withdraw false []).ready && pktReady (drainS .withdraw false []) { hdr 0 with src := 9 } false []) = true ∧
    outbound (drainS .quiesce false []) = false ∧ (drainS .quiesce false []).fab.inbound = [] ∧ peer0.answer.isNone = true ∧ 0 < waiting.fab.colldOut.length ∧
    ((planesOn (drainS .withdraw false [])).contains 0 && !(drainS .withdraw false []).fab.confirmed.contains 0) = true ∧
    ((planesOn (drainS .withdraw false [])).any fun q => q != 0 && !([] : List Nat).contains q) = true ∧
    ((planesOn (drainS .withdraw false ((List.range 36).drop 1))).all fun q => q == 0 || ((List.range 36).drop 1).contains q) = true ∧
    (drainS .drained true []).fab.returning = true := ⟨⟨by decide +kernel, by decide +kernel, rfl, by decide +kernel⟩, by decide +kernel⟩
def powS (p : PState) : State := { one with power := { one.power with st := p } }
theorem wit_ResetsKeepAndLose : one.power.st = .unpowered ∧ (powS .ready).power.st = .ready ∧ (powS .booterr).power.st = .booterr ∧
    (powS .booting).power.st = .booting ∧ bankSeq none < bankSeq (some (1, [])) ∧ ¬ bankSeq none < bankSeq none := by decide +kernel
/-- A record that passes every check but its signature, which is a value that the model leaves open, passes with it; and no record does not. -/
theorem wit_BootsCompleteOrFail : (Config.signatureOk (one.key.config.take (recLength one.key.config)) = true →
      bootCode (takeStage (powS .booting) false) false = 0) ∧ (powS .booting).power.again.isSome = false ∧ (Config.imageOk = false →
      bootCode (powS .booting) true = 1) ∧
    bootCode { powS .booting with key := { one.key with config := [] } } false = 2 ∧ recFormat (powS .booting).key.stage = 0 ∧
    recFormat one.key.config ≠ 0 ∧ (powS .booting).power.st = .booting := by
  refine ⟨fun h => ?_, by decide +kernel, fun h => by simp [bootCode, recordCode, h], by decide +kernel⟩
  have m : recMalformed one.key.config = false := by
    unfold recMalformed
    simp only [h]
    decide +kernel
  show bootCode (powS .booting) false = 0
  have k : recordCode false one.key.serial one.key.config = 0 := by
    unfold recordCode
    rw [m]
    decide +kernel
  exact k
theorem wit_BlocksAndSnapshots : (powS .ready).power.st ≠ .unpowered ∧ (powS .ready).power.blocks.toList[27]? = some ⟨false, false⟩ ∧ 27 < 28 := by
  decide +kernel
theorem wit_KeystoneAccess : (0x4100#24).toNat = 0x4100 ∧ (0x80FF#24).toNat < 0x8100 ∧ (powS .ready).power.st ≠ .booting ∧
    ¬ (0x4100 ≤ (0x8100#24).toNat ∧ (0x8100#24).toNat < 0x8100) := by decide +kernel

/-! ### Encodings, steps, memory -/

theorem wit_ScalarWordsRoundTrip : (Instr.addi 5 2 (-12)).wf = true ∧ encodeScalar (.addi 5 2 (-12)) = some 0x20285FF4 := by decide +kernel
theorem wit_LaneWordsRoundTrip : (Instr.ldpImm ⟨.x32, .v 4, .always, 0, vsrc 2, isrc 384, .unused⟩).wf = true ∧
    encodeLane (.ldpImm ⟨.x32, .v 4, .always, 0, vsrc 2, isrc 384, .unused⟩) = some 0xAA7411C00080000000180000 := by decide +kernel
/-- What the turn of the first group of a placed instruction fetches. -/
def fetched (s : State) (lane : Bool) : Option (List W32) :=
  let u := turnState s []
  (u.group? 0).bind fun G => (if lane then whoLane u 0 G else whoScalar u 0 G).bind fun w =>
    match (fetchWords u w (if lane then G.lane.lpc.toNat else G.sc.spc.toNat) (if lane then 3 else 1)).1 with
    | .ok l => some l
    | _ => none
def runsAt (G : Group) (lane : Bool) : Bool := G.running && !G.wait.paused && G.queueDue.isEmpty && (!lane || (G.lane.run.isSome && G.lane.stall == .none))
theorem wit_StepRunsTheFetchedInstruction : fetched (placeInstr State.reset false 4 0x20285FF4) false = some [0x20285FF4] ∧
    fetched (placeInstr State.reset false 4 0xD6100000) false = some [0xD6100000] ∧ (match decodeScalar 0xD6100000 with
      | .error _ => true
      | .ok _ => false) = true ∧
    fetched (placeInstr State.reset true 12 0xAA7411C00080000000180000) true = some [0x00180000, 0x00800000, 0xAA7411C0] ∧
    runsAt G0 false = true ∧ runsAt L0 true = true ∧ L0.lane.lpc.toNat = L0.bind.lbase.toNat + 12 * 0 ∧
    (placeInstr State.reset true 12 0).agenda = [.lane 0] ∧ (placeInstr State.reset false 4 0).agenda = [.scalar 0] := by decide +kernel
def farG : Group := { G0 with sc := { G0.sc with spc := 1#64 <<< 56 } }
def waitG : Group := { G0 with sc := { G0.sc with spc := 0x50000 } }
theorem wit_StepFetchTraps : ((whoScalar (turnState (withG farG) []) 0 farG).any fun w => match fetchWords (turnState (withG farG) []) w (2 ^ 56) 1 with
      | (.raise _, s1) => (s1.group? 0).isSome
      | _ => false) = true ∧
    ((whoScalar (turnState (withG waitG) []) 0 waitG).any fun w => match fetchWords (turnState (withG waitG) []) w 0x50000 1 with
      | (.wait, _) => true
      | _ => false) = true ∧ (withG farG).agenda = [.scalar 0] ∧ runsAt farG false = true ∧ (queueG G0).queueDue ≠ [] ∧
    runsAt L0 true = true ∧ L0.bind.lbase = 0x10000 ∧ (∀ n, 0x10006 ≠ 0x10000 + 12 * n) :=
  ⟨by decide +kernel, by decide +kernel, by decide +kernel, by decide +kernel, by decide +kernel, by decide +kernel, rfl, fun n => by omega⟩
theorem wit_StepKeepsMemoryCanonical : State.reset.memOk = true ∧ one.memOk = true ∧ (match step one with
    | .next _ => true
    | _ => false) = true := by decide +kernel


/-! ### Clauses on rows, records, logs, stores and engines -/

/-- A group with words of v1 in a row; the state after its spill; and a state in which that slot lies nowhere. -/
def rowG : Group := { G0 with vec := { G0.vec with vregs := G0.vec.vregs.set 1 { VReg.none with st := .mapped, val := splat 7, undef := 0 } } }
def spilt : State := spillRow (withG rowG) 0 1
def lostG : Group := rowG.putV 1 { rowG.vreg 1 with st := .spilled }
theorem wit_SpillsFillTheSlot : (withG rowG).group? 0 = some rowG ∧ (withG rowG).ctxOf rowG = some placeCtx ∧
    (rowG.vreg 1).undef.getLsbD 31 = false ∧ (spilt.group? 0).any (fun G => (G.vreg 1).st == .spilled) = true :=
  ⟨rfl, rfl, by decide +kernel, by decide +kernel⟩
theorem wit_RefetchReadsTheSlot : (spilt.group? 0).any (fun G => (slotWords spilt G 1).1 == List.replicate 32 (some 7)) = true ∧
    (match refetch spilt 0 [] 1 with
      | .ok _ => true
      | _ => false) = true ∧
    (lostG.vreg 1).st = .spilled ∧ lostLanes (slotWords (withG lostG) lostG 1).1 ≠ [] ∧ servesRefetch lostG 1 = false ∧ (slotBusy (withG lostG) lostG 1).1 = false ∧
    servesRefetch { inH lostG cUE (1#64 <<< cUE) with trap := { (inH lostG cUE (1#64 <<< cUE)).trap with
      recs := (inH lostG cUE (1#64 <<< cUE)).trap.recs.set cUE (some ⟨0, 0, 0, 0x103, 0, splat 0⟩) } } 1 = true := by decide +kernel
theorem wit_CausesWriteTheirRecords : one.ctxOf G0 = some placeCtx ∧ G0.trap.cause.getLsbD cILL = false ∧
    (inH G0 cILL (1#64 <<< cILL)).trap.cause.getLsbD cILL = true := ⟨rfl, by decide +kernel⟩
theorem wit_AcquireAndRelease :
    ((acquired (padRelease { one with padw := [⟨0, 4, 1, .store, [], []⟩], early := [⟨0, true, 5, 7⟩, ⟨1, true, 5, 7⟩] } 1 (.deed 9)) 0
      (· == .deed 9)).padw.any fun w => w.writer == 1 && w.by_ == .store && w.syncs.any (· == .deed 9) && w.seen.contains 0) = true := by decide +kernel
/-- A group whose fault is being served, and an entry of its instruction. -/
def entry0 (pc : W64) : OpEntry := ⟨0, .scalar 0, pc, none, 0, splat 9, splat 0, splat 0⟩
def served (G : Group) (p : Party) : State := { withG G with faults := [{ faultOf false with joined := [(p, 1)] }] }
theorem wit_LogTakesAnEntry : inService (served G0 (.scalar 0)) (.scalar 0) = true ∧
    (logOps (served G0 (.scalar 0)) (entry0 0x10000)).oplog = [entry0 0x10000] ∧
    (logOps { served G0 (.scalar 0) with oplog := List.replicate 16 (entry0 8) } (entry0 0x10000)).oplog.length = 16 := by decide +kernel
theorem wit_LoggedScalarAccess : whoScalar (withG (sg [(1, 0x30000)])) 0 (sg [(1, 0x30000)]) = some me ∧
    (match (loadLanes (withG (sg [(1, 0x30000)])) me (scalarDbg (sg [(1, 0x30000)])) 0x10000 8 false [⟨0, 0x30000, 8⟩]).1 with
      | .wait => true
      | _ => false) = true ∧
    loggedOps { one with oplog := [entry0 0x10000] } (.scalar 0) G0.sc.spc = some (entry0 0x10000) := ⟨rfl, by decide +kernel⟩
/-- A queue whose 32 entries stores hold. -/
def fullSq : List PWrite := (List.range 32).map fun k => { pw 0 with word := 0x5000 + k, entry := k }
theorem wit_ScalarStoreCommits : storeQueueFull (cached (sg [(1, 0x20000)])) 0 = false ∧ (lineAt 1 6).perm.w = true ∧
    storeQueueFull { cached (sg [(1, 0x20000)]) with sq := fullSq } 0 = true ∧
    inService { cached (sg [(1, 0x20000)]) with sq := fullSq } (.scalar 0) = false := by decide +kernel
theorem wit_LaneInstructionsWait : inService (served L0 (.lane 0)) (.lane 0) = true ∧ inService oneL (.lane 0) = false ∧
    ((served L0 (.lane 0)).oplog.filter fun e => e.quad == 0).length < 16 ∧
    loggedOps { oneL with oplog := [⟨0, .lane 0, 0x10000, none, 3, splat 9, splat 0, splat 0⟩] } (.lane 0) L0.lane.lpc =
      some ⟨0, .lane 0, 0x10000, none, 3, splat 9, splat 0, splat 0⟩ := by decide +kernel
theorem wit_DeepEntriesLieInTheSpillArea : (withGL (stkG (List.replicate 9 (ent .branch 3)))).ctxOf (stkG (List.replicate 9 (ent .branch 3))) =
      some placeCtx ∧ (stkG (List.replicate 9 (ent .branch 3))).lane.stack[8]? = some (ent .branch 3) := ⟨rfl, by decide +kernel⟩
theorem wit_owned_store : (ownedAt { storeS 1 with lines := [⟨lineKey 0 0x5000, .owned 0 5, some 0x30000, none, ⟨true, true, false⟩, none⟩] }
      (pw 1).key 0) = true ∧ ownedAt (storeS 1) (pw 1).key 0 = false := by decide +kernel
theorem wit_stored_block : (∃ p ∈ (cached G0).shUse, p.1 = (lineAt 0 5).key / 32) ∧ (coreRivals (cached G0) 0 ((lineAt 0 5).key / 32)).length < 16 ∧
    (∀ a b ps, (lineAt 0 5).st ≠ .escrow a b ps) := ⟨⟨_, .head _, rfl⟩, by decide +kernel, fun _ _ _ h => by cases h⟩

/-- Groups that wait for admission in slots 0 to 3, one lane of each taking the branch and one not. -/
def admG (k : Nat) : Group :=
  { L0 with loc := { L0.loc with slot := BitVec.ofNat 4 k }, lane := { L0.lane with stall := .admission 0, em := 3 } }
def admM : Meet := meet0 true ((List.range 4).map fun k => ⟨k, 1, 3, false⟩)
def admS : State := { oneL with groups := (List.range 4).map admG, meets := [admM] }
theorem wit_admission_with_compaction : waitingMembers admS 0 admM = admM.members ∧ anyHalted admS (admM.members.map (·.group)) = false ∧
    (admM.members.map (·.group)).Nodup ∧ threadsAt admM.members true 0 = 4 ∧ threadsAt admM.members false 1 = 4 ∧
    (admG 3).lane.stack.length < 8 ∧ (admG 3).dbg.stepm ≠ 2#2 := by decide +kernel
/-- The same with one branch lane in each of two groups and the other way in two, so that two groups can hold all threads. -/
def halfM : Meet := meet0 true [⟨0, 1, 1, false⟩, ⟨1, 2, 2, false⟩, ⟨2, 0, 1, false⟩, ⟨3, 0, 2, false⟩]
theorem wit_admission_that_compacts : waitingMembers { admS with meets := [halfM] } 0 halfM = halfM.members ∧
    (∀ i < 32, threadsAt halfM.members true i ≤ 1) ∧ threadsAt halfM.members true 0 = 1 ∧
    (∀ i < 32, threadsAt halfM.members false i ≤ 1) ∧ threadsAt halfM.members false 0 = 1 ∧ 1 + 1 < halfM.members.length := by
  decide +kernel

/-- A copy of one word between 0x40000 and scratchpad 0, at its last element, and a walk of one entry. -/
def rcd1 : ShapeRec := (recOf cpyG (rec1 1)).elim ⟨0, 0, 0, 1, 0, false, [], [], [], []⟩ (·.1)
def ldC : Cmd := { cmdOf 0 false none with kind := .copyLd 0 0 0x0001000100010001, rcd := rcd1 }
def stC : Cmd := { ldC with kind := .copySt 0 0 0x0001000100010001 }
def rcd2 : ShapeRec := (recOf cpyG (rec2 1)).elim ⟨0, 0, 0, 1, 0, false, [], [], [], []⟩ (·.1)
def walkC : Cmd := { cmdOf 0 false none with kind := .walkCoo 0 4 0 1, rcd := rcd2 }
def cmdS (c : Cmd) : State := { cached G0 with cmds := [c], lines := [lineAt 0x8000 5, lineAt 0x8004 6] }
def copier : Who := ⟨.copy 0, 0, 0, 0, placeCtx, none, none⟩
def clearer : Who := ⟨.clearing 0, 0, 0, 0, placeCtx, none, none⟩
theorem wit_CopiesMoveElements : engWho (cmdS ldC) (.copy 0) 0 0 0 = some copier ∧ (cmdS ldC).cmds[0]? = some ldC ∧ cmdsRun (cmdS ldC) G0 = true ∧
    rcd1.described = false ∧ boxCount rcd1 0x0001000100010001 = 1 ∧ inBounds rcd1 (elemCoord rcd1 0 0x0001000100010001 0) = true ∧
    inBounds rcd1 (elemCoord rcd1 1 0x0001000100010001 0) = false ∧ rcd1.clamp = false ∧
    (spadView (cmdS ldC) 0 0 0 4).isSome = true ∧ (spadView (cmdS ldC) 0 0 0xFFFFFF00 4).isNone = true ∧
    (match (engRead (cmdS ldC) copier 0x40000).1, (engRead (cmdS ldC) copier 0x30000).1 with
      | .ok (some 5), .park => true
      | _, _ => false) = true ∧
    (match (engWrite ((cmdS stC).useFree 128) copier false 0x40000 0xF 7).1 with
      | .ok true => true
      | _ => false) = true := ⟨rfl, by decide +kernel⟩
theorem wit_WalksWriteEntries : engWho (cmdS walkC) (.clearing 0) 0 0 0 = some clearer ∧ (cmdS walkC).cmds[0]? = some walkC ∧
    (match (engRead (cmdS walkC) clearer (elemAddr rcd2 [0, 0, 0, 0, 0])).1, (engRead (cmdS walkC) clearer (elemAddr rcd2 [1, 0, 0, 0, 0])).1 with
      | .ok (some 5), .ok (some 6) => true
      | _, _ => false) = true ∧ (spadView (cmdS walkC) 0 0 (listAt 0 0) 4).isSome = true ∧ (spadView (cmdS walkC) 0 0 (listAt 0 4) 4).isSome = true ∧
    (spadView (cmdS walkC) 0 0 (listAt 0xFFFFFF00 0) 4).isNone = true := ⟨rfl, by decide +kernel⟩

/-- The commit of bindS on a core that is not enabled, where a group stands already, and with a budget of 0. -/
def offS : State := { bindS with key := { bindS.key with config := [] } }
def zeroBudget : Launch := { launchOf 0 0 [] with rcd := { placeLaunch with cregs := 0 } }
theorem wit_RefusedCommitsStartNothing : (bindS.launches[0]?).any (fun l => (bindS.contexts[l.ctx]?).any fun c => (tenantOf bindS l.ctx).any fun t =>
      commitDue bindS c t l 0 0 && commitDue offS c t l 0 0 && slotsNamed l.rcd place1) = true ∧ coreOn offS 0 = false ∧
    zeroBudget.rcd.cregs = 0 ∧ 0 < zeroBudget.rcd.cgroups ∧ (slotHolder one 0 0).isSome = true ∧ G0.halt = none := by decide +kernel
theorem wit_lost_ways : overShare { rdy with tenants := [{ ten0 with rcd := { ten0.rcd with ways := 1 } }], shUse := [] } 0 = [] ∧
    waysOf { rdy with tenants := [{ ten0 with rcd := { ten0.rcd with ways := 1 } }] } 0 = 1 := by decide +kernel
/-- A copy of two words that lie in two pages, with a scout pass of one page. -/
def scoutC : Cmd := { ldC with scout := 1, kind := .copyLd 0 0 0x0001000100010002, rcd := { rcd1 with ext := [2, 1, 1, 1, 1], str := [65536, 0, 0, 0, 0] } }
theorem wit_scout : scouted (cmdS scoutC) 0 placeCtx 0x80000 .read = true ∧ scouted (cmdS scoutC) 0 placeCtx 0x40000 .read = false := by decide +kernel
theorem wit_far_packets : pktFar (2 ^ 56) = true ∧ pktFar (2 ^ 56 - 4) = false := by decide +kernel
/-- Both streams stand at words that are no instruction. -/
def bothS : State := { oneL with groups := [{ L0 with sc := { L0.sc with spc := 0x10000 } }] }
theorem wit_both_streams : (match runTurn (laneTurn bothS 0) with
      | .next t => causeTaken bothS t 0 && match runTurn (scalarTurn (besideLane bothS t 0) 0) with
        | .next u => causeTaken bothS u 0
        | _ => false
      | _ => false) = true := by decide +kernel
theorem empty_double (s : State) (h : s.dram = []) (hs : s.synd = []) (pa : Nat) : rawDouble s pa = 0 := by
  have : ∀ a, corrWord s a = 0 := fun a => by
    simp [corrWord, wordValue, wordSyn, wordFate, rawWord, memBytes, wordOf, memGet, h, hs]; decide
  simp [rawDouble, this]
/-- Where memory is empty and no frame is free, none is to be had. -/
theorem wit_no_frame (s : State) (f : OpenFault) (c : Context) (hc : s.contexts[f.ctx]? = some c) (hd : s.dram = []) (hs : s.synd = [])
    (hf : ∀ k, framesOf s k = []) (hr : ∀ k, (reserveOf c k).free = []) : frameSpent s f = true := by
  have e : ∀ st, evictable s c st f = [] := fun st => by simp [evictable, leavesBelow, empty_double s hd hs, leafV]
  simp [frameSpent, hc, hf, hr, e]
/-- A word in escrow, of which core 1 holds a partial, and core 0 one or none. -/
def escS (ps : List (Nat × W32)) : State := { cached G0 with lines := [{ lineAt 0 5 with st := .escrow .addI (some 5) ((1, 9) :: ps) }] }
theorem wit_EscrowUpdatesCombine : findLine (escS []) (lineKey 0 0x8000) = some { lineAt 0 5 with st := .escrow .addI (some 5) [(1, 9)] } ∧
    (findLine (escrowUpdate (escS [(0, 3)]) 0 (lineKey 0 0x8000) .addI 4 0x30000 none (some 0) ⟨true, true, false⟩) (lineKey 0 0x8000)).any (fun l =>
      l.st == .escrow .addI (some 5) [(1, 9), (0, 7)]) = true ∧
    findLine (cached G0) (lineKey 0 0x8000) = some (lineAt 0 5) ∧ (lineAt 0 5).st = .clean 5 [0] ∧ (escS []).shUse.any (fun p => p.1 == lineKey 0 0x8000 / 32) = true ∧
    (coreRivals (escS []) 0 (lineKey 0 0x8000 / 32)).length < 16 := by decide +kernel
/-- States whose schedule begins with a step beside an instruction: a copy at work makes its access, a stream reads a word ahead, and, past a
fault that is being served, the lane stream issues a store with one result row. -/
def besideS (a : Action) : State := { cmdS ldC with agenda := [a] }
def pastS : State := { served L0 (.lane 0) with agenda := [.issueAhead 0 1 true], oplog := [⟨0, .lane 0, 0x10000, none, 3, splat 9, splat 0, splat 0⟩] }
def stepGoes (s : State) (p : State → Bool) : Bool := match step s with
  | .next u => p u
  | _ => false
theorem wit_StepsBesideInstructions : cmdsRun (turnState (besideS (.advance 0 1 0)) []) G0 = true ∧ (besideS (.advance 0 1 0)).cmds[0]? = some ldC ∧
    stepGoes (besideS (.advance 0 1 0)) (fun u => (u.cmds[0]?).any (·.ended)) = true ∧
    stepGoes (besideS (.readAhead 0 false 0x40000)) (fun u => (u.early.getLast?).any fun e => e.group == 0 && !e.lane) = true ∧
    stepGoes pastS (fun u => (u.group? 0).any fun H => H.lane.ahead == 1 && H.lane.aheadRows == 1 && H.lane.aheadStores == 1) = true := by decide +kernel
/-- A chain that ended a step of MODE 2, before a word that is no follower. -/
def owedG : Group := { L0 with dbg := { L0.dbg with stepm := 2 }, lane := { L0.lane with chain := some ⟨0x10000, 1⟩ } }
theorem wit_step_owed : stepOwed { placeInstr State.reset true 12 0xAA7411C00080000000180000 with groups := [owedG] } 0 owedG = true := by decide +kernel
/-- The word at 0x10000 is not ready, and a group's stores wait. -/
theorem wit_waiting_collective : storesWait { collS with sq := [pw 0] } 0 = true ∧ storesWait collS 0 = false := by decide +kernel

end Sys2Proof.Tests
end

namespace Sys2Proof.Machine

/-! ### The checks of a selector (R57, R70) -/

/-- The privilege of a group is its context's. -/
theorem privOf_eq {s : State} {G : Group} {c : Context} (hc : s.ctxOf G = some c) : s.privOf G = c.priv := by
  simp only [State.privOf, hc]

theorem selCheck_unlisted {sel : Nat} (s : State) (G : Group) (write : Bool) (h : sel ∉ selectors) :
    selCheck s G sel write = some (.plain cILL) := by
  have unlisted : selectors.contains sel = false := by simpa using h
  simp only [selCheck, unlisted, Bool.not_false, if_true]

/-- A group may read a register when neither of the two privileges that its selector asks for is missing. -/
theorem mayRead_iff (G : Group) (c : Context) (sel : Nat) :
    mayRead G c sel ↔ ((handlerSel sel && !G.trap.hmode) || (privSel sel && !c.priv)) = false := by
  simp only [mayRead, handlerSel, privSel, Bool.or_eq_false_iff, Bool.and_eq_false_imp, List.contains_iff_mem, Bool.not_eq_false']

theorem mayWrite_iff (G : Group) (c : Context) (sel : Nat) :
    mayWrite G c sel ↔ ((handlerSel sel && !G.trap.hmode) || (privWriteSel sel && !c.priv)) = false := by
  rw [mayWrite, mayRead_iff]
  simp only [privWriteSel, Bool.or_eq_false_iff, Bool.and_eq_false_imp, Bool.or_eq_true, List.contains_iff_mem, Bool.not_eq_false',
    or_imp, and_assoc]

section
variable {s : State} {G : Group} {c : Context} {sel : Nat} (hc : s.ctxOf G = some c) (listed : sel ∈ selectors)
include hc listed

/-- The check of a listed selector is one of its privileges alone. -/
theorem selCheck_listed (write : Bool) : selCheck s G sel write =
    if (handlerSel sel && !G.trap.hmode) || ((if write then privWriteSel sel else privSel sel) && !c.priv) then some (selRaise sel)
    else none := by
  have known : selectors.contains sel = true := by simpa using listed
  simp only [selCheck, known, Bool.not_true, Bool.false_eq_true, if_false, privOf_eq hc]

theorem selCheck_read_passes (may : mayRead G c sel) : selCheck s G sel false = none := by
  rw [selCheck_listed hc listed]
  exact if_neg (by rw [Bool.not_eq_true]; exact (mayRead_iff G c sel).mp may)

theorem selCheck_read_fails (may : ¬ mayRead G c sel) : selCheck s G sel false = some (selRaise sel) := by
  rw [selCheck_listed hc listed]
  exact if_pos (by rw [mayRead_iff, Bool.not_eq_false] at may; exact may)

theorem selCheck_write_passes (may : mayWrite G c sel) : selCheck s G sel true = none := by
  rw [selCheck_listed hc listed]
  exact if_neg (by rw [Bool.not_eq_true]; exact (mayWrite_iff G c sel).mp may)

theorem selCheck_write_fails (may : ¬ mayWrite G c sel) : selCheck s G sel true = some (selRaise sel) := by
  rw [selCheck_listed hc listed]
  exact if_pos (by rw [mayWrite_iff, Bool.not_eq_false] at may; exact may)

end

/-- The number of a selector field. -/
theorem selector_toNat {sel : Nat} (h : sel < 2 ^ 13) : (BitVec.ofNat 13 sel).toNat = sel := by
  rw [BitVec.toNat_ofNat, Nat.mod_eq_of_lt h]

theorem selectors_lt {sel : Nat} (h : sel ∈ selectors) : sel < 2 ^ 13 :=
  (show ∀ n ∈ selectors, n < 2 ^ 13 by decide) sel h

/-! ### What GETC and SETC end with -/

section
variable {i : Instr} {s : State} {G : Group} {sel : Nat} {idle : Bool}

/-- What GETC and SETC of a register that is accessed in an idle lane stream alone do once it is idle. -/
theorem whenLaneIdle_idle {k : SRes} (ready : idle = true → G.laneIdle = true) :
    (if idle = true then whenLaneIdle s s.cur G k else k) = k := by
  split
  · next h => simp only [whenLaneIdle, ready h, if_true]
  · rfl

/-- A wait for the lane stream that can end. -/
theorem whenLaneIdle_waits {g : Nat} {k : SRes} (busy : G.laneIdle = false) (free : laneStuck s g G = false) :
    whenLaneIdle s g G k = .wait s := by
  simp only [whenLaneIdle, busy, free, Bool.false_eq_true, if_false]

theorem getSel_completes {c : Context} {d : SReg} (turn : ScalarTurn s G) (hc : s.ctxOf G = some c)
    (ex : exec i s = getSel s d sel idle) (listed : sel ∈ selectors) (may : mayRead G c sel)
    (ready : idle = true → G.laneIdle = true) : Completes i s s (G.setS d (readSel s G sel)) (G.sc.spc + 4) := by
  refine completes_write turn ex ?_
  simp only [selCheck_read_passes hc listed may]
  exact whenLaneIdle_idle ready

/-- GETC of a register that is read in an idle lane stream alone waits for a busy one. -/
theorem getSel_waits {d : SReg} (hg : s.group? s.cur = some G) (ex : exec i s = getSel s d sel true)
    (pass : selCheck s G sel false = none) (busy : G.laneIdle = false) (free : laneStuck s s.cur G = false) : exec i s = .next s := by
  refine ex.trans (runScalar_wait hg ?_)
  simp only [pass, if_true]
  exact whenLaneIdle_waits busy free

theorem getSel_traps {d : SReg} {r : Raise} (hg : s.group? s.cur = some G) (ex : exec i s = getSel s d sel idle)
    (bad : selCheck s G sel false = some r) : TrapsScalar i s G r :=
  runScalar_traps ex hg (by simp only [bad])

section
variable {c : Context} {a : SReg} {f : Nat → Group → W64 → State} (turn : ScalarTurn s G) (hc : s.ctxOf G = some c)
  (ex : exec i s = setSel s a sel idle f) (listed : sel ∈ selectors) (may : mayWrite G c sel)
  (ready : idle = true → G.laneIdle = true)
include turn hc ex listed may ready

/-- SETC of a register outside its group. -/
theorem setSel_completes {s' : State} (eff : f s.cur G (G.sreg a) = s') (grp : s'.group? s.cur = some G) :
    Completes i s s' G (G.sc.spc + 4) := by
  refine completes_same turn ex ?_ grp
  simp only [selCheck_write_passes hc listed may, eff]
  exact whenLaneIdle_idle ready

/-- SETC of a register of its group. -/
theorem setSel_completes_group {u : Group → Group} (eff : f s.cur G (G.sreg a) = s.modGroup s.cur u) :
    Completes i s s (u G) (G.sc.spc + 4) := by
  refine completes_set turn ex ?_ rfl
  simp only [selCheck_write_passes hc listed may, eff, modGroup_eq_setGroup u turn.1]
  exact whenLaneIdle_idle ready

end

theorem setSel_traps {a : SReg} {f : Nat → Group → W64 → State} {r : Raise} (hg : s.group? s.cur = some G)
    (ex : exec i s = setSel s a sel idle f) (bad : selCheck s G sel true = some r) : TrapsScalar i s G r :=
  runScalar_traps ex hg (by simp only [bad])

end

/-! ### The values that GETC reads -/

theorem zext64_eq_ofNat {n : Nat} (x : BitVec n) : zext64 x = BitVec.ofNat 64 x.toNat := (BitVec.ofNat_toNat 64 x).symm

/-- HBASE: the address from bit 2 on, and EN (R333). -/
theorem hbaseReg_eq (c : Context) : hbaseReg c = BitVec.ofNat 64 (4 * c.hbase.toNat + if c.hbaseEn then 1 else 0) := by
  apply BitVec.eq_of_toNat_eq
  have lt := c.hbase.isLt
  simp only [hbaseReg, BitVec.toNat_setWidth, BitVec.toNat_append, BitVec.toNat_ofBool, BitVec.toNat_ofNat]
  rw [← Nat.shiftLeft_add_eq_or_of_lt (by cases c.hbaseEn <;> decide)]
  cases c.hbaseEn <;> simp [Nat.shiftLeft_eq] <;> omega

/-- DELTA: BASE from bit 16 on, and LOGN (R292). -/
theorem deltaReg_eq (c : Context) : deltaReg c = BitVec.ofNat 64 (c.deltaBase.toNat * 2 ^ 16 + c.deltaLogn.toNat) := by
  apply BitVec.eq_of_toNat_eq
  have lt := c.deltaLogn.isLt
  simp only [deltaReg, BitVec.toNat_setWidth, BitVec.toNat_append, BitVec.toNat_ofNat]
  rw [← Nat.shiftLeft_add_eq_or_of_lt lt]
  simp [Nat.shiftLeft_eq]
  omega

theorem budgetReg_eq (G : Group) :
    budgetReg G = BitVec.ofNat 64 (G.spilled * 2 ^ 30 + G.pinned.length * 2 ^ 20 + G.held * 2 ^ 10 + G.bind.budget) := by
  simp [budgetReg, fields]

/-- What R70's table gives for a selector is what the part reads: of a listed one, other than XPOOL. -/
theorem readSel_systemValue {s : State} {G : Group} {c : Context} {t : Tenant} {sel : Nat} {v : W64} (hc : s.ctxOf G = some c)
    (ht : tenantOf s G.bind.ctx = some t) (h : systemValue s G c t sel = some v) : sel ∈ selectors ∧ readSel s G sel = v := by
  unfold systemValue at h
  split at h <;> cases h <;> refine ⟨by decide, ?_⟩
  case h_9 =>
    simp only [readSel, flanesReg]
    generalize G.trap.recs.toList.getD G.trap.cur none = current
    cases current <;> simp [shiftRight_eq_ofNat]
  all_goals
    simp [readSel, ctxReg, tenReg, hc, ht, zext64_eq_ofNat, hbaseReg_eq, deltaReg_eq, budgetReg_eq, recAddr]

/-- XPOOL of a group that has named no region (R313). -/
theorem xpoolRead_none (s : State) {G : Group} (h : G.wait.region = none) : xpoolRead s G = (BitVec.ofNat 64 (2 ^ 63), s) := by
  simp [xpoolRead, h, fields]

/-- XPOOL of a group's last region: its number, FREE and CAP (R313). -/
theorem xpoolRead_some {s s1 : State} {G : Group} {c : Context} {r : BitVec 8} {free cap : W32} (hc : s.ctxOf G = some c)
    (h : G.wait.region = some r) (counts : poolCounts s c r = ((free, cap), s1)) : xpoolRead s G =
      (BitVec.ofNat 64 (r.toNat * 2 ^ 48 + free.toNat % 2 ^ 24 * 2 ^ 24 + cap.toNat % 2 ^ 24), s1) := by
  simp [xpoolRead, h, hc, counts, fields]

theorem readSel_xpool (s : State) (G : Group) : readSel s G 0x040 = (xpoolRead s G).1 := rfl

/-- Reading a region's counts keeps what accesses to memory keep (R301). -/
theorem poolCounts_keeps {P : State → Prop} (st : MemStable P) {s : State} (c : Context) (r : BitVec 8) (h : P s) :
    P (poolCounts s c r).2 := by
  have read := physWords_keeps st [regionAt c r 16, regionAt c r 20] h
  unfold poolCounts
  split <;> next e =>
    rw [e] at read
    exact (st.rest read :)

/-- GETC of XPOOL is done with what the reads of the descriptor leave of the state. -/
theorem getcXpool_completes {s s1 : State} {G : Group} {d : SReg} {v : W64} (turn : ScalarTurn s G) (ready : G.laneIdle = true)
    (read : xpoolRead s G = (v, s1)) (len : s1.groups.length = s.groups.length) :
    Completes (.getcXpool d) s s1 (G.setS d v) (G.sc.spc + 4) := by
  refine completes_set turn rfl (f := fun g G => whenLaneIdle s g G (sWrite (xpoolRead s G).2 g G d (readSel s G 0x040))) ?_ len
  simp only [whenLaneIdle, ready, if_true, readSel_xpool, read]
  rfl

/-! ### GETC (R69, R70, R313) -/

/-- Settles O24: a listed register passes its check, and its value is the one that the part reads; FPSTAT and XPOOL are read where the lane
stream is idle, and wait where it is not. -/
theorem systemRegisterRead : Obligations.SystemRegisterRead := by
  unfold Obligations.SystemRegisterRead
  intro s G c t d sel v turn hc ht
  refine ⟨fun value may _ => ?_, fun ready => ?_, fun ready unnamed => ?_, fun ready r free cap s1 named counts => ?_, fun busy free => ?_⟩
  · obtain ⟨listed, rfl⟩ := readSel_systemValue hc ht value
    have number := selector_toNat (selectors_lt listed)
    exact getSel_completes (idle := false) turn hc (by simp only [exec_getc, execGetc, number]) listed may nofun
  · rw [← zext64_eq_ofNat]
    exact getSel_completes turn hc (exec_getcFpstat d s) (by decide) (by simp [mayRead]) fun _ => ready
  · exact getcXpool_completes turn ready (xpoolRead_none s unnamed) rfl
  · have out := snd_keeps counts (poolCounts_keeps (sameOutside_stable s) c r (.refl s))
    exact getcXpool_completes turn ready (xpoolRead_some hc named counts) (by rw [out.1])
  · have pass : selCheck s G 0x021 false = none := selCheck_read_passes hc (by decide) (by simp [mayRead])
    exact ⟨getSel_waits turn.1 (exec_getcFpstat d s) pass busy free,
      (exec_getcXpool d s).trans (runScalar_wait turn.1 (whenLaneIdle_waits busy free))⟩

end Sys2Proof.Machine

namespace Sys2Proof.Machine

/-! ### SETC (R70) -/

/-- A handler writes its own registers. -/
theorem mayWrite_of_handler {G : Group} (c : Context) {sel : Nat} (hm : G.trap.hmode = true) (free : privWriteSel sel = false) :
    mayWrite G c sel := by
  simp [mayWrite_iff, hm, free]

/-- A privileged context writes the registers that are no handler's. -/
theorem mayWrite_of_priv (G : Group) {c : Context} {sel : Nat} (priv : c.priv = true) (free : handlerSel sel = false) :
    mayWrite G c sel := by
  simp [mayWrite_iff, priv, free]

/-- Any program writes the registers that are neither. -/
theorem mayWrite_of_open (G : Group) (c : Context) {sel : Nat} (free : (handlerSel sel || privWriteSel sel) = false) :
    mayWrite G c sel := by
  simp only [Bool.or_eq_false_iff] at free
  simp [mayWrite_iff, free]

/-- Two changes of one context that agree on it are the same change. -/
theorem modCtx_congr {s : State} {n : Nat} {c : Context} {f g : Context → Context} (hc : s.contexts[n]? = some c) (eq : f c = g c) :
    s.modCtx n f = s.modCtx n g := by
  have : s.contexts.modify n f = s.contexts.modify n g := by
    apply List.ext_getElem?
    intro m
    simp only [List.getElem?_modify]
    by_cases h : n = m
    · subst h
      simp [hc, eq]
    · simp [h]
  simp only [State.modCtx, this]

/-! ### The fields that a write keeps or takes (R292, R295, R347) -/

/-- The low bits of a word, cut in either way. -/
theorem setWidth_eq_low {n m : Nat} (x : BitVec n) : (x.setWidth m : BitVec m) = x.extractLsb' 0 m := by
  ext; simp

theorem bitsOf_eq_low (x : W64) : bitsOf x.toNat 4 0 = (x.extractLsb' 0 5).toNat := by simp [bitsOf]

/-- WCTL takes its upper fields, and LOGW up to 16 (R347). -/
theorem wctlWrite_fields (old : BitVec 8) (x : W64) : (wctlWrite old x).extractLsb' 5 3 = x.extractLsb' 5 3 ∧
    (wctlWrite old x).extractLsb' 0 5 = if (x.extractLsb' 0 5).toNat ≤ 16 then x.extractLsb' 0 5 else old.extractLsb' 0 5 := by
  refine ⟨BitVec.extractLsb'_append_eq_left, BitVec.extractLsb'_append_eq_right.trans ?_⟩
  rw [bitsOf_eq_low, setWidth_eq_low, setWidth_eq_low]
  by_cases h : (x.extractLsb' 0 5).toNat ≤ 16
  · rw [if_neg (Nat.not_lt.mpr h), if_pos h]
  · rw [if_pos (Nat.lt_of_not_le h), if_neg h]

/-- The bits of a word put together as XLCTL is (R295). -/
theorem xlctl_bits (derr : BitVec 1) (top fsvc : BitVec 2) (low zero : BitVec 1) :
    (derr ++ top ++ fsvc ++ low ++ zero).getLsbD 6 = derr.getLsbD 0 ∧ (derr ++ top ++ fsvc ++ low ++ zero).getLsbD 5 = top.getLsbD 1 ∧
    (derr ++ top ++ fsvc ++ low ++ zero).getLsbD 4 = top.getLsbD 0 ∧ (derr ++ top ++ fsvc ++ low ++ zero).extractLsb' 2 2 = fsvc ∧
    (derr ++ top ++ fsvc ++ low ++ zero).getLsbD 1 = low.getLsbD 0 ∧ (derr ++ top ++ fsvc ++ low ++ zero).getLsbD 0 = zero.getLsbD 0 := by
  have middle : (derr ++ top ++ fsvc ++ low ++ zero).extractLsb' 2 2 = fsvc := by
    rw [BitVec.extractLsb'_append_eq_of_le (by decide), BitVec.extractLsb'_append_eq_of_le (by decide)]
    exact BitVec.extractLsb'_append_eq_right
  simp only [BitVec.getLsbD_append, middle]
  simp

/-- XLCTL as R295 has it: DERR is cleared by a 1 and never set, FSVC keeps its value under 3. -/
theorem xlctlWrite_fields (old : BitVec 7) (x : W64) :
    (xlctlWrite old x).getLsbD 6 = (old.getLsbD 6 && !x.getLsbD 6) ∧ (xlctlWrite old x).getLsbD 5 = x.getLsbD 5 ∧
    (xlctlWrite old x).getLsbD 4 = x.getLsbD 4 ∧
    (xlctlWrite old x).extractLsb' 2 2 = (if x.extractLsb' 2 2 = 3#2 then old.extractLsb' 2 2 else x.extractLsb' 2 2) ∧
    (xlctlWrite old x).getLsbD 1 = x.getLsbD 1 ∧ (xlctlWrite old x).getLsbD 0 = false := by
  obtain ⟨derr, enable, mode, fsvc, low, zero⟩ := xlctl_bits (BitVec.ofBool (old.getLsbD 6 && !x.getLsbD 6)) (x.extractLsb' 4 2)
    (if x.extractLsb' 2 2 = 3#2 then old.extractLsb' 2 2 else x.extractLsb' 2 2) (x.extractLsb' 1 1) 0#1
  exact ⟨derr.trans (by simp), enable.trans (by simp), mode.trans (by simp), fsvc, low.trans (by simp), zero⟩

/-- LOGN takes 6 to 20 (R292). -/
theorem lognWrite_eq (old : BitVec 5) (x : W64) : lognWrite old x =
    if 6 ≤ (x.extractLsb' 0 5).toNat ∧ (x.extractLsb' 0 5).toNat ≤ 20 then x.extractLsb' 0 5 else old := by
  rw [lognWrite, bitsOf_eq_low, setWidth_eq_low]

section
variable {s : State} {G : Group} {c : Context} {a : SReg} (turn : ScalarTurn s G) (hc : s.ctxOf G = some c)
include turn hc

/-- A read-only register keeps its value: SETC of any selector but EPCS's has no effect (R70). -/
theorem setc_readOnly_completes {sel : Nat} (listed : sel ∈ selectors) (may : mayWrite G c sel) (ro : sel ≠ 0x011) :
    Completes (.setc a (BitVec.ofNat 13 sel)) s s G (G.sc.spc + 4) := by
  have number := selector_toNat (selectors_lt listed)
  have plain : BitVec.ofNat 13 sel ≠ 0x011#13 := fun e => ro (number.symm.trans (congrArg BitVec.toNat e))
  exact setSel_completes (idle := false) turn hc (by rw [exec_setc, execSetc, number]) listed may nofun
    (if_neg plain) turn.1

/-- EPCS, the one writable register that SETC of a general selector names (R333). -/
theorem setcEpcs_completes (hm : G.trap.hmode = true) : Completes (.setc a 0x011#13) s s
    { G with trap := { G.trap with epcs := G.sreg a &&& 0x00FFFFFFFFFFFFFC#64 } } (G.sc.spc + 4) :=
  setSel_completes_group (u := fun G' => { G' with trap := { G'.trap with epcs := G.sreg a &&& 0x00FFFFFFFFFFFFFC#64 } }) turn hc
    (exec_setc a 0x011#13 s) (by decide) (mayWrite_of_handler c hm rfl) nofun rfl

/-- CAUSE, EPCS and EPCL in a handler (R332, R333). -/
theorem setc_handler_completes (hm : G.trap.hmode = true) :
    Completes (.setcCause a) s s
      { G with trap := { G.trap with cause := G.trap.cause &&& G.sreg a &&& 0x80000000001FFFFF#64 } } (G.sc.spc + 4) ∧
    Completes (.setc a 0x011#13) s s { G with trap := { G.trap with epcs := G.sreg a &&& 0x00FFFFFFFFFFFFFC#64 } } (G.sc.spc + 4) ∧
    Completes (.setcEpcl a) s s
      { G with trap := { G.trap with epcl := G.sreg a &&& 0x80FFFFFFFFFFFFFF#64, epclSet := true } } (G.sc.spc + 4) :=
  ⟨setSel_completes_group turn hc (exec_setcCause a s) (by decide) (mayWrite_of_handler c hm rfl) nofun rfl,
    setcEpcs_completes turn hc hm,
    setSel_completes_group turn hc (exec_setcEpcl a s) (by decide) (mayWrite_of_handler c hm rfl) nofun rfl⟩

/-- SCOUT takes a value up to 63 (R194). -/
theorem setcScout_completes : Completes (.setcScout a) s s
    { G with sc := if 63 < (G.sreg a).toNat then G.sc else { G.sc with scout := (G.sreg a).setWidth 6 } } (G.sc.spc + 4) :=
  setSel_completes_group turn hc (exec_setcScout a s) (by decide) (mayWrite_of_open G c rfl) nofun rfl

/-- FPCTL and FPSTAT once the lane stream is idle (R141). -/
theorem setc_float_completes (ready : G.laneIdle = true) :
    Completes (.setcFpctl a) s s { G with sc := { G.sc with fpctl := (G.sreg a).setWidth 4 } } (G.sc.spc + 4) ∧
    Completes (.setcFpstat a) s s { G with sc := { G.sc with fpstat := G.sc.fpstat &&& ~~~((G.sreg a).setWidth 4) } } (G.sc.spc + 4) :=
  ⟨setSel_completes_group turn hc (exec_setcFpctl a s) (by decide) (mayWrite_of_open G c rfl) (fun _ => ready) rfl,
    setSel_completes_group turn hc (exec_setcFpstat a s) (by decide) (mayWrite_of_open G c rfl) (fun _ => ready) rfl⟩

section
variable (priv : c.priv = true)
include priv

/-- HBASE is its context's (R333). -/
theorem setcHbase_completes : Completes (.setcHbase a) s
    (s.modCtx G.bind.ctx fun c => { c with hbase := (G.sreg a).extractLsb' 2 54, hbaseEn := (G.sreg a).getLsbD 0 }) G (G.sc.spc + 4) :=
  setSel_completes turn hc (exec_setcHbase a s) (by decide) (mayWrite_of_priv G priv rfl) nofun rfl turn.1

variable (ready : G.laneIdle = true)
include ready

/-- STEPM ignores 3 (R338). -/
theorem setcStepm_completes : Completes (.setcStepm a) s s
    { G with dbg := if (G.sreg a).setWidth 2 = 3#2 then G.dbg else { G.dbg with stepm := (G.sreg a).setWidth 2 } } (G.sc.spc + 4) :=
  setSel_completes_group turn hc (exec_setcStepm a s) (by decide) (mayWrite_of_priv G priv rfl) (fun _ => ready) rfl

theorem setcWaddr_completes : Completes (.setcWaddr a) s s
    { G with dbg := { G.dbg with waddr := G.sreg a &&& 0x00FFFFFFFFFFFFFC#64 } } (G.sc.spc + 4) :=
  setSel_completes_group turn hc (exec_setcWaddr a s) (by decide) (mayWrite_of_priv G priv rfl) (fun _ => ready) rfl

theorem setcWctl_completes : Completes (.setcWctl a) s s
    { G with dbg := { G.dbg with wctl := wctlWrite G.dbg.wctl (G.sreg a) } } (G.sc.spc + 4) :=
  setSel_completes_group turn hc (exec_setcWctl a s) (by decide) (mayWrite_of_priv G priv rfl) (fun _ => ready) rfl

/-- XLCTL is its context's (R295). -/
theorem setcXlctl_completes : Completes (.setcXlctl a) s
    (s.modCtx G.bind.ctx fun d => { d with xlctl := xlctlWrite c.xlctl (G.sreg a) }) G (G.sc.spc + 4) := by
  refine setSel_completes turn hc (exec_setcXlctl a s) (by decide) (mayWrite_of_priv G priv rfl) (fun _ => ready) ?_ turn.1
  exact modCtx_congr hc rfl

/-- DELTA is its context's (R292). -/
theorem setcDelta_completes : Completes (.setcDelta a) s (s.modCtx G.bind.ctx fun d =>
    { d with deltaBase := (G.sreg a).extractLsb' 16 40, deltaLogn := lognWrite c.deltaLogn (G.sreg a) }) G (G.sc.spc + 4) := by
  refine setSel_completes turn hc (exec_setcDelta a s) (by decide) (mayWrite_of_priv G priv rfl) (fun _ => ready) ?_ turn.1
  exact modCtx_congr hc rfl

end

end
/-! ### VACATE (R70, R365) -/

theorem bitsOf_low_word (x : W64) : bitsOf x.toNat 31 0 = (x.setWidth 32).toNat := by simp [bitsOf]

section
variable {s : State} {G : Group} {a : SReg} (hg : s.group? s.cur = some G)
include hg

/-- SETC of VACATE that fails its check, or asks for no time, posts no request. -/
theorem setcVacate_plain (quiet : (selCheck s G 0x051 true).isSome = true ∨ ((G.sreg a).setWidth 32).toNat = 0) :
    exec (.setcVacate a) s = setSel s a 0x051 false fun _ _ _ => s := by
  rw [exec_setcVacate, execSetcVacate, hg]
  rw [← bitsOf_low_word] at quiet
  cases setSel s a 0x051 false fun _ _ _ => s with
  | next t =>
    simp only [quiet, if_true]
    cases s.ctxOf G <;> rfl
  | _ => rfl

/-- SETC of VACATE retires, and then posts its request. -/
theorem setcVacate_posts {c : Context} (hc : s.ctxOf G = some c) (priv : c.priv = true) (asked : ((G.sreg a).setWidth 32).toNat ≠ 0) :
    exec (.setcVacate a) s = .next (postVacate (scalarRetire s s.cur G.dbg.stepm G.trap.hmode G.sc.spc (G.sc.spc + 4)) c.tenant
      ((G.sreg a).setWidth 32).toNat ((G.sreg a).extractLsb' 58 3) none).2 := by
  have pass : selCheck s G 0x051 true = none := selCheck_write_passes hc (by decide) (mayWrite_of_priv G priv rfl)
  have retire : setSel s a 0x051 false (fun _ _ _ => s) =
      .next (scalarRetire s s.cur G.dbg.stepm G.trap.hmode G.sc.spc (G.sc.spc + 4)) := by
    simp only [setSel, runScalar, hg, pass]
    rfl
  rw [exec_setcVacate, execSetcVacate, hg, retire]
  simp only [hc, pass, bitsOf_low_word, Option.isSome_none, Bool.false_eq_true, false_or]
  exact if_neg asked

end

/-- Settles O25: SETC passes its check, waits for nothing where the lane stream is idle, and leaves of its register what the field rules
say. -/
theorem systemRegisterWrite : Obligations.SystemRegisterWrite := by
  unfold Obligations.SystemRegisterWrite
  rintro s G c a _ turn hc rfl
  refine ⟨setc_handler_completes turn hc, fun small => ?_, fun large => ?_, fun sel readOnly may => ?_, setc_float_completes turn hc,
    fun priv => ⟨setcHbase_completes turn hc priv, fun zero => ?_, setcVacate_posts turn.1 hc priv⟩, fun priv ready =>
    ⟨fun three => ?_, fun other => ?_, setcWaddr_completes turn hc priv ready,
      ⟨_, setcWctl_completes turn hc priv ready, wctlWrite_fields _ _⟩, ⟨_, setcXlctl_completes turn hc priv ready, xlctlWrite_fields _ _⟩,
      ⟨_, setcDelta_completes turn hc priv ready, lognWrite_eq _ _⟩⟩⟩
  · have scout := setcScout_completes (a := a) turn hc
    rwa [if_neg (Nat.not_lt.mpr small)] at scout
  · have scout := setcScout_completes (a := a) turn hc
    rwa [if_pos large] at scout
  · have listed : sel ∈ selectors ∧ sel ≠ 0x011 := (show ∀ n ∈ [0x001, 0x002, 0x003, 0x004, 0x005, 0x013, 0x014, 0x019, 0x022, 0x023,
      0x030, 0x033, 0x040, 0x050], n ∈ selectors ∧ n ≠ 0x011 by decide) sel readOnly
    exact setc_readOnly_completes turn hc listed.1 may listed.2
  · exact setSel_completes turn hc (setcVacate_plain turn.1 (.inr zero)) (by decide) (mayWrite_of_priv G priv rfl) nofun rfl turn.1
  · have stepm := setcStepm_completes (a := a) turn hc priv ready
    rwa [setWidth_eq_low, if_pos three] at stepm
  · have stepm := setcStepm_completes (a := a) turn hc priv ready
    rwa [setWidth_eq_low, if_neg other] at stepm

/-! ### Selectors that trap (R57, R70) -/

/-- A register with a privilege is listed. -/
theorem privWriteSel_listed {sel : Nat} (h : privWriteSel sel = true) : sel ∈ selectors := by
  simp only [privWriteSel, privSel, Bool.or_eq_true, List.contains_iff_mem, ← List.mem_append] at h
  exact (show ∀ n ∈ [0x015, 0x016, 0x017, 0x018, 0x023, 0x032] ++ [0x031, 0x051], n ∈ selectors by decide) sel h

theorem handlerSel_listed {sel : Nat} (h : handlerSel sel = true) : sel ∈ selectors := by
  simp only [handlerSel, List.contains_iff_mem] at h
  exact (show ∀ n ∈ [0x010, 0x011, 0x012, 0x013, 0x014], n ∈ selectors by decide) sel h

/-- A privileged register may not be written without privilege, nor a handler's outside a handler. -/
theorem not_mayWrite_of_user (G : Group) {c : Context} {sel : Nat} (user : c.priv = false) (closed : privWriteSel sel = true) :
    ¬ mayWrite G c sel := by
  simp [mayWrite_iff, user, closed]

theorem not_mayWrite_outside {G : Group} (c : Context) {sel : Nat} (outside : G.trap.hmode = false) (closed : handlerSel sel = true) :
    ¬ mayWrite G c sel := by
  simp [mayWrite_iff, outside, closed]

section
variable {i : Instr} {s : State} {G : Group} {c : Context} {sel : Nat} {idle : Bool} {a : SReg} {f : Nat → Group → W64 → State}
  (hg : s.group? s.cur = some G) (hc : s.ctxOf G = some c)
include hg hc

theorem setSel_traps_of_user (user : c.priv = false) (closed : privWriteSel sel = true) (ex : exec i s = setSel s a sel idle f) :
    TrapsScalar i s G (selRaise sel) :=
  setSel_traps hg ex (selCheck_write_fails hc (privWriteSel_listed closed) (not_mayWrite_of_user G user closed))

theorem setSel_traps_outside (outside : G.trap.hmode = false) (closed : handlerSel sel = true) (ex : exec i s = setSel s a sel idle f) :
    TrapsScalar i s G (selRaise sel) :=
  setSel_traps hg ex (selCheck_write_fails hc (handlerSel_listed closed) (not_mayWrite_outside c outside closed))

end

/-- Settles O26: the check of a selector answers ILL or PRIV before anything is read, written or waited for. -/
theorem systemRegisterTraps : Obligations.SystemRegisterTraps := by
  unfold Obligations.SystemRegisterTraps
  intro s G c d sel hg hc lt
  have number := selector_toNat lt
  have getc : exec (.getc d (BitVec.ofNat 13 sel)) s = getSel s d sel false := by rw [exec_getc, execGetc, number]
  have setc : ∃ f, exec (.setc d (BitVec.ofNat 13 sel)) s = setSel s d sel false f := ⟨_, by rw [exec_setc, execSetc, number]⟩
  obtain ⟨f, setc⟩ := setc
  refine ⟨fun unlisted => ⟨getSel_traps hg getc (selCheck_unlisted s G false unlisted), setSel_traps hg setc (selCheck_unlisted s G true unlisted)⟩,
    fun listed may => getSel_traps hg getc (selCheck_read_fails hc listed may),
    fun listed may => setSel_traps hg setc (selCheck_write_fails hc listed may), fun user p mem => ?_, fun outside p mem => ?_⟩
  · have vacate : selCheck s G 0x051 true = some (selRaise 0x051) :=
      selCheck_write_fails hc (by decide) (not_mayWrite_of_user G user rfl)
    simp only [List.mem_cons, List.not_mem_nil, or_false] at mem
    rcases mem with rfl | rfl | rfl | rfl | rfl | rfl | rfl
    · exact setSel_traps_of_user hg hc user rfl (exec_setcXlctl d s)
    · exact setSel_traps_of_user hg hc user rfl (exec_setcDelta d s)
    · exact setSel_traps hg (setcVacate_plain hg (.inl (by rw [vacate]; rfl))) vacate
    · exact setSel_traps_of_user hg hc user rfl (exec_setcHbase d s)
    · exact setSel_traps_of_user hg hc user rfl (exec_setcStepm d s)
    · exact setSel_traps_of_user hg hc user rfl (exec_setcWaddr d s)
    · exact setSel_traps_of_user hg hc user rfl (exec_setcWctl d s)
  · simp only [List.mem_cons, List.not_mem_nil, or_false] at mem
    rcases mem with rfl | rfl
    · exact setSel_traps_outside hg hc outside rfl (exec_setcCause d s)
    · exact setSel_traps_outside hg hc outside rfl (exec_setcEpcl d s)

end Sys2Proof.Machine

namespace Sys2Proof.Machine

/-! ### Conditions (R65, R134, R139) -/

/-- The mask of the lanes of which a test holds, as the mask of their list. -/
theorem maskWhere_eq_maskOf (p : Fin 32 → Bool) : maskWhere p = maskOf (((List.finRange 32).filter p).map Fin.val) := by
  rw [maskOf, List.foldl_map, List.foldl_filter]
  rfl

theorem maskWhere_getLsbD (p : Fin 32 → Bool) (l : Fin 32) : (maskWhere p).getLsbD l = true ↔ p l = true := by
  rw [maskWhere_eq_maskOf, maskOf_getLsbD l.val _ l.isLt]
  simp [Fin.val_inj]

/-- A condition on two integers, from their order and their equality (R65). -/
theorem condHolds_iff (v : BitVec 3) (a b : Int) : condHolds v (decide (a < b)) (decide (a = b)) = true ↔ intCond v a b := by
  unfold condHolds intCond
  rcases v.toNat with _ | _ | _ | _ | _ | _ | n
  all_goals
    simp only [Bool.and_eq_true, Bool.or_eq_true, Bool.not_eq_true', decide_eq_true_eq, decide_eq_false_iff_not] <;> omega

theorem sgn_eq (neg : Bool) (n : Nat) : sgn neg n = (if neg then -1 else 1) * (n : Int) := by
  cases neg <;> simp [sgn]

/-- The order of two values is the one that the part computes. -/
theorem fvalLt_iff (a b : FVal) : fvalLt a b = true ↔ valueLt a b := by
  cases a <;> cases b <;> simp [fvalLt, valueLt, unitsOf2, sgn_eq]

theorem isNaN_iff (a : FVal) : a.isNaN = true ↔ isNan a false := by
  cases a <;> simp [FVal.isNaN, isNan]

theorem isSNaN_iff (a : FVal) : a.isSNaN = true ↔ isNan a true := by
  cases a <;> simp [FVal.isSNaN, isNan]

/-- Two values are equal when neither is a NaN or below the other. -/
theorem fvalEq_iff (a b : FVal) : fvalEq a b = true ↔ ¬ (isNan a false ∨ isNan b false) ∧ ¬ valueLt a b ∧ ¬ valueLt b a := by
  simp only [fvalEq, ← isNaN_iff, ← fvalLt_iff, Bool.and_eq_true, Bool.not_eq_true', Bool.not_eq_true, not_or, and_assoc]

/-- No value lies both below and above another. -/
theorem valueLt_asymm {a b : FVal} (h : valueLt a b) : ¬ valueLt b a := by
  cases a <;> cases b <;> simp only [valueLt, not_and, Bool.not_eq_true, Int.not_lt] at h ⊢
  case fin.fin x m e y n g =>
    rw [Int.min_comm g e]
    exact Int.le_of_lt h
  all_goals simp [h]

/-- FCMP's condition is the one of R139. -/
theorem fcmpOne_cond (t : LTy) (v : BitVec 3) (a b : LVal) :
    (fcmpOne t v a b).1 = true ↔ floatCond v (fvalOf t a) (fvalOf t b) := by
  have asymm := valueLt_asymm (a := fvalOf t a) (b := fvalOf t b)
  simp only [fcmpOne, floatCond]
  rcases v.toNat with _ | _ | _ | _ | _ | _ | n
  all_goals
    simp only [Bool.and_eq_true, Bool.or_eq_true, Bool.not_eq_true', ← Bool.not_eq_true, fvalEq_iff, fvalLt_iff, isNaN_iff] <;> grind

/-- A comparison sets invalid for a signalling NaN, and where its condition is not eq, ne or un for any NaN. -/
theorem compareInvalid_iff (v : BitVec 3) (a b : FVal) : compareInvalid v a b ↔
    (a.isSNaN || b.isSNaN || ((a.isNaN || b.isNaN) && !(v.toNat == 0 || v.toNat == 1 || v.toNat == 6))) = true := by
  have signalling (x : FVal) (h : isNan x true) : isNan x false := h.imp fun _ e => ⟨e.1, nofun⟩
  simp only [compareInvalid, Bool.or_eq_true, Bool.and_eq_true, Bool.not_eq_true', ← Bool.not_eq_true, beq_iff_eq, isNaN_iff, isSNaN_iff]
  by_cases quiet : v.toNat = 0 ∨ v.toNat = 1 ∨ v.toNat = 6
  · have := or_assoc.mpr quiet
    simp [quiet, this]
  · have := mt or_assoc.mp quiet
    simp only [quiet, this, decide_false, not_false_eq_true, and_true]
    have := signalling a
    have := signalling b
    grind

theorem fcmpOne_invalid {t : LTy} {v : BitVec 3} {a b : LVal} (h : compareInvalid v (fvalOf t a) (fvalOf t b)) :
    (fcmpOne t v a b).2 = flagNV := if_pos ((compareInvalid_iff _ _ _).mp h)

theorem fcmpOne_quiet {t : LTy} {v : BitVec 3} {a b : LVal} (h : ¬ compareInvalid v (fvalOf t a) (fvalOf t b)) :
    (fcmpOne t v a b).2 = 0 := if_neg (mt (compareInvalid_iff _ _ _).mpr h)

/-! ### The end of a comparison (R134, R139, R141, R142) -/

/-- A comparison that raises no enabled flag: the flags are added, and its result written. -/
theorem compare_done {x : LaneIn} {m : Mask} {rs : Lanes LaneRes} {fl : FFlags} (nc : x.clash = false) (hf : flagsOf x.act rs = fl)
    (ok : ∀ l : Fin 32, x.act.getLsbD l = true → (rs[l]).fl &&& x.G.sc.fpctl = 0) :
    x.compare m rs = .done (x.s.setGroup x.g (laneCompared x (withFlags x.G fl) m)) (x.pc + 12) := by
  unfold LaneIn.compare LaneIn.flagged LaneIn.flags LaneIn.fpx LaneIn.putMask
  simp only [nc, Bool.false_and, Bool.not_false, Bool.true_and]
  rw [if_neg (by rw [fpxLanes_nil ok]; simp), hf]
  rfl

/-- Lanes that raise nothing raise nothing together. -/
theorem flagsOf_zero {m : Mask} {rs : Lanes LaneRes} (quiet : ∀ l : Fin 32, m.getLsbD l = true → (rs[l]).fl = 0) : flagsOf m rs = 0 := by
  refine flagsOf_unique fun n _ => ⟨fun h => by simp at h, ?_⟩
  rintro ⟨l, act, h⟩
  rw [quiet l act] at h
  simp at h

/-- Lanes of which each raises the same flags or none raise those flags together, when one of them does. -/
theorem flagsOf_same {m : Mask} {rs : Lanes LaneRes} {fl : FFlags} (only : ∀ l : Fin 32, (rs[l]).fl = fl ∨ (rs[l]).fl = 0)
    (one : ∃ l : Fin 32, m.getLsbD l = true ∧ (rs[l]).fl = fl) : flagsOf m rs = fl := by
  obtain ⟨l, act, raises⟩ := one
  refine flagsOf_unique fun n _ => ⟨fun h => ⟨l, act, by rwa [raises]⟩, ?_⟩
  rintro ⟨k, -, h⟩
  rcases only k with e | e
  · rwa [e] at h
  · rw [e] at h
    simp at h

/-- A comparison without flags (R134). -/
theorem compare_quiet {x : LaneIn} {m : Mask} (nc : x.clash = false) :
    x.compare m (splat ⟨0, 0⟩) = .done (x.s.setGroup x.g (laneCompared x x.G m)) (x.pc + 12) := by
  have zero (l : Fin 32) : ((splat ⟨0, 0⟩ : Lanes LaneRes)[l]).fl = 0 := by simp [splat]
  rw [compare_done nc (flagsOf_zero fun l _ => zero l) fun l _ => by rw [zero]; exact BitVec.zero_and]
  rw [withFlags, fpstat_or_zero]

/-- A comparison with an enabled flag: the flags are added, and FPX is raised (R142). -/
theorem compare_trap {x : LaneIn} {m : Mask} {rs : Lanes LaneRes} {fl : FFlags} (nc : x.clash = false) (hf : flagsOf x.act rs = fl)
    {l : Fin 32} (act : x.act.getLsbD l = true) (raises : (rs[l]).fl &&& x.G.sc.fpctl ≠ 0) :
    x.compare m rs = .trap (x.s.setGroup x.g (withFlags x.G fl)) (fpxRaise x.act x.G.sc.fpctl rs) := by
  have some := mem_fpxLanes.mpr ⟨l.isLt, act, raises⟩
  unfold LaneIn.compare LaneIn.flagged LaneIn.flags LaneIn.fpx
  simp only [nc, Bool.false_and, Bool.not_false, Bool.true_and]
  rw [if_pos (by simpa using List.ne_nil_of_mem some), hf]
  rfl

/-! ### ICMP (R134) -/

/-- The lanes in which ICMP's condition holds. -/
def icmpMask (x : LaneIn) : Mask :=
  maskWhere fun i => condHolds x.f.var (decide (intOf x.f.ty x.a[i] < intOf x.f.ty x.b[i])) (decide (intOf x.f.ty x.a[i] = intOf x.f.ty x.b[i]))

theorem icmpBody_done {x : LaneIn} (nc : x.clash = false) :
    icmpBody x = .done (x.s.setGroup x.g (laneCompared x x.G (icmpMask x))) (x.pc + 12) := compare_quiet nc

theorem laneCompareResult : Claim.LaneCompareResult := fun s x =>
  ⟨icmpMask x, fun l => (maskWhere_getLsbD _ l).trans (condHolds_iff _ _ _),
    fun ready => laneRetires_of ready rfl (exec_icmp x.f s) (icmpBody_done ready.free),
    fun ready => laneRetires_of ready rfl (exec_icmpImm x.f s) (icmpBody_done ready.free)⟩

/-! ### FCMP (R139, R141, R142) -/

/-- The lanes in which FCMP's condition holds, and what each lane raises. -/
def fcmpMask (x : LaneIn) : Mask := maskWhere fun i => (fcmpOne x.f.ty x.f.var x.a[i] x.b[i]).1
def fcmpFlags (x : LaneIn) : Lanes LaneRes := Vector.ofFn fun i => ⟨0, (fcmpOne x.f.ty x.f.var x.a[i] x.b[i]).2⟩

/-- The comparison of a lane sets invalid. -/
def laneInvalid (x : LaneIn) (l : Fin 32) : Prop := compareInvalid x.f.var (fvalOf x.f.ty x.a[l]) (fvalOf x.f.ty x.b[l])

theorem fcmpBody_eq (x : LaneIn) : fcmpBody x = x.compare (fcmpMask x) (fcmpFlags x) := rfl

theorem fcmpFlags_invalid {x : LaneIn} {l : Fin 32} (h : laneInvalid x l) : ((fcmpFlags x)[l]).fl = flagNV := by
  simpa [fcmpFlags] using fcmpOne_invalid h

theorem fcmpFlags_quiet {x : LaneIn} {l : Fin 32} (h : ¬ laneInvalid x l) : ((fcmpFlags x)[l]).fl = 0 := by
  simpa [fcmpFlags] using fcmpOne_quiet h

/-- A lane of FCMP raises invalid or nothing. -/
theorem fcmpFlags_cases (x : LaneIn) (l : Fin 32) : ((fcmpFlags x)[l]).fl = flagNV ∨ ((fcmpFlags x)[l]).fl = 0 :=
  (Classical.em (laneInvalid x l)).imp fcmpFlags_invalid fcmpFlags_quiet

/-- What FCMP adds to FPSTAT: invalid when an active lane sets it, else nothing. -/
theorem fcmp_flagsOf_invalid {x : LaneIn} (h : ∃ l : Fin 32, x.act.getLsbD l = true ∧ laneInvalid x l) :
    flagsOf x.act (fcmpFlags x) = flagNV :=
  flagsOf_same (fcmpFlags_cases x) (h.imp fun _ a => ⟨a.1, fcmpFlags_invalid a.2⟩)

theorem fcmp_flagsOf_quiet {x : LaneIn} (h : ∀ l : Fin 32, x.act.getLsbD l = true → ¬ laneInvalid x l) :
    flagsOf x.act (fcmpFlags x) = 0 :=
  flagsOf_zero fun l act => fcmpFlags_quiet (h l act)

/-- Invalid is one bit: enabled, it is all that is enabled of it. -/
theorem flagNV_enabled : ∀ en : BitVec 4, flagNV &&& en ≠ 0 → flagNV &&& en = flagNV := by decide

/-- FCMP without an enabled flag retires. -/
theorem fcmpBody_done {x : LaneIn} (nc : x.clash = false) (off : flagsOf x.act (fcmpFlags x) &&& x.G.sc.fpctl = 0) :
    fcmpBody x = .done (x.s.setGroup x.g (laneCompared x (withFlags x.G (flagsOf x.act (fcmpFlags x))) (fcmpMask x))) (x.pc + 12) := by
  refine (fcmpBody_eq x).trans (compare_done nc rfl fun l act => ?_)
  by_cases inv : laneInvalid x l
  · rw [fcmp_flagsOf_invalid ⟨l, act, inv⟩] at off
    rw [fcmpFlags_invalid inv, off]
  · rw [fcmpFlags_quiet inv]
    exact BitVec.zero_and

/-- Where FCMP raises an enabled flag, an active lane sets invalid, and invalid is enabled. -/
theorem fcmp_enabled {x : LaneIn} (on : flagsOf x.act (fcmpFlags x) &&& x.G.sc.fpctl ≠ 0) :
    (∃ l : Fin 32, x.act.getLsbD l = true ∧ laneInvalid x l) ∧ flagNV &&& x.G.sc.fpctl ≠ 0 := by
  have inv : ∃ l : Fin 32, x.act.getLsbD l = true ∧ laneInvalid x l := by
    refine Classical.byContradiction fun none => on ?_
    rw [fcmp_flagsOf_quiet fun l act inv => none ⟨l, act, inv⟩]
    exact BitVec.zero_and
  exact ⟨inv, by rwa [fcmp_flagsOf_invalid inv] at on⟩

/-- The FPX of FCMP: in the lanes that set invalid, which alone is reported (R142). -/
theorem fcmp_raise {x : LaneIn} (on : flagsOf x.act (fcmpFlags x) &&& x.G.sc.fpctl ≠ 0) :
    (fpxRaise x.act x.G.sc.fpctl (fcmpFlags x)).aux0 = BitVec.ofNat 64 flagNV.toNat ∧
    ∀ l : Fin 32, (fpxRaise x.act x.G.sc.fpctl (fcmpFlags x)).lanes.getLsbD l = true ↔ x.act.getLsbD l = true ∧ laneInvalid x l := by
  obtain ⟨inv, enabled⟩ := fcmp_enabled on
  refine ⟨?_, fun l => ?_⟩
  · simp only [fpxRaise, fcmp_flagsOf_invalid inv, flagNV_enabled _ enabled]
    rfl
  · simp only [fpxRaise]
    rw [maskOf_getLsbD l.val _ l.isLt, mem_fpxLanes]
    have raises : ((fcmpFlags x)[l]).fl &&& x.G.sc.fpctl ≠ 0 ↔ laneInvalid x l := by
      by_cases inv : laneInvalid x l
      · simp only [fcmpFlags_invalid inv, inv, enabled, not_false_eq_true, ne_eq]
      · simp only [fcmpFlags_quiet inv, inv, iff_false, Classical.not_not, ne_eq]
        exact BitVec.zero_and
    exact ⟨fun ⟨_, act, on⟩ => ⟨act, raises.mp on⟩, fun ⟨act, inv⟩ => ⟨l.isLt, act, raises.mpr inv⟩⟩

/-- FCMP with an enabled flag, in either of its forms, raises FPX. -/
theorem fcmp_traps {s : State} {x : LaneIn} {i : Instr} {op : Nat} (ready : LaneReady s i false x) (parts : laneParts i = some (op, x.f))
    (ex : exec i s = runLane s (op % 512) x.f false fcmpBody) (on : flagsOf x.act (fcmpFlags x) &&& x.G.sc.fpctl ≠ 0) :
    TrapsLane i s (x.s.setGroup x.g (withFlags x.G (flagsOf x.act (fcmpFlags x)))) (withFlags x.G (flagsOf x.act (fcmpFlags x)))
      (fpxRaise x.act x.G.sc.fpctl (fcmpFlags x)) := by
  obtain ⟨⟨l, act, inv⟩, enabled⟩ := fcmp_enabled on
  have place := (runLane_ready ready parts fcmpBody).1
  refine lane_traps ready parts ex ((fcmpBody_eq x).trans (compare_trap ready.free rfl act ?_)) ?_ place.pc.symm
  · rwa [fcmpFlags_invalid inv]
  · rw [place.group]
    exact group?_setGroup_same _ place.here

theorem laneFloatCompareResult : Claim.LaneFloatCompareResult := by
  intro s x
  refine ⟨fcmpMask x, flagsOf x.act (fcmpFlags x), fun l => (maskWhere_getLsbD _ l).trans (fcmpOne_cond _ _ _ _), fcmp_flagsOf_invalid,
    fcmp_flagsOf_quiet, fun off => ⟨fun ready => ?_, fun ready => ?_⟩, fun on i form ready => ?_⟩
  · exact laneRetires_of ready rfl (exec_fcmp x.f s) (fcmpBody_done ready.free off)
  · exact laneRetires_of ready rfl (exec_fcmpImm x.f s) (fcmpBody_done ready.free off)
  · refine ⟨fpxRaise x.act x.G.sc.fpctl (fcmpFlags x), ?_, rfl, fcmp_raise on⟩
    simp only [List.mem_cons, List.not_mem_nil, or_false] at form
    rcases form with rfl | rfl
    · exact fcmp_traps ready rfl (exec_fcmp x.f s) on
    · exact fcmp_traps ready rfl (exec_fcmpImm x.f s) on

/-- Settles O32: each lane's condition is the one of its comparison, and what the active lanes raise is invalid or nothing. -/
theorem laneComparisons : Obligations.LaneComparisons := ⟨laneCompareResult, laneFloatCompareResult⟩

end Sys2Proof.Machine

namespace Sys2Proof.Machine

/-! ### TRAP where the group halts in place (R126, R330, R341) -/

section
variable (G : Group) (r : Raise) (lane : Bool) (pc head : W64) (chain : Bool)

/-- Noting a cause leaves the lane stream, the binding and the mode of a group. -/
theorem noteCause_lane : (noteCause G r lane pc head chain).lane = G.lane := by rw [noteCause_eq]
theorem noteCause_bind : (noteCause G r lane pc head chain).bind = G.bind := by rw [noteCause_eq]
theorem noteCause_hmode : (noteCause G r lane pc head chain).trap.hmode = G.trap.hmode := by rw [noteCause_eq]

end

/-- TRAP outside a handler: the record is written, and the cause is taken on the retired group (R341). -/
theorem exec_trap_outside {s : State} {G : Group} (code : BitVec 13) (hg : s.group? s.cur = some G) (outside : G.trap.hmode = false) :
    exec (.trap code) s = .next (takeCause
      (writeCause (clearParty s (.scalar s.cur) G.sc.spc) G (codeRaise cTRAP code) false G.sc.spc G.sc.spc false) s.cur
      (noteCause (G.stepped (G.sc.spc + 4)) (codeRaise cTRAP code) false G.sc.spc G.sc.spc false) cTRAP) := by
  have mode := (noteCause_hmode (G.stepped (G.sc.spc + 4)) (codeRaise cTRAP code) false G.sc.spc G.sc.spc false).trans outside
  rw [exec_trap, execTrap]
  simp only [hg]
  exact congrArg _ (if_neg (by rw [Bool.not_eq_true]; exact mode))

/-- A TRAP outside a handler, in a context whose handler is disabled, halts its group in place: the lane stream lets go the rows that its
waiting instruction held, and what younger instructions have taken. -/
theorem trap_halts_letGo {s : State} {G : Group} {c : Context} (code : BitVec 13) (hg : s.group? s.cur = some G)
    (hc : s.ctxOf G = some c) (outside : G.trap.hmode = false) (off : c.hbaseEn = false) :
    ∃ t K, exec (.trap code) s = .next t ∧ t.groups = s.groups.set s.cur K ∧ K.lane = G.lane.letGo := by
  have written := writeCause_outside (clearParty s (.scalar s.cur) G.sc.spc) G (codeRaise cTRAP code) false G.sc.spc G.sc.spc false
  obtain ⟨K, halted, -, -, -, -, -, taken⟩ := takeCause_eq (c := cTRAP) s.cur written (G := G)
    (noteCause_bind (G.stepped (G.sc.spc + 4)) (codeRaise cTRAP code) false G.sc.spc G.sc.spc false)
    ((noteCause_hmode _ _ _ _ _ _).trans outside)
  have alone := taken c hc
  rw [if_neg (by simp [off])] at alone
  obtain ⟨-, -, -, lane⟩ := alone
  refine ⟨_, K, exec_trap_outside code hg outside, ?_, lane.trans ?_⟩
  · rw [halted, writeCause_groups]
    rfl
  · rw [noteCause_lane]
    rfl

/-- A group in a run whose lane instruction waits with one row in flight for its result. -/
def waitingGroup : Group :=
  { placeGroup 0 0 0 true with lane := { (placeGroup 0 0 0 true).lane with flight := 1 } }

/-- A part with that group, in a context whose handler is disabled. -/
def waitingState : State := { placeInstr State.reset false 4 0 with groups := [waitingGroup] }

/-- Refutes O28: its clause on TRAP says that the lane stream of a group that halts in place stays as it was, but the halt lets go what a
waiting lane instruction held, as it does for every other cause. -/
theorem not_trapInstructions : ¬ Obligations.TrapInstructions := by
  rintro ⟨-, retires, -, -⟩
  have here : waitingState.group? waitingState.cur = some waitingGroup := rfl
  have context : waitingState.ctxOf waitingGroup = some placeCtx := rfl
  obtain ⟨t, H, next, rfl, -, -, claimed⟩ := retires waitingState waitingGroup 0 _ here rfl
  obtain ⟨u, K, next', groups, letGo⟩ := trap_halts_letGo 0 here context rfl rfl
  obtain ⟨-, -, -, kept⟩ := claimed rfl placeCtx context
  have same : waitingState.groups.set waitingState.cur H = waitingState.groups.set waitingState.cur K := by
    rw [next, Host.Outcome.next.injEq] at next'
    rw [← groups, ← next']
  have eq : H = K := List.head_eq_of_cons_eq same
  rw [eq, letGo] at kept
  exact absurd (congrArg LaneSt.flight kept) (by decide)

end Sys2Proof.Machine

namespace Sys2Proof.Machine

/-! ### Pairwise trees (R88) -/

/-- One level of the model's tree over an even number of values. -/
theorem pairUp_map_range (op : LaneRes → LaneRes → LaneRes) (m : Nat) : ∀ g : Nat → LaneRes,
    pairUp op ((List.range (2 * m)).map g) = (List.range m).map fun j => op (g (2 * j)) (g (2 * j + 1)) := by
  induction m with
  | zero => exact fun _ => rfl
  | succ m ih =>
    intro g
    have shifted := ih fun j => g (j + 2)
    rw [show 2 * (m + 1) = 2 * m + 1 + 1 by omega]
    simp only [List.range_succ_eq_map, List.map_cons, List.map_map, pairUp] at shifted ⊢
    exact congrArg _ shifted

/-- A tree whose leaves are combined in pairs is the tree one level higher. -/
theorem segTree_pairs (op : LaneRes → LaneRes → LaneRes) (g : Nat → LaneRes) (n : Nat) : ∀ k,
    segTree op (fun j => op (g (2 * j)) (g (2 * j + 1))) n k = segTree op g (n + 1) (2 * k) := by
  induction n with
  | zero => exact fun _ => rfl
  | succ n ih =>
    intro k
    rw [segTree, ih, ih, Nat.mul_add, ← Nat.pow_succ']
    rfl

/-- A tree over leaves counted from a base. -/
theorem segTree_from (op : LaneRes → LaneRes → LaneRes) (g : Nat → LaneRes) (b n : Nat) : ∀ k,
    segTree op (fun j => g (b + j)) n k = segTree op g n (b + k) := by
  induction n with
  | zero => exact fun _ => rfl
  | succ n ih =>
    intro k
    rw [segTree, ih, ih, ← Nat.add_assoc]
    rfl

/-- A single value is its own tree, however many levels are asked for. -/
theorem treeFold_single (op : LaneRes → LaneRes → LaneRes) (r : LaneRes) : ∀ m, treeFold op [r] m = r
  | 0 => rfl
  | m + 1 => treeFold_single op r m

/-- The model's levels over 2^n values are the tree of R88. -/
theorem treeFold_eq_segTree (op : LaneRes → LaneRes → LaneRes) (n : Nat) : ∀ (g : Nat → LaneRes) (m : Nat), n ≤ m →
    treeFold op ((List.range (2 ^ n)).map g) m = segTree op g n 0 := by
  induction n with
  | zero => exact fun g m _ => treeFold_single op (g 0) m
  | succ n ih =>
    intro g m le
    obtain ⟨m, rfl⟩ : ∃ k, m = k + 1 := ⟨m - 1, by omega⟩
    rw [treeFold, Nat.pow_succ', pairUp_map_range, ih _ m (by omega), segTree_pairs]

/-! ### SEGRED (R88, R327) -/

/-- The node of a reduction: the operation on the values, with the flags of both sub-trees and its own. -/
def segNode (op : LVal → LVal → LaneRes) (p q : LaneRes) : LaneRes := ⟨(op p.val q.val).val, p.fl ||| q.fl ||| (op p.val q.val).fl⟩

/-- What a lane contributes to a reduction: its source, or the identity where it is not active. -/
def segLeaf (x : LaneIn) (e : LVal) (k : Nat) : LaneRes := .of (if x.act.getLsbD k then x.a.toList.getD k 0 else e)

/-- The tree of a lane's segment of 2^n lanes. -/
def segValue (x : LaneIn) (e : LVal) (op : LVal → LVal → LaneRes) (n : Nat) (l : Fin 32) : LaneRes :=
  segTree (segNode op) (segLeaf x e) n (l / 2 ^ n * 2 ^ n)

/-- A lane's segment is one of those of the 32 lanes. -/
theorem segment_lt {n : Nat} (le : n ≤ 5) (l : Fin 32) : l.val / 2 ^ n < 32 / 2 ^ n := by
  have whole : 2 ^ n * (32 / 2 ^ n) = 32 := Nat.mul_div_cancel' (Nat.pow_dvd_pow 2 le)
  exact Nat.div_lt_of_lt_mul (by rw [whole]; exact l.isLt)

section
variable {x : LaneIn} {n : Nat} (size : x.f.c.src = .raw (BitVec.ofNat 9 n)) (le : n ≤ 5)
include size le

theorem segSize_eq : segSize x.f = 2 ^ n := by
  simp only [segSize, size, BitVec.toNat_ofNat]
  congr 1
  omega

/-- SEGRED ends as an arithmetic instruction with the tree of each lane's segment. -/
theorem segred_eq (e : LVal) (op : LVal → LVal → LaneRes) : x.segred e op = x.result x.f.ty (Vector.ofFn (segValue x e op n)) := by
  unfold LaneIn.segred
  simp only [segSize_eq size le]
  congr 2
  funext l
  have tree := treeFold_eq_segTree (segNode op) n (fun j => segLeaf x e (2 ^ n * (l.val / 2 ^ n) + j)) 5 le
  rw [segTree_from, Nat.add_zero, Nat.mul_comm] at tree
  rw [List.getD_eq_getElem?_getD, List.getElem?_map, List.getElem?_range (segment_lt le l), Option.map_some, Option.getD_some, segValue,
    ← tree, Nat.mul_comm]
  rfl

end

theorem wMinN_eq (a b : W32) : wMinN a b = BitVec.ofNat 32 (min a.toNat b.toNat) := by
  unfold wMinN
  split <;> simp [Nat.min_def, *]

theorem wMaxN_eq (a b : W32) : wMaxN a b = BitVec.ofNat 32 (max a.toNat b.toNat) := by
  unfold wMaxN
  split <;> simp [Nat.max_def, *]

theorem wMinI_eq (a b : W32) : wMinI a b = BitVec.ofInt 32 (min a.toInt b.toInt) := by
  unfold wMinI
  split <;> simp [Int.min_def, *]

theorem wMaxI_eq (a b : W32) : wMaxI a b = BitVec.ofInt 32 (max a.toInt b.toInt) := by
  unfold wMaxI
  split <;> simp [Int.max_def, *]

/-- A reduction of words, in the terms of R327's table. -/
theorem segInt_eq (x : LaneIn) (e : LVal) (op : W32 → W32 → W32) :
    x.segInt e op = x.segred e fun a b => .of (BitVec.ofNat 64 (op (a.setWidth 32) (b.setWidth 32)).toNat) := by
  simp only [LaneIn.segInt, zext64_eq_ofNat]

section
variable {s : State} {x : LaneIn} {i : Instr} {f : LForm} {e : W64} {op : W64 → W64 → LaneRes}

theorem segredAddBody_eq (parts : segParts (.segredAdd f) x.f = some (e, op)) : segredAddBody x = x.segred e op := by
  simp only [segParts] at parts
  unfold segredAddBody
  split at parts <;> cases parts
  · next float => exact if_pos float
  · next float => exact (if_neg float).trans (segInt_eq ..)

/-- A reduction that depends on its type: under .f32, under .n32, and under .i32. -/
theorem segred_byType {p q : Prop} [Decidable p] [Decidable q] {a b c : W64 × (W64 → W64 → LaneRes)}
    (parts : (if p then some a else if q then some b else some c) = some (e, op)) :
    (if p then x.segred a.1 a.2 else if q then x.segred b.1 b.2 else x.segred c.1 c.2) = x.segred e op := by
  by_cases float : p
  · rw [if_pos float] at parts ⊢
    cases parts
    rfl
  rw [if_neg float] at parts ⊢
  by_cases nat : q
  · rw [if_pos nat] at parts ⊢
    cases parts
    rfl
  · rw [if_neg nat] at parts ⊢
    cases parts
    rfl

theorem segredMinBody_eq (parts : segParts (.segredMin f) x.f = some (e, op)) : segredMinBody x = x.segred e op := by
  simp only [segParts, ← wMinN_eq, ← wMinI_eq] at parts
  simp only [segredMinBody, segInt_eq]
  exact (segred_byType parts :)

theorem segredMaxBody_eq (parts : segParts (.segredMax f) x.f = some (e, op)) : segredMaxBody x = x.segred e op := by
  simp only [segParts, ← wMaxN_eq, ← wMaxI_eq] at parts
  simp only [segredMaxBody, segInt_eq]
  exact (segred_byType parts :)

theorem segredAndBody_eq (parts : segParts (.segredAnd f) x.f = some (e, op)) : segredAndBody x = x.segred e op := by
  cases parts
  exact segInt_eq ..

theorem segredOrBody_eq (parts : segParts (.segredOr f) x.f = some (e, op)) : segredOrBody x = x.segred e op := by
  cases parts
  exact segInt_eq ..

theorem segredXorBody_eq (parts : segParts (.segredXor f) x.f = some (e, op)) : segredXorBody x = x.segred e op := by
  cases parts
  exact segInt_eq ..

/-- Each form of SEGRED is a reduction with the identity and the operation of R327. -/
theorem segParts_body (ready : LaneReady s i false x) (parts : segParts i x.f = some (e, op)) :
    ∃ body, laneParts i = some (0x0c2, x.f) ∧ exec i s = runLane s (0x0c2 % 512) x.f false body ∧ body x = x.segred e op := by
  have own {f : LForm} (named : laneParts i = some (0x0c2, f)) : x.f = f := (runLane_ready ready named segredAddBody).1.form
  have known := parts
  unfold segParts at known
  split at known
  case h_1 => obtain rfl := own rfl; exact ⟨_, rfl, exec_segredAdd x.f s, segredAddBody_eq parts⟩
  case h_2 => obtain rfl := own rfl; exact ⟨_, rfl, exec_segredMin x.f s, segredMinBody_eq parts⟩
  case h_3 => obtain rfl := own rfl; exact ⟨_, rfl, exec_segredMax x.f s, segredMaxBody_eq parts⟩
  case h_4 => obtain rfl := own rfl; exact ⟨_, rfl, exec_segredAnd x.f s, segredAndBody_eq parts⟩
  case h_5 => obtain rfl := own rfl; exact ⟨_, rfl, exec_segredOr x.f s, segredOrBody_eq parts⟩
  case h_6 => obtain rfl := own rfl; exact ⟨_, rfl, exec_segredXor x.f s, segredXorBody_eq parts⟩
  case h_7 => cases known

end

/-- Where the flags that the active lanes raise together are not enabled, no active lane raises an enabled one. -/
theorem flags_off {m : Mask} {rs : Lanes LaneRes} {en : BitVec 4} (off : flagsOf m rs &&& en = 0) (l : Fin 32)
    (act : m.getLsbD l = true) : (rs[l]).fl &&& en = 0 := by
  refine BitVec.eq_of_getLsbD_eq fun k _ => ?_
  have bit := congrArg (BitVec.getLsbD · k) off
  have raised := (flagsOf_getLsbD m rs k).mpr
  rw [BitVec.getLsbD_and] at bit ⊢
  cases own : (rs[l]).fl.getLsbD k
  · simp
  · rwa [raised ⟨l, act, own⟩] at bit

/-- SEGRED whose tree's flags are not enabled retires with them and the result of each lane's segment. -/
theorem segred_done {x : LaneIn} {n : Nat} {e : LVal} {op : LVal → LVal → LaneRes} {fl : FFlags} (size : x.f.c.src = .raw (BitVec.ofNat 9 n))
    (le : n ≤ 5) (free : x.clash = false) (flags : isFlags x (segValue x e op n) fl) (off : fl &&& x.G.sc.fpctl = 0) :
    x.segred e op = .done (x.s.setGroup x.g (laneWrote x (withFlags x.G fl) x.f.ty (Vector.ofFn fun l => place x.f.ty (segValue x e op n l).val)))
      (x.pc + 12) := by
  have raised : flagsOf x.act (Vector.ofFn (segValue x e op n)) = fl := flagsOf_unique fun k lt => by simpa using flags k lt
  rw [segred_eq size le, result_done free raised (flags_off (raised ▸ off)), Vector.map_ofFn]
  rfl

/-! ### SCANK (R328) -/

/-- A word of 32 bits is placed as it is. -/
theorem place_x32 {v : W64} (lt : v.toNat < 2 ^ 32) : place .x32 v = v :=
  BitVec.eq_of_toNat_eq ((BitVec.toNat_and ..).trans (Nat.and_two_pow_sub_one_of_lt_two_pow lt))

/-- The mask bits of lane l's segment of 2^n lanes, over its first m lanes. -/
def segBits (ka : Mask) (n : Nat) (l : Fin 32) (m : Nat) : Nat :=
  ((List.range m).filter fun k => ka.getLsbD (l / 2 ^ n * 2 ^ n + k)).length

theorem popCount_segment (ka : Mask) (n : Nat) (l : Fin 32) (m : Nat) :
    popCount (ka.toNat / 2 ^ (l.val - l.val % 2 ^ n)) m = segBits ka n l m := by
  have base : l.val - l.val % 2 ^ n = l.val / 2 ^ n * 2 ^ n := by
    have := Nat.div_add_mod' l.val (2 ^ n)
    omega
  rw [base, ← Nat.shiftRight_eq_div_pow, ← BitVec.toNat_ushiftRight, popCount_eq]
  exact congrArg (fun p => ((List.range m).filter p).length) (funext fun k => BitVec.getLsbD_ushiftRight ..)

/-- The count of at most all lanes is placed as it is. -/
theorem place_segBits (ka : Mask) (n : Nat) (l : Fin 32) {m : Nat} (le : m ≤ 32) :
    place .x32 (BitVec.ofNat 64 (segBits ka n l m)) = BitVec.ofNat 64 (segBits ka n l m) := by
  have few : segBits ka n l m ≤ m := Nat.le_trans (List.length_filter_le ..) (Nat.le_of_eq List.length_range)
  exact place_x32 (by rw [BitVec.toNat_ofNat]; omega)

/-- SCANK retires with the count of each lane. -/
theorem scank_done {x : LaneIn} {n : Nat} (size : x.f.c.src = .raw (BitVec.ofNat 9 n)) (le : n ≤ 5) (free : x.clash = false) (incl : Bool) :
    x.scank incl = .done (x.s.setGroup x.g (laneWrote x x.G .x32
      (Vector.ofFn fun l => BitVec.ofNat 64 (segBits x.ka n l (l % 2 ^ n + if incl then 1 else 0))))) (x.pc + 12) := by
  have few (l : Fin 32) : l.val % 2 ^ n + (if incl then 1 else 0) ≤ 32 := by
    have := Nat.mod_le l.val (2 ^ n)
    split <;> omega
  unfold LaneIn.scank
  simp only [segSize_eq size le, popCount_segment]
  rw [result_quiet free fun l => by simp [LaneRes.of], Vector.map_ofFn]
  simp only [Function.comp_def, LaneRes.of, place_segBits _ _ _ (few _)]
  rfl

theorem segmentInstructions : Claim.SegmentInstructions := by
  intro s x i n ready size _ le
  refine ⟨fun e op fl parts r tree flags off => ?_, fun c form => ?_⟩
  · obtain rfl : r = segValue x e op n := funext tree
    obtain ⟨body, named, ex, eq⟩ := segParts_body ready parts
    exact laneRetires_of ready named ex (eq.trans (segred_done size le ready.free flags off))
  · rcases form with ⟨rfl, count⟩ | ⟨rfl, count⟩
    · obtain rfl : c = fun l => segBits x.ka n l (l % 2 ^ n) := funext count
      exact laneRetires_of ready rfl (exec_scankExcl x.f s) (scank_done size le ready.free false)
    · obtain rfl : c = fun l => segBits x.ka n l (l % 2 ^ n + 1) := funext count
      exact laneRetires_of ready rfl (exec_scankIncl x.f s) (scank_done size le ready.free true)

/-! ### Writing a pair of destination registers (R39, R41) -/

/-- Writing a register, or the destination, changes vector registers alone. -/
theorem putReg_vregs (x : LaneIn) (G : Group) (r : VNum) (res : Lanes W32) :
    ∃ V, x.putReg G r res = { G with vec := { G.vec with vregs := V } } := ⟨_, rfl⟩

theorem putDest_vregs (x : LaneIn) (G : Group) (res : Lanes LVal) :
    ∃ V, x.putDest G res = { G with vec := { G.vec with vregs := V } } := by
  unfold LaneIn.putDest
  split
  · exact putReg_vregs ..
  · exact ⟨_, rfl⟩
  · exact ⟨_, rfl⟩

/-- An active lane of a written register holds its new word. -/
theorem putReg_val {x : LaneIn} {l : Fin 32} (act : x.act.getLsbD l = true) (G : Group) (r : VNum) (res : Lanes W32) :
    ((x.putReg G r res).vreg r).val[l] = res[l] := by
  simp [LaneIn.putReg, LaneIn.writeReg, mergeReg, act]

theorem vreg_putReg_other (x : LaneIn) (G : Group) {r q : VNum} (res : Lanes W32) (h : q ≠ r) :
    (x.putReg G r res).vreg q = G.vreg q := vreg_putV_other G _ h

/-- An active lane of a pair holds the low word of its result in the first register, and the high word in the second. -/
theorem putDest_pair {x : LaneIn} {r q : VNum} (dests : destRegs x.row x.f = [r, q]) (ne : r ≠ q) {l : Fin 32}
    (act : x.act.getLsbD l = true) (G : Group) (res : Lanes LVal) :
    ((x.putDest G res).vreg r).val[l] = res[l].setWidth 32 ∧ ((x.putDest G res).vreg q).val[l] = (res[l] >>> 32).setWidth 32 := by
  have pair : x.putDest G res = x.putReg (x.putReg G r (loWords res)) q (hiWords res) := by rw [LaneIn.putDest, dests]
  rw [pair, vreg_putReg_other _ _ _ ne, putReg_val act, putReg_val act]
  simp [loWords, hiWords]

/-! ### ISECT (R326) -/

/-- The value of a list's entry. -/
def listVal (v : Lanes LVal) (k : Nat) : Nat := (v.toList.getD k 0).toNat % 2 ^ 32

/-- The active lanes whose entry is no padding. -/
def realLanes (act : Mask) (v : Lanes LVal) : List Nat := (List.range 32).filter fun k => act.getLsbD k && listVal v k != 0xFFFFFFFF

/-- Lanes with their values. -/
def withVals (f : Nat → Nat) (ls : List Nat) : List (Nat × Nat) := ls.map fun k => (k, f k)

/-- The pairs of lanes whose values are equal. -/
def equalLanes (f g : Nat → Nat) (as bs : List Nat) : List (Nat × Nat) :=
  as.flatMap fun i => (bs.filter fun j => f i = g j).map fun j => (i, j)

theorem realEntries_eq (act : Mask) (v : Lanes LVal) : realEntries act v = withVals (listVal v) (realLanes act v) := by
  rw [realEntries, withVals, ← List.filterMap_eq_map, realLanes, lanesOf, List.filterMap_filter, List.filterMap_filter]
  refine congrArg (fun h => (List.range 32).filterMap h) (funext fun k => ?_)
  rw [BitVec.toNat_setWidth]
  by_cases on : act.getLsbD k = true <;> by_cases pad : listVal v k = 0xFFFFFFFF
  all_goals simp_all [listVal]

theorem matches_withVals (f g : Nat → Nat) (as bs : List Nat) :
    matches_ (withVals f as) (withVals g bs) = equalLanes f g as bs := by
  unfold matches_ withVals equalLanes
  rw [List.flatMap_map]
  refine congrArg (fun h => as.flatMap h) (funext fun i => ?_)
  rw [List.filterMap_map, ← List.filterMap_eq_map, List.filterMap_filter]
  refine congrArg (fun h => bs.filterMap h) (funext fun j => ?_)
  by_cases equal : f i = g j <;> simp [equal]

/-- A fold of maxima ends at a bound that its start or one of its values meets. -/
theorem foldl_max_eq {f : Nat → Nat} {top : Nat} (ls : List Nat) : ∀ n, n ≤ top → (∀ k ∈ ls, f k ≤ top) →
    (n = top ∨ ∃ i ∈ ls, f i = top) → ls.foldl (fun n k => max n (f k)) n = top := by
  induction ls with
  | nil => exact fun n _ _ met => met.elim id fun ⟨_, mem, _⟩ => absurd mem List.not_mem_nil
  | cons a t ih =>
    intro n le bound met
    have first := bound a List.mem_cons_self
    refine ih (max n (f a)) (Nat.max_le.mpr ⟨le, first⟩) (fun k mem => bound k (List.mem_cons_of_mem a mem)) ?_
    rcases met with rfl | ⟨i, mem, rfl⟩
    · exact .inl (Nat.max_eq_left first)
    · rcases List.mem_cons.mp mem with rfl | later
      · exact .inl (Nat.max_eq_right le)
      · exact .inr ⟨i, later, rfl⟩

/-- The largest of some values, as a fold finds it. -/
theorem foldl_max_withVals {f : Nat → Nat} {ls : List Nat} {i : Nat} (mem : i ∈ ls) (top : ∀ k ∈ ls, f k ≤ f i) :
    (withVals f ls).foldl (fun n p => max n p.2) 0 = f i := by
  rw [withVals, List.foldl_map]
  exact foldl_max_eq ls 0 (Nat.zero_le _) top (.inr ⟨i, mem, rfl⟩)

/-- The entries up to a bound. -/
theorem length_upTo (f : Nat → Nat) (ls : List Nat) (mu : Nat) :
    ((withVals f ls).filter fun p => decide (p.2 ≤ mu)).length = (ls.filter fun k => f k ≤ mu).length := by
  rw [withVals, List.filter_map, List.length_map]
  rfl

/-- MORE, in its place in the vote entry. -/
theorem more_field (n : Nat) : 2 ^ 22 * (if 32 < n then 1 else 0) = if 32 < n then 2 ^ 22 else 0 := by
  split <;> rfl

section
variable {f g : Nat → Nat} {as bs : List Nat} (m : List (Nat × Nat))

/-- The vote entry where a list has no real entry: both are used up. -/
theorem isectEntry_empty (lacking : as = [] ∨ bs = []) : isectEntry (withVals f as) (withVals g bs) m =
    as.length + 2 ^ 8 * bs.length + 2 ^ 16 * min m.length 32 + if 32 < m.length then 2 ^ 22 else 0 := by
  have empty : (!(withVals f as).isEmpty && !(withVals g bs).isEmpty) = false := by
    rcases lacking with rfl | rfl <;> simp [withVals]
  simp only [isectEntry, empty, Bool.false_eq_true, if_false, more_field]
  simp only [withVals, List.length_map]

/-- The vote entry where both lists have real entries, of which i and j have the largest values. -/
theorem isectEntry_both {i j : Nat} (memA : i ∈ as) (topA : ∀ k ∈ as, f k ≤ f i) (memB : j ∈ bs) (topB : ∀ k ∈ bs, g k ≤ g j) :
    isectEntry (withVals f as) (withVals g bs) m = (as.filter fun k => f k ≤ min (f i) (g j)).length +
      2 ^ 8 * (bs.filter fun k => g k ≤ min (f i) (g j)).length + 2 ^ 16 * min m.length 32 + if 32 < m.length then 2 ^ 22 else 0 := by
  have both : (!(withVals f as).isEmpty && !(withVals g bs).isEmpty) = true := by
    simp [withVals, List.ne_nil_of_mem memA, List.ne_nil_of_mem memB]
  simp only [isectEntry, both, if_true, foldl_max_withVals memA topA, foldl_max_withVals memB topB, length_upTo, more_field]

/-- The vote entry of R326: the entries that are used up, the matches, and whether there are more than 32. -/
theorem isectEntry_eq {ax ay : Nat}
    (both : as ≠ [] → bs ≠ [] → ∃ mu, (∃ i ∈ as, ∀ k ∈ as, f k ≤ f i ∧ ∃ j ∈ bs, (∀ k ∈ bs, g k ≤ g j) ∧ mu = min (f i) (g j)) ∧
      ax = (as.filter fun k => f k ≤ mu).length ∧ ay = (bs.filter fun k => g k ≤ mu).length)
    (empty : as = [] ∨ bs = [] → ax = as.length ∧ ay = bs.length) : isectEntry (withVals f as) (withVals g bs) m =
      ax + 2 ^ 8 * ay + 2 ^ 16 * min m.length 32 + if 32 < m.length then 2 ^ 22 else 0 := by
  by_cases lacking : as = [] ∨ bs = []
  · obtain ⟨rfl, rfl⟩ := empty lacking
    exact isectEntry_empty m lacking
  · obtain ⟨someA, someB⟩ := not_or.mp lacking
    obtain ⟨mu, ⟨i, memA, top⟩, rfl, rfl⟩ := both someA someB
    obtain ⟨-, j, memB, topB, rfl⟩ := top i memA
    exact isectEntry_both m memA (fun k mem => (top k mem).1) memB topB

end

/-- What ISECT writes to a lane: the pair of lanes of its match, the second in the high word, or all ones (R326). -/
def isectPair (m : List (Nat × Nat)) (t : Nat) : LVal :=
  match m[t]? with
  | some p => BitVec.ofNat 32 p.2 ++ BitVec.ofNat 32 p.1
  | none => 0xFFFFFFFFFFFFFFFF#64

section
variable {m : List (Nat × Nat)} {t : Nat}

theorem isectPair_some {p : Nat × Nat} (found : m[t]? = some p) :
    (isectPair m t).setWidth 32 = BitVec.ofNat 32 p.1 ∧ (isectPair m t >>> 32).setWidth 32 = BitVec.ofNat 32 p.2 := by
  simp only [isectPair, found]
  exact ⟨BitVec.setWidth_append_eq_right, BitVec.setWidth_ushiftRight_eq_extractLsb.trans BitVec.extractLsb'_append_eq_left⟩

theorem isectPair_none (beyond : m[t]? = none) :
    (isectPair m t).setWidth 32 = 0xFFFFFFFF#32 ∧ (isectPair m t >>> 32).setWidth 32 = 0xFFFFFFFF#32 := by
  simp only [isectPair, beyond]
  decide

end

/-- The instruction with all lanes active, as ISECT writes its pair. -/
def allLanes (x : LaneIn) : LaneIn := { x with act := 0xFFFFFFFF#32 }

theorem allLanes_active (x : LaneIn) (l : Fin 32) : (allLanes x).act.getLsbD l = true :=
  (show ∀ l : Fin 32, (0xFFFFFFFF#32).getLsbD l = true by decide) l

/-- An append to a vote port that has room (R30). -/
theorem append_done {x : LaneIn} {G : Group} (free : x.clash = false) (room : G.lane.vp.length < 4) (s : State) (e : W64) :
    x.append s G e = .done (s.setGroup x.g { G with lane := { G.lane with vp := G.lane.vp ++ [e] } }) (x.pc + 12) := by
  unfold LaneIn.append
  rw [free]
  exact if_neg (Nat.not_le.mpr room)

/-- The group after ISECT: its pair is written in all lanes, and its vote entry appended. -/
def isectGroup (x : LaneIn) (m : List (Nat × Nat)) (entry : W64) : Group :=
  let G := (allLanes x).putDest x.G (Vector.ofFn fun t => isectPair m t)
  { G with lane := { G.lane with vp := G.lane.vp ++ [entry] } }

/-- ISECT writes its pair and appends its entry alone. -/
theorem isectGroup_keeps (x : LaneIn) (m : List (Nat × Nat)) (entry : W64) :
    (isectGroup x m entry).lane = { x.G.lane with vp := x.G.lane.vp ++ [entry] } ∧ (isectGroup x m entry).sc = x.G.sc ∧
    (isectGroup x m entry).vec.kregs = x.G.vec.kregs := by
  obtain ⟨V, written⟩ := putDest_vregs (allLanes x) x.G (Vector.ofFn fun t => isectPair m t)
  rw [isectGroup, written]
  exact ⟨rfl, rfl, rfl⟩

theorem isectGroup_pair {x : LaneIn} {r q : VNum} (dests : destRegs x.row x.f = [r, q]) (ne : r ≠ q) (m : List (Nat × Nat)) (entry : W64)
    (l : Fin 32) : ((isectGroup x m entry).vreg r).val[l] = (isectPair m l).setWidth 32 ∧
      ((isectGroup x m entry).vreg q).val[l] = (isectPair m l >>> 32).setWidth 32 := by
  obtain ⟨low, high⟩ := putDest_pair (x := allLanes x) dests ne (allLanes_active x l) x.G (Vector.ofFn fun t => isectPair m t)
  exact ⟨low.trans (by simp), high.trans (by simp)⟩

theorem isectBody_done {x : LaneIn} (free : x.clash = false) (room : x.G.lane.vp.length < 4) {m : List (Nat × Nat)} {n : Nat}
    (pairs : matches_ (realEntries x.act x.a) (realEntries x.act x.b) = m)
    (entry : isectEntry (realEntries x.act x.a) (realEntries x.act x.b) m = n) :
    isectBody x = .done (x.s.setGroup x.g (isectGroup x m (BitVec.ofNat 64 n))) (x.pc + 12) := by
  subst pairs entry
  refine append_done free ?_ x.s _
  obtain ⟨V, written⟩ := putDest_vregs (allLanes x) x.G (Vector.ofFn fun t =>
    isectPair (matches_ (realEntries x.act x.a) (realEntries x.act x.b)) t)
  exact (congrArg (fun G => G.lane.vp.length < 4) written).mpr room

theorem intersectionInstruction : Claim.IntersectionInstruction := by
  intro s x ready room X Y real M ax ay both empty
  have xs := realEntries_eq x.act x.a
  have ys := realEntries_eq x.act x.b
  have pairs : matches_ (realEntries x.act x.a) (realEntries x.act x.b) = M := by
    rw [xs, ys]
    exact matches_withVals ..
  have entry : isectEntry (realEntries x.act x.a) (realEntries x.act x.b) M =
      ax + 2 ^ 8 * ay + 2 ^ 16 * min M.length 32 + if 32 < M.length then 2 ^ 22 else 0 := by
    rw [xs, ys]
    exact isectEntry_eq M both empty
  obtain ⟨lane, sc, kregs⟩ := isectGroup_keeps x M _
  refine ⟨_, laneRetires_of ready rfl (exec_isect x.f s) (isectBody_done ready.free room pairs entry), lane, sc, kregs, fun r _ dests l => ?_⟩
  have ne : r ≠ r + 1 := by bv_omega
  obtain ⟨low, high⟩ := isectGroup_pair dests ne M _ l
  rw [low, high]
  cases found : M[l.val]? with
  | none => exact isectPair_none found
  | some p => exact isectPair_some found

/-- Settles O45: SEGRED's levels are the tree of R88 over its segment's leaves, SCANK counts the segment's bits, and ISECT's fold over the
real entries finds the bounds that its vote entry is counted by. -/
theorem crossLaneInstructions : Obligations.CrossLaneInstructions := ⟨segmentInstructions, intersectionInstruction⟩

end Sys2Proof.Machine
